-- ==== Sys2Proof/Word.lean ====
section
/-! DEFINITION. The word types of the device and the fixed sets of names that its commands use. -/

namespace Sys2Proof

/-- A byte of memory, of a core store or of a datagram. -/
abbrev Byte := BitVec 8

/-- A 64-bit register, scalar or configuration (R17, R60). -/
abbrev Word := BitVec 64

/-- A 32-bit accumulator word, FP32 value or INT32 value. -/
abbrev W32 := BitVec 32

/-- The 256 bytes of a vector register (R60); byte `j` is bits `8j+7` to `8j`. -/
abbrev VData := BitVec 2048

/-- The at most 512 bytes of a tile row (R77), packed as a vector register is. -/
abbrev RowData := BitVec 4096

/-- The 64 bytes of a memory line or core-store granule. -/
abbrev LineData := BitVec 512

/-- The three sequencers of a core (R60). -/
inductive StreamId where
  | f | b | u
  deriving DecidableEq, Repr

/-- A sequencer's place in the register map: 0 F, 1 B, 2 U (R66, R230). -/
def StreamId.idx : StreamId → Nat
  | .f => 0
  | .b => 1
  | .u => 2

/-- The stream a number names, where it names one. -/
def StreamId.ofNat? : Nat → Option StreamId
  | 0 => some .f
  | 1 => some .b
  | 2 => some .u
  | _ => none

/-- The interleave owner code of a stream (Table 5.1): 1 F, 2 B, 3 U. -/
def StreamId.ownerCode (x : StreamId) : Nat := x.idx + 1

/-- A sequencer of a core: where an instruction issues. -/
structure At where
  core : Nat
  stream : StreamId
  deriving DecidableEq, Repr

/-- Bits `hi` to `lo` of a number. -/
def bits (hi lo : Nat) (n : Nat) : Nat := (n >>> lo) % 2 ^ (hi + 1 - lo)

/-- Bit `i` of a number. -/
def bit (i : Nat) (n : Nat) : Bool := n.testBit i

/-- The number with bits `hi` to `lo` replaced by the low bits of `v`. -/
def setBits (hi lo : Nat) (n v : Nat) : Nat :=
  let w := hi + 1 - lo
  (n - (bits hi lo n) * 2 ^ lo) + (v % 2 ^ w) * 2 ^ lo

/-- The number a Bool stands for in a register. -/
def b2n (b : Bool) : Nat := if b then 1 else 0

/-- The little-endian bytes of a number (R16). -/
def leBytes : Nat → Nat → List Byte
  | 0, _ => []
  | k + 1, n => BitVec.ofNat 8 n :: leBytes k (n / 256)

/-- The number that little-endian bytes hold (R16). -/
def leNat : List Byte → Nat
  | [] => 0
  | b :: bs => b.toNat + 256 * leNat bs

end Sys2Proof
end

