-- ==== Sys2Proof/Syntax.lean ====
section
/-! DEFINITION. The commands of the device: one constructor per row of the opcode table, with its operands.
An instruction row names the stream that issues it (`At`) and the fields of its encoding, at the widths of
Tables 3.5 to 10.2, so that a reserved field value can be written and is treated as R63 says. An event row
names the place it happens at and what the outside world brings to it. -/

namespace Sys2Proof

abbrev SReg := BitVec 5
abbrev VReg := BitVec 5
abbrev TReg := BitVec 4
abbrev Imm := BitVec 32

/-- The common fields of the V form (Table 3.5). -/
structure VOp where
  vd : VReg
  va : VReg
  vb : VReg
  vc : VReg
  fmt : BitVec 4
  pred : BitVec 4
  pneg : Bool
  deriving DecidableEq, Repr

/-- The fields of `tld` and `tst` (Table 3.5). -/
structure TileMemOp where
  tile : TReg
  sBase : SReg
  sStride : SReg
  space : Bool
  na : Bool
  imm : Imm
  deriving DecidableEq, Repr

/-- The fields of `mma` and `mmaz` (Table 4.4). -/
structure MmaOp where
  ta : TReg
  tw : TReg
  acc : BitVec 2
  form : BitVec 2
  tra : Bool
  trw : Bool
  opa : BitVec 2
  la : Bool
  opw : BitVec 2
  lw : Bool
  mM1 : BitVec 5
  arow : BitVec 8
  koff : BitVec 8
  nM1 : BitVec 8
  deriving DecidableEq, Repr

/-- The fields of `acct` (Table 4.9). -/
structure AcctOp where
  tile : TReg
  acc : BitVec 2
  form : BitVec 2
  trow : BitVec 8
  countM1 : BitVec 5
  arow : BitVec 5
  deriving DecidableEq, Repr

/-- The fields of `fnb` (Table 5.5). -/
structure FnbOp where
  tx : TReg
  tg : TReg
  td : TReg
  tp : TReg
  vS : VReg
  vR : VReg
  acc : BitVec 2
  mode : Bool
  kind : Bool
  row0 : BitVec 8
  countM1 : BitVec 5
  grow : BitVec 8
  sH : SReg
  deriving DecidableEq, Repr

/-- The fields of `fsb` (Table 5.6). -/
structure FsbOp where
  ty : TReg
  tg : TReg
  td : TReg
  vS : VReg
  mode : Bool
  row0 : BitVec 8
  countM1 : BitVec 6
  sC : SReg
  deriving DecidableEq, Repr

/-- The fields of a Y-class instruction (R257); `rop` is used by `sy.rmt` alone. -/
structure SyOp where
  sObj : SReg
  sVal : SReg
  sd : SReg
  rel : Bool
  rop : BitVec 4
  imm : Imm
  deriving DecidableEq, Repr

/-- Symbol errors of a stored line (R180): symbol number, 0 to 71, and the bits that differ. -/
abbrev SymErrs := List (Nat × Byte)

/-- What a read of a line meets: symbol errors that have befallen it, and how many corrections the inner code made (R179,
R181). -/
structure LineNoise where
  errs : SymErrs
  inner : Nat
  deriving DecidableEq, Repr

/-- What arrives at a fabric port: the bytes of a frame, and how many codewords the port's FEC corrected and could not
correct while they came (R276, R301). -/
structure Wired where
  bytes : List Byte
  fecCorr : Nat
  fecUncorr : Nat
  deriving DecidableEq, Repr

/-- Who asks a stack for a line (Table 13.7): the result of a denial goes there. -/
inductive Issuer where
  | core (i : At) (va : Nat)
  | dma (core : Nat)
  | session (s : Nat)
  | collective (e t : Nat)
  | internal
  deriving DecidableEq, Repr

/-- What the wires do to a flit or message on one hop (R236). -/
inductive HopError where
  | none
  | corrected
  | payload
  | sidebandCorrected
  | sideband
  deriving DecidableEq, Repr

/-- A node of the network: the router of a site (site number `20x + y`) or a ring stop. -/
inductive Node where
  | site (n : Nat)
  | stop (n : Nat)
  deriving DecidableEq, Repr

/-- An output of a node (R242, Table 17.7). -/
inductive OutPort where
  | local | north | east | south | west
  | spur (k : Nat)
  | ringCw | ringCcw
  | block
  deriving DecidableEq, Repr

/-- Where a packet goes: to the core of a site, or to a block of the ring at one of these stops through the spur router
at a site (R243). -/
inductive Dest where
  | site (n : Nat)
  | ring (stops : List Nat) (exit : Nat)
  deriving DecidableEq, Repr

/-- The packet a data-plane flit belongs to: the accumulate delivery with an identity; packet `k` of a unit of a Flume
request (R244); the reply to a core's next read of a physical address, or its next write or transfer row there; a 256-byte
unit of a core's image; a transfer row between a unit's core and another core's store; bytes 256k to 256k + 255 of the data
of a host's memory command; the next line that a collective engine moves; or any other packet of a channel, by its number,
from a node to a destination. -/
inductive Pkt where
  | acc (id : Nat)
  | flume (run unit k : Nat)
  | reply (core pa : Nat)
  | writeback (core pa : Nat)
  | dma (core pa : Nat) (toCore : Bool)
  | dmaCore (core other : Nat) (out : Bool)
  | image (core unit : Nat) (restore : Bool)
  | hostData (session seq pa : Nat)
  | collData (eng pa : Nat) (toStack : Bool)
  | other (ch id : Nat) (src : Node) (dst : Dest) (flits : Nat)
  deriving DecidableEq, Repr

/-- The sources of a non-finite notice (R348). -/
inductive NfSource where
  | stream (i : At)
  | accEngine (stack : Nat)
  | collEngine (e t : Nat)
  deriving DecidableEq, Repr

/-- A control-plane message: a sync operation, a wake, a mark for a Tally unit, a session's configuration access, the next
`sy.rmt` of a core, a fault record, a source's non-finite notice, or any other, by its number, from a node to a
destination. -/
inductive Msg where
  | sync (id : Nat)
  | wake (id : Nat)
  | mark (id : Nat)
  | config (session seq : Nat)
  | rmt (core : Nat)
  | fault (id : Nat)
  | notice (src : NfSource)
  | other (id : Nat) (src : Node) (dst : Dest)
  deriving DecidableEq, Repr

/-- A record of a fabric frame (Table 11.3). -/
inductive FabRec where
  | sync (rop : Nat) (obj : Nat) (blaze : Bool) (x : Word)
  | grant (op : Nat) (credits : Nat) (collId : Nat) (bytes : Nat) (nM1 : Nat) (fmt : Nat) (round : Nat)
  | abort (code : Byte) (dev : Nat) (collId : Nat)
  | heartbeat (dev : Nat) (risk : Nat)
  | request (collId : Nat) (round : Nat) (dstShard : Nat) (bytes16 : Nat)
  | putOpen (digest : Bool) (collId : Nat) (va : Nat) (bytes : Nat) (peerObj : Nat) (peerEn : Bool)
  | data (blaze : Bool) (last : Bool) (k : Nat) (collId : Nat) (off : Nat) (payload : List Byte)
  deriving DecidableEq, Repr

/-- A fabric frame (R278, Table 11.2). -/
structure FabFrame where
  etherType : Nat
  ver : Nat
  bulk : Bool
  ackBulk : Bool
  engine : Nat
  srcDev : Nat
  dstDev : Nat
  job : Nat
  seq : Nat
  ack : Nat
  recs : List FabRec
  deriving DecidableEq, Repr

/-- A UDP datagram as a host port receives it (R302, R303); `bytes` is its payload, and the last two count the
codewords that the port's FEC corrected and could not correct while it came (R323). -/
structure Datagram where
  port : Nat
  srcMac : Nat
  srcIp : Nat
  v4 : Bool
  dstIp : Nat
  srcUdp : Nat
  dstUdp : Nat
  vlan : Option Nat
  udpSum : Nat
  bytes : List Byte
  fecCorr : Nat
  fecUncorr : Nat
  deriving DecidableEq, Repr

/-- What the physical part shows during a boot: the flash, the stacks' training, the self-test, and the lands I3C_ADDR1
and I3C_ADDR0, which only a cold reset samples (R414). -/
structure BootWorld where
  flashOk : Bool
  flashMhz : Nat
  trainFail : List Nat
  coreFail : List Nat
  ringFail : Bool
  i3cLands : BitVec 2
  deriving DecidableEq, Repr

/-- One sampling of the sensors (R397): junctions in °C by site and by ring stop, stack temperatures,
the supply minimum in mV and the package power in units of 0.125 W. -/
structure Samples where
  sites : List (Nat × Nat)
  stops : List (Nat × Nat)
  stackTemps : List (Nat × Nat)
  supplyMv : Nat
  power8 : Nat
  deriving DecidableEq, Repr

/-- Averages of package power, in watts, over the windows of R421: 100 µs, 1 ms and 1 s. -/
structure PowerAverages where
  us100 : Nat
  ms1 : Nat
  s1 : Nat
  deriving DecidableEq, Repr

/-- The rails that the device monitors (R428), and `VPP_STK` of R416. -/
inductive Rail where
  | vddAux | vddStk | vddCore | vppStk
  deriving DecidableEq, Repr

/-- The commands, in the order of the opcode table. -/
inductive Instr where
  -- S class (Table 3.6)
  | nopInstr (i : At)
  | add (i : At) (sd sa sb : SReg) (imm : Imm)
  | sub (i : At) (sd sa sb : SReg) (imm : Imm)
  | and (i : At) (sd sa sb : SReg) (imm : Imm)
  | or (i : At) (sd sa sb : SReg) (imm : Imm)
  | xor (i : At) (sd sa sb : SReg) (imm : Imm)
  | shl (i : At) (sd sa sb : SReg) (imm : Imm)
  | shr (i : At) (sd sa sb : SReg) (imm : Imm)
  | sar (i : At) (sd sa sb : SReg) (imm : Imm)
  | mul (i : At) (sd sa sb : SReg)
  | li (i : At) (sd : SReg) (imm : Imm)
  | lhi (i : At) (sd sa : SReg) (imm : Imm)
  | cmp (i : At) (cond : BitVec 3) (sd sa sb : SReg)
  | br (i : At) (cond : BitVec 3) (sa sb : SReg) (imm : Imm)
  | jr (i : At) (sa : SReg) (imm : Imm)
  | ld (i : At) (sd sb : SReg) (space : Bool) (imm : Imm)
  | st (i : At) (sa sb : SReg) (space : Bool) (imm : Imm)
  | amode (i : At) (imm : Imm)
  | halt (i : At)
  | illegalInstruction (i : At) (word : Word)
  -- V class (Table 3.7)
  | vadd (i : At) (o : VOp)
  | vsub (i : At) (o : VOp)
  | vmul (i : At) (o : VOp)
  | vfma (i : At) (o : VOp)
  | vmax (i : At) (o : VOp)
  | vmin (i : At) (o : VOp)
  | vcmp (i : At) (o : VOp) (pd : BitVec 3) (cond : BitVec 3)
  | vcvt (i : At) (o : VOp) (dfmt : BitVec 4) (part : BitVec 3)
  | vdiv (i : At) (o : VOp)
  | vsqrt (i : At) (o : VOp)
  | vrcp (i : At) (o : VOp)
  | vrsqrt (i : At) (o : VOp)
  | vexp (i : At) (o : VOp)
  | vlog (i : At) (o : VOp)
  | vsel (i : At) (o : VOp)
  | vredsum (i : At) (o : VOp)
  | vld (i : At) (o : VOp) (sBase : SReg) (space : Bool) (off : BitVec 16)
  | vst (i : At) (o : VOp) (sBase : SReg) (space : Bool) (off : BitVec 16)
  | vmovs (i : At) (o : VOp) (sd : SReg) (lane : BitVec 8)
  | vbcast (i : At) (o : VOp) (sa : SReg)
  -- T class (Table 3.5a)
  | tcfg (i : At) (tile : TReg) (rowsM1 : BitVec 8) (lenM1 : BitVec 5) (fmt : BitVec 4) (clear : Bool)
  | tcfgHoldRelease (core : Nat) (stream : StreamId)
  | tld (i : At) (o : TileMemOp)
  | tst (i : At) (o : TileMemOp)
  | tvrd (i : At) (tile : TReg) (vreg : VReg) (sRow : SReg) (half : Bool)
  | tvwr (i : At) (tile : TReg) (vreg : VReg) (sRow : SReg) (half : Bool)
  -- A class (Tables 4.4, 4.9)
  | mma (i : At) (o : MmaOp)
  | mmaz (i : At) (o : MmaOp)
  | mmaRetire (core : Nat)
  | accz (i : At) (acc : BitVec 2)
  | acct (i : At) (o : AcctOp)
  | accrd (i : At) (vd : VReg) (sIdx : SReg) (acc : BitVec 2)
  | accwr (i : At) (va : VReg) (sIdx : SReg) (acc : BitVec 2)
  | accadd (i : At) (va : VReg) (sIdx : SReg) (acc : BitVec 2)
  -- K class (Tables 5.5, 5.6)
  | fnb (i : At) (o : FnbOp)
  | fsb (i : At) (o : FsbOp)
  -- P class (Table 6.6)
  | gset (i : At) (sGrp sVal : SReg) (word : BitVec 5) (imm : Imm)
  | upd (i : At) (sShard sBlk sSc : SReg) (countM1 : BitVec 4)
  | updTally (i : At) (sShard sCur sSc sPart : SReg) (countM1 : BitVec 4)
  | tallyAdd (i : At) (sShard sRow : SReg)
  | tallyAddv (i : At) (sShard : SReg) (va : VReg) (pred : BitVec 4) (pneg : Bool)
  | tallyClr (i : At) (sGrp : SReg)
  | updCommit (i : At) (sd sShard : SReg)
  | tallyMarkArrival (n : Nat)
  -- M class (Table 3.13)
  | ncflush (i : At) (sa sb : SReg)
  | ncinv (i : At) (sa sb : SReg)
  | ncfi (i : At) (sa sb : SReg)
  | mfence (i : At)
  | xcinv (i : At) (sa : SReg)
  -- D class (Table 8.7)
  | dma (i : At) (sDesc : SReg)
  | dmaw (i : At)
  | flm (i : At) (sReq : SReg) (eng : BitVec 4)
  | dacc (i : At) (va : VReg) (sAddr sMeta sSig : SReg) (bf16 : Bool)
  -- Y class (Table 10.2)
  | syCfg (i : At) (o : SyOp)
  | syAdd (i : At) (o : SyOp)
  | sySet (i : At) (o : SyOp)
  | syWait (i : At) (o : SyOp)
  | syPost (i : At) (o : SyOp)
  | syAcq (i : At) (o : SyOp)
  | syArrive (i : At) (o : SyOp)
  | syArrw (i : At) (o : SyOp)
  | syEvset (i : At) (o : SyOp)
  | syEvclr (i : At) (o : SyOp)
  | syEvwait (i : At) (o : SyOp)
  | syRd (i : At) (o : SyOp)
  | syRmt (i : At) (o : SyOp)
  | syncOpArrival (n : Nat)
  | syncWake (n : Nat)
  | syncCancel (n : Nat)
  -- sequencers
  | seqStart (core : Nat) (stream : StreamId)
  | seqPause (core : Nat) (stream : StreamId) (value : Bool)
  | servicePauseTakeEffect (core : Nat) (stream : StreamId)
  | seqResume (core : Nat) (stream : StreamId)
  | seqAbort (core : Nat) (stream : StreamId)
  | externalFaultArrival (core : Nat) (stream : StreamId) (code : Byte) (addr : BitVec 48)
  | translationWalk (core : Nat) (unit : Nat) (va : Nat) (write : Bool)
  | nearCacheFill (i : At) (va : Nat) (write : Bool)
  | nearCacheWriteback (core : Nat) (line : Nat)
  | runAheadPrefetch (core : Nat) (va : Nat) (lines : Nat) (fromTld : Bool) (inPage : Bool)
  | ncFlushAll (core : Nat)
  | ncInvAll (core : Nat)
  | xlateInvGo (core : Nat) (addr : BitVec 48)
  | vcapClearAll (core : Nat)
  | ilvPatternWrite (core : Nat) (ctrl : Bool) (value : Word)
  | rotationStart (core : Nat)
  | slotEnd (core : Nat)
  | shimHorizonExpiry (core : Nat)
  | rampPeriodEnd (core : Nat) (ready : Bool)
  | shimCtrlWrite (core : Nat) (value : Word)
  | clockChange (core : Nat) (mhz : Nat)
  -- Flume and DMA
  | flumeRequestStart (eng t : Nat)
  | flumeUnitRead (eng t : Nat)
  | flumeDeliveryArrival (n row : Nat)
  | slotRecord (n : Nat)
  | flumeQueueSkip (eng t : Nat)
  | flumeQueueClear (eng t : Nat)
  | dmaDescriptorStart (core : Nat)
  | dmaDescriptorComplete (core k rows : Nat)
  | dmaResume (core : Nat)
  | dmaAbort (core : Nat)
  | accDeliveryArrival (n : Nat) (countUe : Bool)
  | daccAckArrival (n : Nat)
  -- mesh
  | boomArrival (site : Nat) (n : Nat)
  | boomHoldExpiry (site : Nat) (ctx : Nat)
  | boomContextLeave (site : Nat) (ctx : Nat)
  | dataPacketHop (node : Node) (out : OutPort) (pkt : Pkt) (err : HopError)
  | controlMessageHop (node : Node) (out : OutPort) (msg : Msg) (err : HopError)
  -- stacks
  | memLineRead (pa : Nat) (by_ : Issuer) (noise : LineNoise) (countUe : Bool)
  | memLineWrite (pa : Nat) (by_ : Issuer) (data : List Byte) (blaze : Bool) (noise : LineNoise)
  | stackFlitReceive (stack : Nat) (flit : List Byte)
  | stackLinkRetrainDone (stack : Nat) (ok : Bool)
  | stackRetrain (stack : Nat)
  | refresh (stack : Nat)
  | scarfAddGo (stack : Nat) (value : Word)
  | scarfCopyComplete (stack : Nat)
  | cruiseStart (stack : Nat)
  | cruiseAbort (stack : Nat)
  | cruiseLine (stack : Nat) (noise : LineNoise)
  | accWinWrite (stack w : Nat) (value : Word)
  | accClearGo (stack : Nat) (value : Word)
  | accClearDone (stack : Nat)
  -- fabric
  | fabricFrameReceive (port : Nat) (frame : Wired)
  | syncRecord (n : Nat)
  | grantRecord (n : Nat)
  | abortRecord (n : Nat)
  | heartbeatRecord (n : Nat)
  | requestRecord (n : Nat)
  | putOpenRecord (n : Nat)
  | dataRecord (n : Nat)
  | fabricAckTimer (peer route : Nat) (bulk : Bool)
  | rtoExpiry (peer route : Nat) (bulk : Bool)
  | heartbeatPeriod
  | peerSilenceExpiry (peer : Nat)
  | portDownExpiry (port : Nat)
  | pcsLockLoss (port : Nat)
  | portLinkUp (port : Nat) (rate400 : Bool) (verified : Bool)
  | portCtrlWrite (port : Nat) (value : Word)
  | peerReviveGo (value : Word)
  | collectiveStart (e t : Nat)
  | collectiveComplete (e t slot : Nat)
  | ceQprodWrite (e t : Nat) (value : Word)
  | ceQueueSkip (e t : Nat)
  | ceQueueClear (e t : Nat)
  | sortYardMemberComplete (e t slot : Nat)
  -- host transport
  | arpRequest (port : Nat) (targetIp : Nat) (senderMac senderIp : Nat)
  | neighbourSolicitation (port : Nat) (targetIp : Nat) (senderMac senderIp : Nat)
  | open (d : Datagram)
  | command (d : Datagram)
  | ack (d : Datagram)
  | read (d : Datagram)
  | close (d : Datagram)
  | commandDispatch (session : Nat)
  | nop (session seq : Nat)
  | cfgRead (session seq : Nat)
  | cfgWrite (session seq : Nat)
  | memWrite (session seq : Nat)
  | memRead (session seq : Nat)
  | run (session seq : Nat)
  | hrelease (session seq : Nat)
  | faultBind (session seq : Nat)
  | semAcquire (session seq : Nat)
  | semRenew (session seq : Nat)
  | semRelease (session seq : Nat)
  | commandCompletion (session seq : Nat)
  | eventTransmit (session : Nat)
  | eventRtoExpiry (session : Nat)
  | sessionSilenceExpiry (session : Nat)
  | leaseLapse
  | dispatchRelease
  | journalResync (copyB : Bool)
  -- tenancies
  | tenValidWrite (t : Nat) (value : Bool)
  | tenancyReset (t : Nat)
  | tenancyResetDone (t : Nat)
  | phaseEnd
  | coreSwitch (core : Nat)
  | coreSwitchDone (core : Nat)
  -- Lookout
  | nfNotice (src : NfSource)
  | lossSample (t : Nat) (value : W32)
  | lossClear (t : Nat)
  | lookoutRecompute
  | lookoutDecay
  -- resets, flash and security
  | coldRstNRise (w : BootWorld)
  | warmRstNRise (w : BootWorld)
  | resetCtrlWarm (w : BootWorld)
  | resetCtrlCold (w : BootWorld)
  | coreResetGo (core : Nat)
  | flashRead (session seq : Nat)
  | flashErase (session seq : Nat)
  | flashWrite (session seq : Nat)
  | secAttest (session seq : Nat)
  | svnAdvance (session seq : Nat)
  | warmReset (session seq : Nat) (w : BootWorld)
  | coreReset (session seq : Nat)
  | coldReset (session seq : Nat) (w : BootWorld)
  | keyEnrol (session seq : Nat)
  | keyRevoke (session seq : Nat)
  | supplyOutOfWindow (rail : Rail) (w : BootWorld)
  -- power and telemetry
  | sensorSample (v : Samples)
  | powerLimitStep (v : PowerAverages)
  | regulatorAck
  | regulatorAckTimeout
  | pwrCtrlWrite (limit : Bool) (value : Word)
  | i3cPrivateWrite (bytes : List Byte)
  | i3cPrivateRead (n : Nat)
  | powerCapWrite (value : BitVec 16)
  | emergencyWrite (value : Bool)
  | i3cAddressAssign (addr : BitVec 7) (byStatic : Option (BitVec 7))
  | utilSelWrite (value : Word)
  | shardPolicyCountClr (t : Nat)
  | syncObjectWordWrite (session : Nat) (obj : Nat) (word1 : Bool) (value : Word)
  | coldRstNAssert
  | coreResetDone (core : Nat) (pass : Bool)
  | journalResyncDone (copyB : Bool)
  | boomContextStorageError (site : Nat) (ctx : Nat)
  deriving DecidableEq, Repr

end Sys2Proof
end

