-- ==== Sys2Proof/Config.lean ====
section
/-! DEFINITION. The free values: what the manual leaves open and the machine goes on with. Each is a constant
without a body, so that a claim holds whatever its value. A value that must be fresh is applied to the counter
`State.free`, which each draw advances (log entry 6). -/

namespace Sys2Proof.Config

/-- The integer drawn for stochastic rounding, before reduction to 0–65,535 (R55). -/
opaque rho : Nat → Nat

/-- A free bit for draw `n`: which of two allowed outcomes happens (R66, R138, R168, R216). -/
opaque coin : Nat → Bool

/-- A free number for draw `n`. -/
opaque number : Nat → Nat

/-- How far an island's counter moves at one idle step (R389): island, draw. -/
opaque advance : Nat → Nat → Nat

/-- The place of product `k` in the order in which the array adds the products of one element in fast mode
(R50): form, products per cell, products, k. Products that stand together in that order share a cell's cycle. -/
opaque arrayKey : Nat → Nat → Nat → Nat → Nat

/-- The place of a leaf in the fixed pairwise tree of `vredsum`, `fnb` and `fsb` (R434, R131): operation,
leaves, leaf. -/
opaque treeKey : Nat → Nat → Nat → Nat

/-- Whether the sums over the rows of a range that `fnb` adds to an accumulator word run row after row, and not
pairwise (R133 gives no order; log entry 19). -/
opaque rowsInTurn : Bool

/-- Is a row in part `q` of a partition into zero parts, which R165 does not state (row, q; log entry 21)? -/
opaque zeroPart : Nat → Nat → Bool

/-- By how many units in the last place a function of the transcendental or divide unit differs from the
correctly rounded value (R47, R146): operation, format, operands. Used only within the stated bound. -/
opaque ulpOffset : Nat → Nat → Nat → Nat → Int

/-- Which of its outputs a router or stop takes for a destination (R242): sites mapped out, legacy edge mode, ring?,
node, destination. -/
opaque route : List Nat → Bool → Bool → Nat → Nat → Nat

/-- The number by which a packet for an engine or a Tally unit of a stack, which names no physical address, chooses among
the exits of the stack (R243): stack, 1 for its engines or 2 for its Tally unit. -/
opaque unitExit : Nat → Nat → Nat

/-- Message buffers of an input port of the control plane beyond one, which the manual does not number (R235). -/
opaque controlBuffers : Nat

/-- A byte of device memory that the device has written in a layout of its own (R320, R328): draw, address. -/
opaque ownByte : Nat → Nat → BitVec 8

/-- Which bit of a stack flit's six header bytes is the Blaze bit (R175 gives no place; log entry 125). -/
opaque flitBlaze : Nat

/-- What the contributor count of a block reads as where it is uncorrectable (R181; log entry 120). -/
opaque badCount : Nat → Nat

/-- The entry that a full cache replaces (R91, R95): draw, entries. -/
opaque victim : Nat → Nat → Nat

/-- Bits [47:32] of the I3C provisional ID, which the manual does not give (R398; log entry 36). -/
opaque pidHigh : BitVec 16

end Sys2Proof.Config
end

