-- ==== Sys2Proof/Machine/Sparse.lean ====
section
/-! DEFINITION. Sparse tables as plain data: lists of (key, value) with keys strictly rising. What a key that is not
listed reads as is named by the caller. A byte store keeps one form more: no listed byte equals the unlisted one. -/

namespace Sys2Proof

/-- A sparse table: (key, value) pairs with strictly rising keys. -/
abbrev SMap (α : Type) := List (Nat × α)

/-- The value at key `k`, or `d` where `k` is not listed. -/
def SMap.get {α : Type} (d : α) : SMap α → Nat → α
  | [], _ => d
  | (j, v) :: m, k => if j = k then v else if k < j then d else SMap.get d m k

/-- The table with `v` at key `k`. -/
def SMap.put {α : Type} : SMap α → Nat → α → SMap α
  | [], k, v => [(k, v)]
  | (j, w) :: m, k, v =>
    if k < j then (k, v) :: (j, w) :: m
    else if k = j then (k, v) :: m
    else (j, w) :: SMap.put m k v

/-- The table without key `k`. -/
def SMap.del {α : Type} : SMap α → Nat → SMap α
  | [], _ => []
  | (j, w) :: m, k => if j = k then m else if k < j then (j, w) :: m else (j, w) :: SMap.del m k

/-- The value listed at key `k`, if any. -/
def SMap.get? {α : Type} : SMap α → Nat → Option α
  | [], _ => none
  | (j, v) :: m, k => if j = k then some v else if k < j then none else SMap.get? m k

/-- Every key of the table lies above `lo`, and the keys rise strictly. -/
def SMap.risingFrom {α : Type} (lo : Nat) : SMap α → Bool
  | [] => true
  | (j, _) :: m => decide (lo ≤ j) && SMap.risingFrom (j + 1) m

/-- The canonical form of a table: keys strictly rising. -/
def SMap.wf {α : Type} (m : SMap α) : Bool := SMap.risingFrom 0 m

/-- A set of numbers: a table that lists its members. -/
abbrev NSet := SMap Unit

/-- Membership. -/
def NSet.has (m : NSet) (k : Nat) : Bool := (SMap.get? m k).isSome

/-- The set with `k`. -/
def NSet.add (m : NSet) (k : Nat) : NSet := SMap.put m k ()

/-- The set without `k`. -/
def NSet.sub (m : NSet) (k : Nat) : NSet := SMap.del m k

/-- The set with `k` a member as `b` says. -/
def NSet.mark (m : NSet) (k : Nat) (b : Bool) : NSet := if b then NSet.add m k else NSet.sub m k

/-- A byte store: cells at strictly rising addresses, none of them zero; an unlisted address reads 0
(log entry 3). -/
abbrev Memory := List Host.Cell

/-- What a byte that nothing has written reads as (DESIGN CHOICE, log entry 3). -/
def Memory.unlisted : Byte := 0

/-- One byte. -/
def Memory.get (m : Memory) (a : Nat) : Byte := SMap.get Memory.unlisted m a

/-- One byte written; the canonical form is kept. -/
def Memory.set (m : Memory) (a : Nat) (b : Byte) : Memory :=
  if b = Memory.unlisted then SMap.del m a else SMap.put m a b

/-- `n` bytes from address `a`. -/
def Memory.read (m : Memory) (a : Nat) : Nat → List Byte
  | 0 => []
  | n + 1 => m.get a :: Memory.read m (a + 1) n

/-- Bytes written from address `a` upward. -/
def Memory.write (m : Memory) (a : Nat) : List Byte → Memory
  | [] => m
  | b :: bs => Memory.write (m.set a b) (a + 1) bs

/-- No listed byte equals the unlisted one. -/
def Memory.noDefault : Memory → Bool
  | [] => true
  | (_, b) :: m => decide (b ≠ Memory.unlisted) && Memory.noDefault m

/-- The canonical form of a byte store. -/
def Memory.wf (m : Memory) : Bool := SMap.wf m && Memory.noDefault m

end Sys2Proof
end

