-- ==== Sys2Proof/Machine/State.lean ====
section
/-! DEFINITION. The state of the device, as plain data, and the ways a step can stop. Configuration registers that
only hold what is written to them, and the counters, stand in `regs` by their offset from 0xF0_0000_0000; a
register that presents a unit's state is computed from that unit's structure (Machine/Regs.lean). -/

namespace Sys2Proof.Machine

/-- Why the device stops. No command stops it: a device fault is part of its state. -/
inductive Fault where
  /-- Raised by no command of this model: a condition the device itself would be lost in. Safe: it only stops. -/
  | lost
  deriving DecidableEq, Repr

/-- Why a command is refused. -/
inductive Refusal where
  /-- Raised by an arm of the dispatch whose command has no meaning yet. Safe: nothing is claimed of it. -/
  | notModelled (mnemonic : String)
  deriving DecidableEq, Repr

/-! ### A core (chapters 3, 4, 5, 8) -/

/-- STATE of a sequencer (Table 3.3). -/
inductive SeqState where
  | idle | running | paused | suspended | faulted | illegal | sliced
  deriving DecidableEq, Repr

/-- A scalar register and its Blaze bit (R60, R62). -/
structure SVal where
  val : Word := 0
  bz : Bool := false
  deriving DecidableEq, Repr

/-- A vector register and its Blaze bit. -/
structure VVal where
  val : VData := 0
  bz : Bool := false
  deriving DecidableEq, Repr

/-- A tile row and its Blaze bit. -/
structure RowVal where
  val : RowData := 0
  bz : Bool := false
  deriving DecidableEq, Repr

/-- Where a waiting instruction's wait stands (R262, R265). -/
inductive WaitPhase where
  | sent
  | cancelling
  | cancelled
  | granted (v : Word) (bz : Bool)
  deriving DecidableEq, Repr

/-- A Y-class instruction that waits for its bank's answer: the low opcode digit of Table 10.2, the object, the
operand, the destination, and for `sy.arrw` the generation it recorded (R262–R265). -/
structure WaitOp where
  op : Nat
  obj : Nat
  x : Word
  sd : SReg
  gen : Option (BitVec 32)
  phase : WaitPhase
  deriving DecidableEq, Repr

/-- A `tcfg` (Table 3.5). -/
structure TcfgOp where
  tile : TReg
  rowsM1 : BitVec 8
  lenM1 : BitVec 5
  fmt : BitVec 4
  clear : Bool
  deriving DecidableEq, Repr

/-- The access that suspended an engine: where, its kind, and where its walk stopped (R231). -/
structure PageReq where
  va : Nat
  write : Bool
  deriving DecidableEq, Repr

/-- A fault from outside the issue path that is not yet taken (R432). -/
structure ExtFault where
  code : Byte
  addr : BitVec 48
  deriving DecidableEq, Repr

/-- The stall causes of Table 0.6. -/
inductive Cause where
  | operand | weightStarve | storeBank | memLimit | xlate | page | sync | slotIdle
  | accBusy | boomBp | nocBp | power | thermal | tcfgHold | slice | other
  deriving DecidableEq, Repr

/-- A sequencer with its private registers (R60–R70). `part` is the `tld` (true) or `tst` that stands part-way,
`restartValid` that it goes on at row `restartRow`; `slotWait` that an array instruction waits for its slot, and whether it
was ready as the last compute on the array began (R125); `heldResume` a RESUME that is held in PAUSED (R70) or whose walk
is not made yet; `held` under which cause the instruction at issue was last held back (R393), and `prepared` which
virtual lines of its access have been made ready, each of which counts once (R395). -/
structure Stream where
  state : SeqState := .idle
  pc : BitVec 21 := 0
  faultCode : Byte := 0
  faddr : BitVec 48 := 0
  restartRow : Byte := 0
  restartValid : Bool := false
  part : Option (TileMemOp × Bool) := none
  pauseReq : Bool := false
  fromSuspended : Bool := false
  heldResume : Bool := false
  arith : BitVec 5 := 0
  sregs : SMap SVal := []
  vregs : SMap VVal := []
  preds : SMap (BitVec 256) := []
  wait : Option WaitOp := none
  heldTcfg : Option TcfgOp := none
  page : Option PageReq := none
  pendingFault : Option ExtFault := none
  beforeSlice : Option SeqState := none
  slotWait : Option Bool := none
  held : Option Cause := none
  prepared : NSet := []
  deriving DecidableEq, Repr

/-- A tile: its shape (zero rows: unconfigured) and its rows (R77, R82). -/
structure Tile where
  rows : Nat := 0
  len : Nat := 0
  fmt : Nat := 0
  data : SMap RowVal := []
  deriving DecidableEq, Repr

/-- An accumulator: 1,024 words and 32 Blaze bits (R60, R100, R107). -/
structure Acc where
  words : SMap W32 := []
  blz : BitVec 32 := 0
  deriving DecidableEq, Repr

/-- A reuse latch (R89, R106). -/
structure Latch where
  valid : Bool := false
  tile : Nat := 0
  rows : Nat := 0
  len : Nat := 0
  fmt : Nat := 0
  tr : Bool := false
  off : Nat := 0
  koff : Nat := 0
  copy : SMap RowVal := []
  deriving DecidableEq, Repr

/-- An entry of the version capture table (R139, Table 5.10). -/
structure CapEntry where
  shard : BitVec 16 := 0
  version : BitVec 32 := 0
  valid : Bool := false
  stale : Bool := false
  deriving DecidableEq, Repr

/-- A DMA descriptor as queued (Table 8.8), with the stream that issued it and its progress. -/
structure DmaDesc where
  stream : StreamId
  srcAddr : Nat
  srcCore : Nat
  srcSpace : Nat
  dstAddr : Nat
  dstCore : Nat
  dstSpace : Nat
  rows : Nat
  rowBytes : Nat
  srcStride : Int
  dstStride : Int
  waitObj : Nat
  waitEn : Bool
  waitValue : Word
  sigObj : Nat
  sigEn : Bool
  waitSent : Bool := false
  waitMet : Bool := false
  started : Bool := false
  row : Nat := 0
  suspended : Bool := false
  deriving DecidableEq, Repr

/-- The DMA unit of a core (R222–R225); `resume` is a RESUME whose walk is not made yet. -/
structure DmaUnit where
  descs : List DmaDesc := []
  suspended : Bool := false
  resume : Bool := false
  restartRow : Nat := 0
  restartValid : Bool := false
  faddr : Nat := 0
  page : Option PageReq := none
  deriving DecidableEq, Repr

/-- What a tenancy has on a core and a slice saves (R328). -/
structure CoreImage where
  f : Stream := {}
  b : Stream := {}
  u : Stream := {}
  tiles : SMap Tile := []
  accs : SMap Acc := []
  store : Memory := []
  storeBlz : NSet := []
  tcfgFaultTile : Nat := 0
  tcfgFaultReason : Nat := 0
  ilvPattern : BitVec 32 := 0
  ilvLen : BitVec 10 := 8
  ilvNext : Option (BitVec 32) := none
  ilvNextLen : Option (BitVec 10) := none
  caps : SMap CapEntry := []
  vcapStatus : Word := 0
  vcapSel : Nat := 0
  updStatus : Word := 0
  dma : DmaUnit := {}
  deriving DecidableEq, Repr

/-- A near-cache line: the virtual address it was filled for, data, marks and grants (R91, R435). -/
structure NcLine where
  data : LineData
  dirty : Bool
  bz : Bool
  r : Bool
  w : Bool
  deriving DecidableEq, Repr

/-- An entry of the translation cache (R95, R226): page number, log2 of the page size, physical page, WRITE, RA. -/
structure TlbEntry where
  vbase : Nat
  size : Nat
  pbase : Nat
  write : Bool
  ra : Bool
  deriving DecidableEq, Repr

/-- An array instruction that has issued and not retired: its result is written at its retirement (R108). -/
structure InFlight where
  stream : StreamId
  ta : Nat
  tw : Nat
  acc : Nat
  words : List (Nat × W32)
  segs : List (Nat × Bool)
  deriving DecidableEq, Repr

/-- The array and its interleave (R108, R116, R122–R126): form and class of the last instruction and its compute
cycles; the array cycles still to come, load-only or not; the cycles of the slot, of the gap and of the ramp period that
have passed; whether the cap rises for a ready instruction. -/
structure ArrayState where
  prev : Option (Nat × Nat) := none
  lastP : Nat := 0
  work : List (Bool × Nat) := []
  slot : Nat := 0
  slotUsed : Nat := 0
  slotRun : Bool := false
  overruns : Nat := 0
  rotations : Nat := 0
  cap : Nat := 0
  gap : Bool := true
  gapUsed : Nat := 0
  horizonPassed : Bool := true
  rampUsed : Nat := 0
  rising : Bool := false
  deriving DecidableEq, Repr

/-- A core: its resident image and what a slice does not save (R60, R326, R328). `replyBz` and `wbBz` are the lines whose
next reply to the core and whose next write by it the network has marked; `dmaBz` the lines of transfer rows (2 × line + 1
on the way to the core, 2 × line from it, and 2^40 + 2 × core + 1 or 0 for a row to or from another core's store), `imageBz`
the 256-byte units of its image (2 × unit, + 1 for one restored), and `rmtBz` its next `sy.rmt` (R236). `ncOp` is a
write-back of the whole near cache that is not complete, and whether every line is then invalidated (R94); `runs` has each
stream's last demanded line and the length of the ascending run that it ends (R229). `scalarBy` and `vectorBy` name the
stream whose instruction the scalar unit and the vector engine have accepted in the present cycle (R121), and `vectorLeft`
how many cycles after that the vector engine is still occupied (R135). -/
structure CoreState where
  img : CoreImage := {}
  res : Option Nat := none
  alloc : BitVec 16 := 0
  switching : Bool := false
  next : Option (Option Nat) := none
  latches : SMap Latch := []
  nc : SMap NcLine := []
  tlb : List TlbEntry := []
  trackF : Nat := 0
  trackB : Nat := 0
  trackU : Nat := 0
  inflight : List InFlight := []
  arr : ArrayState := {}
  freq : Nat := 1600
  noticeF : Bool := false
  noticeB : Bool := false
  noticeU : Bool := false
  replyBz : NSet := []
  wbBz : NSet := []
  dmaBz : NSet := []
  imageBz : NSet := []
  rmtBz : Bool := false
  resetBusy : Bool := false
  ncOp : Option Bool := none
  runs : SMap (Nat × Nat) := []
  scalarBy : Option StreamId := none
  vectorBy : Option StreamId := none
  vectorLeft : Nat := 0
  deriving DecidableEq, Repr

/-! ### Device memory (chapter 7) -/

/-- A running Cruise pass (R191–R194). -/
structure Cruise where
  state : Nat := 0
  next : Nat := 0
  limit : Nat := 0
  fix : Bool := false
  badSel : Bool := false
  abort : Bool := false
  lines : Nat := 0
  corrected : Nat := 0
  uncorrectable : Nat := 0
  blazed : Nat := 0
  first : Option Nat := none
  last : Option Nat := none
  hist : SMap Nat := []
  added : Nat := 0
  sum : List Byte := []
  deriving DecidableEq, Repr

/-- An accumulate clear in progress: blocks and their number (R200). -/
structure AccClear where
  base : Nat
  count : Nat
  deriving DecidableEq, Repr

/-- A stack: STATE of Table 7.2, its link with the line and mark of the last good flit from it (R175), its Scarf entries
(Table 7.5, by index), its Cruise pass, and the state of
the journal copy it holds where it is a journal stack (JRN_A and JRN_B of Table 12.12). -/
structure Stack where
  state : Nat := 0
  flit : Option (List Byte × Bool) := none
  crcFails : Nat := 0
  retrainFails : Nat := 0
  oneShot : Bool := false
  hot : Bool := false
  temp : Nat := 0
  scarf : SMap Nat := []
  adding : Option Nat := none
  scarfResult : Nat := 0
  scarfIndex : Nat := 0
  cruise : Cruise := {}
  clear : Option AccClear := none
  jrn : Nat := 0
  deriving DecidableEq, Repr

/-- A line as a stack last delivered it to its reader. -/
structure LineReply where
  pa : Nat
  data : LineData
  bz : Bool
  deriving DecidableEq, Repr

/-- Device memory: bytes, Blaze marks by line, stored symbol errors by line, contributor counts by block and those stored
ones that are uncorrectable. `areas` has runs of lines (first line, lines, draw) that the device has written with contents
whose layout is not architected. -/
structure MemState where
  bytes : Memory := []
  areas : List (Nat × Nat × Nat) := []
  blz : NSet := []
  errs : SMap SymErrs := []
  counts : SMap Nat := []
  badCounts : NSet := []
  dram : SMap Stack := []
  reply : Option LineReply := none
  deriving DecidableEq, Repr

/-- An accumulate delivery (R196, R221): its tenancy, block, data and format, k, mark, shard and reduction
identifier; the number n of deliveries it stands for; the core it names as source, if it still does; its completion
counter; the router that holds it back (R246, R247, R249); its identity as a packet, the site whose router it left
last as a new packet, and the router that last forwarded it (R247). -/
structure AccDelivery where
  ten : Nat
  block : Nat
  data : VData
  bf16 : Bool
  k : Nat
  bz : Bool
  shard : Nat
  ctx : BitVec 32
  n : Nat
  src : At
  named : Bool
  va : Nat
  sig : Nat
  sigEn : Bool
  heldAt : Option Nat := none
  id : Nat := 0
  origin : Nat := 0
  passedAt : Option Nat := none
  deriving DecidableEq, Repr

/-- A completion or acknowledgement on its way back to a core (R199, R221, R249), from a router by its site number, or
from stack `i` as 640 + i, with the delivery's block. -/
structure DaccAck where
  src : At
  ten : Nat
  va : Nat
  n : Nat
  denied : Bool
  sender : Nat := 640
  block : Nat := 0
  deriving DecidableEq, Repr

/-- The accumulate engines' non-finite notices, by stack with the tenancy, and the completions that wait for them
(R348, R349). -/
structure AccNotices where
  out : SMap Nat := []
  held : List (Nat × AccDelivery) := []
  deriving DecidableEq, Repr

/-! ### Flume (chapter 8) -/

/-- A Flume request (Table 8.4). -/
structure FlumeReq where
  shard : Nat
  group : Nat
  rows : Nat
  rowBytes : Nat
  srcOff : Nat
  srcStride : Int
  dstAddr : Nat
  dstStride : Int
  capMode : Nat
  capStream : Nat
  capIndex : Nat
  waitObj : Nat
  waitEn : Bool
  sigObj : Nat
  sigPerCore : Bool
  sigEn : Bool
  waitValue : Word
  badField : Bool
  deriving DecidableEq, Repr

/-- A started request: the shard's base, extent and version as read at start, its destinations, the units still
to read, and the bytes and marks read so far with the order in which they were sent (R214, R216, R218, R239). -/
structure FlumeRun where
  id : Nat
  eng : Nat
  ten : Nat
  req : FlumeReq
  base : Nat
  version : BitVec 32
  cores : List Nat
  left : List Nat
  units : SMap (List Byte)
  marks : NSet
  doneCores : Nat
  order : SMap Nat := []
  deriving DecidableEq, Repr

/-- The rows of a started request on their way to one core: the units that its packets brought marked, the rows
that have been written, and whether its capture entry has been compared (R217, R236). -/
structure FlumeDelivery where
  run : Nat
  core : Nat
  rank : Nat
  bad : NSet := []
  got : NSet := []
  checked : Bool := false
  deriving DecidableEq, Repr

/-- A queue of an engine (R212, R219). -/
structure FlumeQueue where
  reqs : List FlumeReq := []
  waitSent : Bool := false
  waitMet : Bool := false
  faulted : Bool := false
  faultCode : Nat := 0
  faultCase : Nat := 0
  faultShard : Nat := 0
  deriving DecidableEq, Repr

/-- A capture into a sequence slot on its way to its stack (R332). -/
structure SlotRec where
  ten : Nat
  slot : Nat
  shard : BitVec 16
  version : BitVec 32
  core : Nat
  eng : Nat
  sig : Option Nat
  deriving DecidableEq, Repr

/-- The Flume engines: queues by engine × 4 + tenancy, started requests, deliveries and slot records; by engine, the
tenancy that was served last and the units that each has had in the round (R214, R333). -/
structure FlumeState where
  queues : SMap FlumeQueue := []
  runs : List FlumeRun := []
  deliveries : List FlumeDelivery := []
  slots : List SlotRec := []
  nextId : Nat := 0
  turns : SMap (Nat × List Nat) := []
  deriving DecidableEq, Repr

/-! ### Tally units (chapter 6) -/

/-- A row of a shard of a tenancy, as a Tally unit names it. -/
structure Mark where
  shard : Nat
  row : Nat
  group : Nat
  deriving DecidableEq, Repr

/-- A mark on its way to a Tally unit (R164), with its identity as a message. -/
structure MarkMsg where
  stack : Nat
  mark : Mark
  bz : Bool
  src : At
  id : Nat := 0
  deriving DecidableEq, Repr

/-- A row that a walk stands in, between two of its instructions; `again` where a mark for it came meanwhile (R166). -/
structure TallyWalk where
  stack : Nat
  mark : Mark
  again : Bool := false
  deriving DecidableEq, Repr

/-- The Tally units: marks and overflow flags by stack, marks in transit. -/
structure TallyState where
  marks : SMap (List Mark) := []
  ovf : NSet := []
  msgs : List MarkMsg := []
  walks : List TallyWalk := []
  deriving DecidableEq, Repr

/-! ### Sync objects (chapter 10) -/

/-- A sync object: TYPE, PARAM and word 0 of Table 10.3. -/
structure SyncObj where
  type : BitVec 2 := 0
  param : BitVec 32 := 0
  value : Word := 0
  deriving DecidableEq, Repr

/-- An agent that may wait at a bank (R262). -/
inductive Waiter where
  | stream (i : At)
  | dma (core : Nat)
  | flume (eng t : Nat)
  | coll (e t slot : Nat)
  deriving DecidableEq, Repr

/-- Who sent an operation to a bank: the waiter, a session, a peer whose frame came by a port, an engine's signal with
its kind and number as R261 reports them, or the signal of a Flume request, which its destination core sends (R217). -/
inductive SyncFrom where
  | waiter (w : Waiter)
  | session (s : Nat)
  | peer (dev seq port : Nat)
  | engine (kind : Nat) (id : Nat)
  | flume (eng core : Nat)
  deriving DecidableEq, Repr

/-- A registered waiter (R262). -/
structure SyncReg where
  waiter : Waiter
  ten : Nat
  obj : Nat
  op : Nat
  x : Word
  gen : BitVec 32
  deriving DecidableEq, Repr

/-- An operation on its way to its bank: the low opcode digit of Table 10.2, its object and operand, with the
generation of a `sy.arrw` that has arrived before; or a cancel of a wait on that object (R265). `id` is its identity as
a message; `ack` names the source whose non-finite notice is acknowledged once it is performed or refused (R348). -/
structure SyncOp where
  src : SyncFrom
  ten : Nat
  op : Nat
  obj : Nat
  x : Word
  gen : Option (BitVec 32) := none
  cancel : Bool := false
  bz : Bool := false
  id : Nat := 0
  ack : Option NfSource := none
  deriving DecidableEq, Repr

/-- What a bank answers: a wake, a grant or the value of a `sy.rd`; that a wait was cancelled, with the generation that a
`sy.arrw` recorded (R265); or that an operation of a stream was refused with a code (R261). -/
inductive WakeKind where
  | value
  | cancelled (gen : Option (BitVec 32))
  | refused (code : Nat)
  deriving DecidableEq, Repr

/-- An answer of a bank on its way to the waiter. Those of one operation to one mesh column, or to one ring stop, are one
message `id` with a row mask (R263). -/
structure SyncWakeMsg where
  waiter : Waiter
  ten : Nat
  obj : Nat
  value : Word
  bz : Bool := false
  id : Nat := 0
  kind : WakeKind := .value
  deriving DecidableEq, Repr

/-- The sync banks. -/
structure SyncState where
  objs : SMap SyncObj := []
  regs : List SyncReg := []
  ops : List SyncOp := []
  wakes : List SyncWakeMsg := []
  deriving DecidableEq, Repr

/-! ### Faults sent to hosts (R318) -/

/-- The content of a fault record (R231, R318, Table 12.7). -/
structure FaultRec where
  source : Nat
  code : Nat
  ten : Nat
  engine : Nat
  addr : Nat
  aux : Nat
  write : Bool
  level : Nat
  cause : Nat
  count : Nat := 0
  deriving DecidableEq, Repr

/-! ### Fuses (R2, R3, R113, R372) -/

/-- What fuses hold; sites are numbered 20x + y (R4, R25, R234). Key hashes stand by slot, and the slots whose revoke
bit is blown (Table 16.4). -/
structure Fuses where
  kt702 : Bool
  mappedOut : NSet
  bypass : SMap Nat
  stepping : Nat
  macBase : Nat
  serial : Nat
  vendorHash : SMap Nat
  vendorRev : NSet
  ownerHash : SMap Nat
  ownerRev : NSet
  svnMin : Nat
  uds : Nat
  deriving DecidableEq, Repr

/-! ### Mesh and ring (chapter 9) -/

/-- A Boom context: the delivery it stands for, and whether it may leave (R246, R248). -/
structure BoomCtx where
  d : AccDelivery
  eligible : Bool
  deriving DecidableEq, Repr

/-- What a packet carries: data of a channel, or a control message. -/
inductive Cargo where
  | data (p : Pkt)
  | control (m : Msg)
  deriving DecidableEq, Repr

/-- An output that a packet takes at a node: the destination sites that it reaches through it, and the flits that have
left. -/
structure Leg where
  out : OutPort
  dsts : List Nat
  sent : Nat := 0
  deriving DecidableEq, Repr

/-- A copy of a packet at an input port of a node: the destination sites that it is for, how many of its flits have come
there, and its outputs (R244). -/
structure Branch where
  id : Nat
  node : Nat
  port : Nat
  dsts : List Nat
  came : Nat
  legs : List Leg
  deriving DecidableEq, Repr

/-- A packet in the mesh or ring, by its age: channel (7 the control plane), flits, where it goes, the spur by which it
leaves the ring if that is set (R243), and the sites it has reached. -/
structure NetPacket where
  id : Nat
  cargo : Cargo
  ch : Nat
  flits : Nat
  exit : Option (List Nat × Nat)
  spur : Option Nat
  done : NSet := []
  deriving DecidableEq, Repr

/-- A fault record on its way to the host block as a notice of the control plane (Table 9.1, R318). -/
structure FaultMsg where
  record : FaultRec
  id : Nat
  deriving DecidableEq, Repr

/-- The routers: Boom contexts by site, ROUTER_STATUS counters by site, halted nodes (stops at 640 + n); the packets in
the mesh and the ring with their flits in the input buffers, and the guaranteed cycles that each output's frame has given
to each channel (R237, R238); the fault notices on their way. -/
structure NocState where
  ctxs : SMap (SMap BoomCtx) := []
  status : SMap Word := []
  halted : NSet := []
  packets : List NetPacket := []
  branches : List Branch := []
  frames : SMap (List Nat) := []
  faults : List FaultMsg := []
  nextId : Nat := 1
  deriving DecidableEq, Repr

/-! ### Fabric and collectives (chapter 11) -/

/-- An Ethernet port: 0–11 are F0–F11, 12 and 13 H0 and H1 (R274, R275, R284). -/
structure PortState where
  up : Bool := false
  rate400 : Bool := false
  preempt : Bool := false
  deriving DecidableEq, Repr

/-- A frame that waits for its acknowledgement; `srcs` names the streams whose `sy.rmt` it carries, `ten` the tenancy. -/
structure TxFrame where
  seq : Nat
  engine : Nat
  job : Nat
  ten : Option Nat
  recs : List FabRec
  srcs : List At := []
  deriving DecidableEq, Repr

/-- An express record that waits to leave, with the route it takes (2 where none was usable) and what its frame's header
needs (R282, R283). -/
structure ExpressRec where
  peer : Nat
  route : Nat
  engine : Nat
  job : Nat
  ten : Option Nat
  src : Option At
  record : FabRec
  deriving DecidableEq, Repr

/-- A path, by peer × 4 + route × 2 + class: the sender's and the receiver's side (R281). -/
structure FabPath where
  next : Nat := 0
  unacked : List TxFrame := []
  resends : Nat := 0
  expect : Nat := 0
  ackDue : Bool := false
  deriving DecidableEq, Repr

/-- A peer: the cause for which it is LOST (Table 11.12; 0: it is not), its failed routes, and the route that took
the last bulk frame (R282, R289). -/
structure FabPeer where
  lost : Nat := 0
  failed0 : Bool := false
  failed1 : Bool := false
  lastRoute : Nat := 1
  deriving DecidableEq, Repr

/-- A record of an accepted frame that is not yet performed, with the port by which it came. -/
structure RxRec where
  peer : Nat
  route : Nat
  bulk : Bool
  engine : Nat
  ten : Nat
  seq : Nat
  record : FabRec
  port : Nat
  deriving DecidableEq, Repr

/-- A collective descriptor (Table 11.9). -/
structure CollDesc where
  op : Nat
  fmt : Nat
  digest : Bool
  n : Nat
  rank : Nat
  root : Nat
  collId : Nat
  members : Nat
  src : Nat
  dst : Nat
  bytes : Nat
  waitObj : Nat
  waitEn : Bool
  sigObj : Nat
  sigEn : Bool
  waitValue : Word
  peerObj : Nat
  peerEn : Bool
  recvCount : Nat
  sched : Nat
  schedCount : Nat
  badField : Bool
  deriving DecidableEq, Repr

/-- What a running descriptor has to send: bytes or a block of SRC, read when sent; a block or bytes on their way
around the ring; or digests. -/
inductive CollUnit where
  | bytes (off len : Nat)
  | block (off : Nat)
  | pass (off k : Nat) (bz : Bool) (payload : List Byte)
  | digests (off first count : Nat)
  deriving DecidableEq, Repr

/-- Where a move of a schedule stands (R297): its REQUEST not sent, sent, granted with bytes sent, or acknowledged. -/
inductive MoveState where
  | idle
  | requested
  | sending (done : Nat)
  | acked
  deriving DecidableEq, Repr

/-- A schedule entry with its progress (Table 11.11). -/
structure SyMove where
  srcShard : Nat
  dstDev : Nat
  dstShard : Nat
  round : Nat
  srcOff : Nat
  dstOff : Nat
  bytes : Nat
  credits : Nat := 0
  state : MoveState := .idle
  deriving DecidableEq, Repr

/-- A started descriptor: its members, the physical pages of its ranges by virtual page, its credits, what it has to
send, and what has arrived. -/
structure CollRun where
  eng : Nat
  ten : Nat
  slot : Nat
  desc : CollDesc
  members : List Nat
  pages : SMap Nat
  credits : Nat := 0
  granted : Nat := 0
  outbox : List CollUnit := []
  arrived : SMap Nat := []
  arrivals : Nat := 0
  read : List Byte := []
  moves : List SyMove := []
  received : Nat := 0
  shards : NSet := []
  opened : Bool := false
  deriving DecidableEq, Repr

/-- The receiving context of a put (R292, R295). -/
structure PutCtx where
  eng : Nat
  ten : Nat
  peer : Nat
  collId : Nat
  va : Nat
  bytes : Nat
  digest : Bool
  obj : Nat
  objEn : Bool
  pages : SMap Nat
  granted : Nat := 0
  got : NSet := []
  deriving DecidableEq, Repr

/-- A REQUEST of a Sort-yard collective: waiting for its grant, or granted with the bytes still to come. -/
structure SyRecv where
  eng : Nat
  ten : Nat
  peer : Nat
  collId : Nat
  round : Nat
  shard : Nat
  bytes : Nat
  open_ : Bool := false
  left : Nat := 0
  granted : Nat := 0
  deriving DecidableEq, Repr

/-- A grant that came before its descriptor started, or an ABORT that did (R292, R300). -/
structure KeptGrant where
  eng : Nat
  ten : Nat
  peer : Nat
  record : FabRec
  deriving DecidableEq, Repr

/-- A queue of a collective engine, by engine × 4 + tenancy (R290, R300). -/
structure CollQueue where
  cons : Nat := 0
  waitSent : Bool := false
  waitMet : Bool := false
  waitObj : Nat := 0
  faulted : Bool := false
  atStart : Bool := false
  faultCode : Nat := 0
  faultSlot : Nat := 0
  faultPeer : Nat := 0
  deriving DecidableEq, Repr

/-- The fabric: ports, paths, peers and records received; the collective engines with their notices, by engine with the
tenancy; refusals that go back to peers, and those that have gone with a frame, as device, number of the refused frame and
code, and the streams whose `sy.rmt` a peer may have refused, as 12 × core + 4 × stream + tenancy (R268); the risks that
heartbeats brought, with their age in periods; express records that wait to leave, in the order of R283; the turns of the
engines' rotations (R333); the frames that have left, oldest first, by port; the lines (2^33 × engine + line) whose next
move between an engine and a stack comes blazed (R236); ABORTs kept for descriptors that stand in their queues (R300); and
express records that the window of a port denied (R338). -/
structure FabState where
  ports : SMap PortState := []
  paths : SMap FabPath := []
  peers : SMap FabPeer := []
  rx : List RxRec := []
  queues : SMap CollQueue := []
  runs : List CollRun := []
  puts : List PutCtx := []
  recvs : List SyRecv := []
  grants : List KeptGrant := []
  notices : SMap Nat := []
  refusals : List (Nat × Nat × Nat) := []
  refused : List (Nat × Nat × Nat) := []
  remote : NSet := []
  risks : List (Nat × Nat) := []
  express : List ExpressRec := []
  turns : SMap (Nat × List Nat) := []
  tx : List (Nat × List Byte) := []
  bad : NSet := []
  aborts : List KeptGrant := []
  shut : List ExpressRec := []
  deriving DecidableEq, Repr

/-! ### Hosts (chapter 12) -/

/-- Where a session's last valid datagram on a port came from (R303). -/
structure HostAddr where
  mac : Nat
  ip : Nat
  v4 : Bool
  udp : Nat
  deriving DecidableEq, Repr

/-- How a frame leaves a host port: the port, the source MAC address, the 802.1Q tag where it carries one, and the source
IP address (R302, Table 12.12). -/
structure HostVia where
  port : Nat
  mac : Nat
  tag : Option Nat
  ip : Nat
  deriving DecidableEq, Repr

/-- What leaves a host port: a PLT datagram from a UDP port with its checksum; an answer to an ARP request or a neighbour
solicitation, for the asker's addresses; or one of the two unasked, as the beacon (R302, R303, R375). -/
inductive HostTx where
  | plt (via : HostVia) (udp sum : Nat) (dst : HostAddr) (bytes : List Byte)
  | arpReply (via : HostVia) (mac ip : Nat)
  | neighbourAdvert (via : HostVia) (mac ip : Nat)
  | gratuitousArp (via : HostVia)
  | unsolicitedAdvert (via : HostVia)
  deriving DecidableEq, Repr

/-- States of a result handle (R316). -/
inductive HandleState where
  | empty | pending | ready | released
  deriving DecidableEq, Repr

/-- A result handle (R316): the command that made it READY, or for which it is PENDING. -/
structure Handle where
  state : HandleState := .empty
  gen : BitVec 32 := 0
  data : List Byte := []
  seq : Nat := 0
  deriving DecidableEq, Repr

/-- An event of a session: its number, its 32-byte record, the command whose journal record its acknowledgement
frees, and whether it has left since its last loss was found (R315, R320). -/
structure HostEvent where
  num : Nat
  record : List Byte
  cmd : Option Nat
  sent : Bool := false
  deriving DecidableEq, Repr

/-- A session (R306, R307): STATE of Table 12.12, its last datagram's port, its addresses by port, its next command
and event numbers, its unacknowledged events, the resends without progress, whether events go through the other
port, the commands that completed with another STATUS than OK, and the ring count at which a lease that it holds lapses
since it became LOST (R319). -/
structure Session where
  state : Nat := 0
  ten : Nat := 0
  manager : Bool := false
  token : Nat := 0
  port : Nat := 0
  addrs : SMap HostAddr := []
  next : Nat := 1
  nextEvent : Nat := 1
  events : List HostEvent := []
  resends : Nat := 0
  other : Bool := false
  failed : NSet := []
  handles : SMap Handle := []
  lostEnd : Nat := 0
  deriving DecidableEq, Repr

/-- Where an accepted command stands (R311): it waits, is at dispatch, has started, has a result, or is complete with
its completion not yet acknowledged. -/
inductive CmdPhase where
  | waiting | atDispatch | started | done | completed
  deriving DecidableEq, Repr

/-- A journal record: an accepted command with its inline data, its result, the streams that a RUN named or the core that
a CORE_RESET resets, whether the access that a configuration command makes came blazed, the 256-byte units of memory of
which a memory command's data came blazed (R236), the identity of a configuration command's message or answer on its way
(0 where none is), whether its session held the port semaphore when it was dispatched (R319), and whether the record is
valid in copy A and in copy B of the journal (R320). -/
structure HostCmd where
  session : Nat
  seq : Nat
  bytes : List Byte
  data : List Byte
  phase : CmdPhase := .waiting
  old : Bool := false
  status : Nat := 0
  code : Nat := 0
  detail : Nat := 0
  out : List Byte := []
  out2 : List Byte := []
  run : List At := []
  bz : Bool := false
  bad : NSet := []
  msg : Nat := 0
  held : Bool := false
  inA : Bool := true
  inB : Bool := true
  deriving DecidableEq, Repr

/-- The host transport: sessions, the journal, EPOCH, ACCEPTING, the dispatch hold, the command at dispatch, the lease
with its holder and its ends on the ring counter (the second since the holder's session became LOST), the fault
sessions by tenancy, fault records dropped and not yet
reported, and what has left. -/
structure HostState where
  sessions : SMap Session := []
  cmds : List HostCmd := []
  epoch : Nat := 0
  accepting : Bool := false
  hold : Bool := false
  dispatching : Option (Nat × Nat) := none
  lease : Option Nat := none
  leaseEnd : Nat := 0
  lostEnd : Option Nat := none
  bind : SMap Nat := []
  drops : SMap Nat := []
  tx : List HostTx := []
  deriving DecidableEq, Repr

/-! ### Boot and security (chapter 16) -/

/-- An image in the retained store: the blocks with their signatures, and the sections by type in the order of the
manifests (R368, R369). -/
structure Image where
  vendor : List Byte
  vendorSig : List Byte
  owner : List Byte
  ownerSig : List Byte
  sections : List (Nat × List Byte)
  deriving DecidableEq, Repr

/-- BOOT and SEC (Table 16.10) with the reset that a write of RESET_CTRL has asked for (1 warm, 2 cold), the retained
store, and the flash, whose bytes stand complemented: an unlisted byte
reads 0xFF. -/
structure BootState where
  step : Nat := 0
  result : Nat := 0
  slotB : Bool := false
  fallback : Bool := false
  warm : Bool := false
  reason : Nat := 0
  seq : Nat := 0
  octal : Bool := false
  clockMhz : Nat := 0
  selftest : NSet := []
  coreReset : Option Nat := none
  wantReset : Nat := 0
  retained : Option Image := none
  flash : Memory := []
  svn : Nat := 0
  vkey : Nat := 0
  okey : Nat := 255
  fuseOps : Nat := 0
  attests : Nat := 0
  idPk : Nat := 0
  measV : Nat := 0
  measO : Nat := 0
  deriving DecidableEq, Repr

/-! ### Power, telemetry and pins (chapters 17, 19) -/

/-- The power manager, its telemetry and the I3C target, with its address lands as sampled (R414), the provisional ID that
it has shown (R398) and the data byte of the in-band interrupt that it has sent. Clock reductions for power stand by
tenancy; `wanted` is the setpoint that the regulator has not yet acknowledged, `raises` the clocks by core that a change
asked it for, and `gaveUp` the clock targets for which it acknowledged none in time (R418). -/
structure PowerState where
  sampled : Bool := false
  sites : SMap Nat := []
  stops : SMap Nat := []
  supplyMin : Nat := 0
  power8 : Nat := 0
  setpoint : Nat := 800
  wanted : Option Nat := none
  raises : SMap Nat := []
  cut : SMap Nat := []
  thermCut : Nat := 0
  cooling : Bool := false
  powerGate : Bool := false
  thermalGate : Bool := false
  excess : Nat := 0
  recovering : Bool := false
  envelope : Bool := false
  gaveUp : Option (List Nat) := none
  cap : Nat := 1100
  emergency : Bool := false
  i3cIndex : Byte := 0
  i3cLatch : SMap Nat := []
  i3cOut : List Byte := []
  i3cAddr : Option (BitVec 7) := none
  i3cLands : BitVec 2 := 0
  i3cPid : Option (BitVec 48) := none
  i3cIbi : Option Byte := none
  deriving DecidableEq, Repr

/-- Pins: COLD_RST_N held low, READY_N driven low, THERMTRIP_N driven low, XSPI_RESET_N low (Table 19.3). -/
structure Pins where
  coldLow : Bool := true
  ready : Bool := false
  thermtrip : Bool := false
  xspiReset : Bool := true
  deriving DecidableEq, Repr

/-! ### The device -/

/-- The state of the device; `parked` is the transport as the journal in the stacks holds it while a warm reset has
ended in RECOVERY (R377). -/
structure State where
  pending : List Instr
  regs : SMap Word
  locked : Bool
  cores : SMap CoreState
  images : SMap CoreImage
  mem : MemState
  accMsgs : List AccDelivery
  accAcks : List DaccAck
  accNotices : AccNotices
  flume : FlumeState
  tally : TallyState
  sync : SyncState
  faultQ : SMap (List FaultRec)
  tenReset : NSet
  tenWait : NSet
  switchPhase : NSet
  fuses : Fuses
  noc : NocState
  fab : FabState
  host : HostState
  boot : BootState
  power : PowerState
  pins : Pins
  parked : Option HostState
  free : Nat
  deriving DecidableEq, Repr

/-- The device right after a cold reset, before its boot (R19, R374): every register at its Reset column, no
stream started, nothing stored, the fuses of log entry 5. -/
def State.reset : State where
  pending := []
  regs := []
  locked := false
  cores := []
  images := []
  mem := {}
  accMsgs := []
  accAcks := []
  accNotices := {}
  flume := {}
  tally := {}
  sync := {}
  faultQ := []
  tenReset := []
  tenWait := []
  switchPhase := []
  fuses := { kt702 := false, mappedOut := [], bypass := [], stepping := 0, macBase := 0, serial := 0,
             vendorHash := [], vendorRev := [], ownerHash := [], ownerRev := [], svnMin := 0, uds := 0 }
  noc := {}
  fab := {}
  host := {}
  boot := {}
  power := {}
  pins := {}
  parked := none
  free := 0

end Sys2Proof.Machine
end

