-- ==== Sys2Proof/Machine/Regs.lean ====
section
/-! DEFINITION. The configuration map (Tables 18.1 and 18.5): where registers stand, their reset values and the
types of their fields, and the reads and writes of the registers that hold what is written to them. -/

namespace Sys2Proof.Machine

/-- The outcome of a command. -/
abbrev Out := Host.Outcome State Fault Refusal

/-! ### Offsets from 0xF0_0000_0000 (Table 18.1) -/

def bootBase : Nat := 0x0100_0000
def hostBase : Nat := 0x0200_0000
def fabBase : Nat := 0x0300_0000
def memBase (i : Nat) : Nat := 0x0400_0000 + 0x10_0000 * i
def syncBase : Nat := 0x0500_0000
def lookBase : Nat := 0x0600_0000
def pwrBase : Nat := 0x0700_0000
def nocBase : Nat := 0x0800_0000
def coreBase (c : Nat) : Nat := 0x1000_0000 + 0x1_0000 * c

/-- The event inputs' reset INC (Table 14.4). -/
def lookInc : Nat → Nat
  | 0 => 1
  | 1 => 2048
  | 2 => 4096
  | 3 => 16
  | 4 => 64
  | 5 => 4
  | 6 => 256
  | 7 => 8192
  | 8 => 4096
  | _ => 0

/-- Reset values that are not zero, by block and offset (the Reset columns). -/
def regReset (off : Nat) : Nat :=
  let lo := off % 0x100_0000
  match off / 0x100_0000 with
  | 0 =>
    if lo = 0x600 then 0x1400
    else if 0x620 ≤ lo ∧ lo < 0x640 then 0x10101000
    else 0
  | 2 =>
    if lo = 0x10 then 0xB83C
    else if lo = 0x18 then 0x3F20
    else if lo = 0x28 then 0x3E8
    else if lo = 0x38 then 0x31428
    else if lo = 0x100 ∨ lo = 0x108 then 5
    else 0
  | 3 =>
    if lo = 0x8 then 0x5E88B5
    else if lo = 0x18 then 0x714040A64
    else if 0x100 ≤ lo ∧ lo < 0x160 then 0x18
    else 0
  | 4 =>
    let r := lo % 0x10_0000
    if r = 0x10 then 0x1C
    else if r = 0x210 then 0x410
    else 0
  | 6 =>
    if lo = 0 then 0x10000
    else if lo = 0x8 then 0x20004000
    else if lo = 0x10 then 0x464
    else if lo = 0x18 then 0x0040_0200_1E04_000A
    else if 0x100 ≤ lo ∧ lo < 0x148 then lookInc ((lo - 0x100) / 8)
    else if 0x200 ≤ lo ∧ lo < 0x220 then 0xFFF
    else if 0x240 ≤ lo ∧ lo < 0x260 then 0x2005_4080_0000
    else 0
  | 7 =>
    if lo = 0 then 0x190640
    else if lo = 8 then 1100
    else 0
  | 8 => if lo = 0x10 then 0x420 else 0
  | _ =>
    if 0x1000_0000 ≤ off ∧ off < 0x1280_0000 then
      let r := off % 0x1_0000
      if r = 0x600 then 0x18104040064c0
      else if r = 0xE00 ∨ r = 0xE10 ∨ r = 0xE20 ∨ r = 0xE30 then 0x700
      else 0
    else 0

/-- The bits of a register by the type of their field (Table 0.4); the other bits are reserved. -/
structure RegMask where
  rw : Nat := 0
  w1c : Nat := 0
  rws : Nat := 0
  rwl : Nat := 0
  ro : Nat := 0
  wo : Nat := 0
  deriving DecidableEq, Repr

/-- Bits that hold what software writes or clears. -/
def RegMask.held (m : RegMask) : Nat := m.rw ||| m.w1c ||| m.rws ||| m.rwl

/-- Bits of some field. -/
def RegMask.fields (m : RegMask) : Nat := m.held ||| m.ro ||| m.wo

/-- Bits `hi` to `lo`. -/
def fieldMask (hi lo : Nat) : Nat := (2 ^ (hi + 1 - lo) - 1) * 2 ^ lo

/-- Every bit. -/
def allBits : Nat := fieldMask 63 0

/-- Windows of a target (Table 13.5). -/
def windowsOf (x : Nat) : Nat :=
  if x < 8 then 32 else if x < 40 then 16 else if x < 60 then 8 else if x < 72 then 16 else 64

/-- The field types of GLOBAL (Tables 5.11, 6.3, 6.4, 8.12, 13.6, 13.8, 18.2). -/
def maskGlobal (lo : Nat) : RegMask :=
  if lo = 0 then { ro := fieldMask 31 0 }
  else if lo = 8 then { ro := fieldMask 27 0 }
  else if lo = 0x10 then { ro := allBits }
  else if 0x400 ≤ lo ∧ lo < 0x420 then { rw := 1, w1c := 2, ro := fieldMask 47 16, wo := fieldMask 48 48 }
  else if lo = 0x480 then { rw := fieldMask 38 19 }
  else if 0x488 ≤ lo ∧ lo < 0x4A8 then { rw := fieldMask 11 0 + fieldMask 28 16 }
  else if lo = 0x4C0 then { rw := fieldMask 38 21 }
  else if lo = 0x4C8 then { rw := fieldMask 38 19 }
  else if 0x500 ≤ lo ∧ lo < 0x520 then { rw := 1 + fieldMask 38 12 }
  else if lo = 0x600 then { rws := fieldMask 1 0 + fieldMask 15 8, rw := fieldMask 63 32, ro := fieldMask 17 16 }
  else if 0x620 ≤ lo ∧ lo < 0x640 then { rws := 1 + fieldMask 31 8, wo := 2, ro := 4 }
  else if 0x640 ≤ lo ∧ lo < 0x660 then { rws := fieldMask 15 0 }
  else if lo = 0x660 then { rws := fieldMask 38 20 }
  else if 0x668 ≤ lo ∧ lo < 0x688 then { rws := fieldMask 16 0, rw := fieldMask 47 32 }
  else if lo = 0x688 then { ro := fieldMask 55 0 }
  else if lo = 0x690 then { rw := fieldMask 31 0 }
  else if lo = 0x700 then { ro := allBits }
  else if 0x1_0000 ≤ lo ∧ lo < 0x1_0000 + 0x400 * 73 then
    if windowsOf ((lo - 0x1_0000) / 0x400) ≤ lo % 0x400 / 16 then {}
    else if lo % 16 = 0 then { rws := fieldMask 57 0 + fieldMask 63 63 }
    else { rws := fieldMask 39 0 }
  else {}

/-- The field types of BOOT and SEC (Table 16.10). -/
def maskBoot (lo : Nat) : RegMask :=
  if lo = 0 then { ro := fieldMask 9 0 + fieldMask 23 16 }
  else if lo = 8 then { ro := allBits }
  else if lo = 0x10 then { wo := 3 }
  else if lo = 0x18 then { rw := fieldMask 9 0, ro := fieldMask 62 62, wo := fieldMask 63 63 }
  else if lo = 0x20 then { ro := fieldMask 1 0 + fieldMask 15 8 }
  else if 0x40 ≤ lo ∧ lo < 0x90 then { ro := allBits }
  else if lo = 0x1000 then { ro := fieldMask 11 0 + fieldMask 22 16 + fieldMask 30 24 + fieldMask 63 32 }
  else if lo = 0x1008 then { ro := allBits }
  else if lo = 0x1010 then { rw := fieldMask 2 0 }
  else if 0x1020 ≤ lo ∧ lo < 0x10A0 then { ro := allBits }
  else {}

/-- The field types of HOST (Table 12.12). -/
def maskHost (lo : Nat) : RegMask :=
  if lo = 0 then { ro := fieldMask 5 0 }
  else if lo = 8 then { ro := fieldMask 31 0 }
  else if lo = 0x10 then { rws := fieldMask 31 0 }
  else if lo = 0x18 then { rwl := fieldMask 5 0 + fieldMask 13 8 }
  else if lo = 0x20 then { rw := fieldMask 51 18, ro := fieldMask 17 0 }
  else if lo = 0x28 then { rws := fieldMask 15 0 }
  else if lo = 0x30 then { rw := fieldMask 47 32, ro := fieldMask 6 0 + fieldMask 31 16 }
  else if lo = 0x38 then { rws := fieldMask 19 0 }
  else if lo = 0x40 then { rws := fieldMask 38 12 }
  else if lo = 0x48 then { wo := 1 }
  else if lo = 0x100 ∨ lo = 0x108 then { rws := fieldMask 2 0 }
  else if lo = 0x110 ∨ lo = 0x118 then { rw := fieldMask 11 4 + fieldMask 63 16, ro := fieldMask 1 0 }
  else if lo = 0x120 ∨ lo = 0x128 then { ro := allBits }
  else if lo = 0x200 ∨ lo = 0x208 ∨ lo = 0x220 ∨ lo = 0x228 then { rws := allBits }
  else if lo = 0x210 ∨ lo = 0x230 then { rws := fieldMask 33 0 }
  else if 0x1000 ≤ lo ∧ lo < 0x1200 then { ro := fieldMask 6 0 + fieldMask 63 16 }
  else if 0x1200 ≤ lo ∧ lo < 0x1408 then { rw := allBits }
  else if 0x1408 ≤ lo ∧ lo < 0x1428 then { rw := fieldMask 31 16, ro := fieldMask 10 0 + fieldMask 38 32 }
  else {}

/-- The field types of a collective engine's registers (Table 11.13), by offset in the engine. -/
def maskEngine (r : Nat) : RegMask :=
  if r < 0x20 then { rw := fieldMask 39 13 }
  else if r < 0x40 then { rw := fieldMask 5 0 }
  else if r < 0x60 then { ro := fieldMask 11 0 + fieldMask 23 16 + fieldMask 29 24 + fieldMask 44 32 }
  else if r < 0x80 then { wo := 3 }
  else {}

/-- The field types of FAB (Tables 11.12 and 11.13). -/
def maskFab (lo : Nat) : RegMask :=
  if lo = 0x0 then { rws := fieldMask 12 0 + fieldMask 16 16 }
  else if lo = 0x8 then { rws := fieldMask 22 0 }
  else if lo = 0x10 then { rw := fieldMask 38 18 }
  else if lo = 0x18 then { rws := fieldMask 35 0 }
  else if 0x20 ≤ lo ∧ lo < 0x40 then { rw := fieldMask 16 0 }
  else if lo = 0x40 then { rw := fieldMask 31 16, ro := fieldMask 14 0 }
  else if lo = 0x48 then { rw := allBits }
  else if lo = 0x50 then { rw := fieldMask 12 0, wo := fieldMask 63 63 }
  else if lo = 0x58 then { ro := fieldMask 47 0 }
  else if 0x100 ≤ lo ∧ lo < 0x160 then { rws := fieldMask 4 0 }
  else if 0x180 ≤ lo ∧ lo < 0x1E0 then { rw := fieldMask 11 4 + fieldMask 63 16, ro := fieldMask 2 0 }
  else if 0x200 ≤ lo ∧ lo < 0x260 then { ro := allBits }
  else if 0x1000 ≤ lo ∧ lo < 0x1400 then maskEngine (lo % 0x100)
  else {}

/-- The field types of a Flume engine's registers (Table 8.6), by offset in the engine. -/
def maskFlume (r : Nat) : RegMask :=
  if r < 0x20 then { ro := fieldMask 8 0 + fieldMask 23 16 + fieldMask 26 24 + fieldMask 47 32 }
  else if r < 0x40 then { wo := 3 }
  else if r = 0x40 then { rw := fieldMask 28 16 + fieldMask 63 32, ro := fieldMask 12 0 }
  else {}

/-- The field types of MEM (Tables 7.2 to 7.12, 6.9, 6.10, 8.6). -/
def maskMem (r : Nat) : RegMask :=
  if r = 0 then { ro := fieldMask 11 0 }
  else if r = 8 then { wo := 1 }
  else if r = 0x10 then { rw := fieldMask 4 0 }
  else if r = 0x18 then { rw := allBits }
  else if r = 0x20 then { ro := fieldMask 42 0 }
  else if r = 0x28 then { ro := fieldMask 38 0 }
  else if r = 0x30 then { rw := fieldMask 55 0 }
  else if r = 0x38 then { ro := allBits }
  else if 0x100 ≤ r ∧ r < 0x180 then { ro := fieldMask 36 0 }
  else if r = 0x180 then { rw := fieldMask 33 1, ro := 1 + fieldMask 36 34, wo := fieldMask 63 63 }
  else if r = 0x188 then { rw := fieldMask 31 16, ro := fieldMask 2 0 + fieldMask 12 4 }
  else if r = 0x200 ∨ r = 0x208 then { rw := fieldMask 38 6 }
  else if r = 0x210 then { rw := fieldMask 11 2, wo := 3 }
  else if r = 0x218 then { rw := fieldMask 38 6 + 1 }
  else if r = 0x220 then { ro := fieldMask 1 0 + fieldMask 63 32 }
  else if 0x240 ≤ r ∧ r < 0x280 then { ro := allBits }
  else if 0x300 ≤ r ∧ r < 0x340 then { rws := fieldMask 29 0 }
  else if r = 0x340 then { rw := allBits }
  else if r = 0x348 then { rw := fieldMask 59 8, ro := fieldMask 62 62, wo := fieldMask 63 63 }
  else if r = 0x358 then { rw := fieldMask 35 8 }
  else if r = 0x360 then { ro := fieldMask 16 0 }
  else if 0x400 ≤ r ∧ r < 0x600 then maskFlume (r % 0x100)
  else if r = 0x8000 then { rw := fieldMask 63 32, ro := fieldMask 17 0 }
  else if 0x8100 ≤ r ∧ r < 0x8300 then { ro := allBits }
  else {}

/-- The field types of SYNC (Tables 10.3 to 10.5). -/
def maskSync (lo : Nat) : RegMask :=
  if lo < 0x80 then { rws := fieldMask 24 0 }
  else if 0x100 ≤ lo ∧ lo < 0x200 then { rw := fieldMask 63 16, ro := fieldMask 12 0 }
  else if 0x40_0000 ≤ lo ∧ lo < 0x80_0000 then
    if lo % 16 = 0 then { rw := allBits }
    else { rw := fieldMask 1 0 + fieldMask 47 16, ro := fieldMask 63 48 }
  else {}

/-- The field types of LOOK (Table 14.9). -/
def maskLook (lo : Nat) : RegMask :=
  if lo = 0 then { rw := fieldMask 63 32, ro := fieldMask 17 0 }
  else if lo = 0x8 then { rws := fieldMask 31 0 }
  else if lo = 0x10 then { rws := fieldMask 11 0 }
  else if lo = 0x18 then { rws := fieldMask 31 0 + fieldMask 55 32 }
  else if lo = 0x20 then { ro := fieldMask 50 0 }
  else if 0x100 ≤ lo ∧ lo < 0x148 then { rws := fieldMask 15 0, rw := fieldMask 63 32, ro := fieldMask 31 16 }
  else if 0x200 ≤ lo ∧ lo < 0x220 then { rws := fieldMask 12 0 + fieldMask 49 32 }
  else if 0x220 ≤ lo ∧ lo < 0x240 then { rws := fieldMask 18 0 + fieldMask 50 32 }
  else if 0x240 ≤ lo ∧ lo < 0x260 then { rws := fieldMask 35 0 + fieldMask 48 40, wo := fieldMask 49 49 }
  else if 0x260 ≤ lo ∧ lo < 0x280 then { wo := fieldMask 31 0 }
  else if 0x280 ≤ lo ∧ lo < 0x2A0 then { ro := allBits }
  else if 0x2A0 ≤ lo ∧ lo < 0x2C0 then { rw := allBits }
  else if 0x2C0 ≤ lo ∧ lo < 0x2E0 then { rw := fieldMask 47 0 }
  else {}

/-- The field types of PWR (Tables 17.8, 18.4). -/
def maskPwr (lo : Nat) : RegMask :=
  if lo = 0 then { rws := fieldMask 21 0 }
  else if lo = 8 then { rws := fieldMask 10 0 }
  else if lo = 0x10 then { rw := fieldMask 47 16, ro := fieldMask 3 0 }
  else if lo = 0x800 then { ro := fieldMask 18 0 }
  else if lo = 0x808 then { rw := fieldMask 10 0 }
  else if lo = 0x810 then { ro := fieldMask 8 0 }
  else if lo = 0x818 then { ro := fieldMask 27 0 }
  else if lo = 0x820 then { ro := fieldMask 13 0 + fieldMask 26 16 }
  else if lo = 0x828 then { rws := allBits }
  else {}

/-- The field types of NOC (Tables 9.9, 17.7). -/
def maskNoc (lo : Nat) : RegMask :=
  if lo = 0 then { rwl := 1 }
  else if lo = 8 then { ro := fieldMask 12 0 }
  else if lo = 0x10 then { rw := fieldMask 10 0 }
  else if lo = 0x18 then { rw := allBits }
  else if lo = 0x20 then { rw := fieldMask 10 0 + fieldMask 25 16 }
  else if lo = 0x28 then { ro := fieldMask 2 0 }
  else if lo = 0x30 then { rw := fieldMask 9 0 }
  else if lo = 0x38 then { rw := fieldMask 13 7 + fieldMask 63 16, ro := fieldMask 6 0 }
  else if 0x100 ≤ lo ∧ lo < 0x150 then { ro := allBits }
  else if lo = 0x200 then { rw := fieldMask 15 0 }
  else if lo = 0x208 ∨ lo = 0x210 then { rw := fieldMask 47 0 }
  else {}

/-- The field types of a sequencer's registers (Tables 3.2, 3.3; R68), by offset in the sequencer. -/
def maskSeq (r : Nat) : RegMask :=
  if r = 0 then { rw := 2, wo := 13 }
  else if r = 8 then { ro := fieldMask 2 0 + fieldMask 24 8 }
  else if r = 0x10 then { rw := fieldMask 20 3 }
  else if r = 0x18 then { ro := fieldMask 47 0 }
  else {}

/-- The field types of CORE (Tables of chapters 2 to 6, 8, 13, 14, 17 and 18). -/
def maskCore (r : Nat) : RegMask :=
  if r = 0 then { ro := fieldMask 9 0 }
  else if r = 0x10 then
    { ro := fieldMask 5 0 + fieldMask 13 8 + fieldMask 22 16 + fieldMask 31 24 + fieldMask 40 32 }
  else if r = 0x18 then { ro := fieldMask 2 0 }
  else if 0x100 ≤ r ∧ r < 0x1C0 then maskSeq (r % 0x40)
  else if r = 0x200 then { ro := fieldMask 27 0 + fieldMask 54 32 }
  else if 0x300 ≤ r ∧ r < 0x380 then { ro := fieldMask 22 0 }
  else if r = 0x400 then { ro := 4, wo := 3 }
  else if r = 0x408 then { rw := fieldMask 47 0, wo := fieldMask 63 63 }
  else if r = 0x410 then { rw := fieldMask 24 16, ro := fieldMask 8 0 }
  else if r = 0x500 ∨ r = 0x508 ∨ r = 0x510 then { rw := fieldMask 4 0 }
  else if r = 0x600 then { rw := fieldMask 23 0, rwl := fieldMask 48 24 }
  else if r = 0x608 then { ro := fieldMask 10 0 }
  else if r = 0x700 then { rw := fieldMask 31 0 }
  else if r = 0x708 then { rw := fieldMask 9 0 }
  else if r = 0x710 then { rw := fieldMask 31 16, ro := fieldMask 6 0 + fieldMask 63 32 }
  else if r = 0x720 then { rw := fieldMask 15 0, ro := fieldMask 39 16 }
  else if r = 0x728 then { rw := fieldMask 7 0, wo := fieldMask 8 8 }
  else if r = 0x730 then { ro := fieldMask 49 0 }
  else if r = 0x800 then { rw := allBits }
  else if r = 0x900 then { ro := fieldMask 5 0 + fieldMask 32 8 }
  else if r = 0x908 then { wo := 3 }
  else if r = 0x910 then { ro := fieldMask 47 0 }
  else if r = 0xA00 then { rws := 0x7777, ro := fieldMask 19 16 }
  else if 0xB00 ≤ r ∧ r < 0xB30 then { rw := allBits }
  else if 0xC00 ≤ r ∧ r < 0xD80 then { rw := fieldMask 47 0 }
  else if 0xE00 ≤ r ∧ r < 0xE40 then
    if r % 16 = 0 then { rw := fieldMask 11 0 } else { rw := fieldMask 47 0 }
  else if r = 0xF00 then { ro := allBits }
  else if r = 0xF08 then { rw := fieldMask 47 16, ro := fieldMask 10 0 }
  else {}

/-- The field types of a register of configuration space. -/
def regMask (off : Nat) : RegMask :=
  let lo := off % 0x100_0000
  match off / 0x100_0000 with
  | 0 => maskGlobal lo
  | 1 => maskBoot lo
  | 2 => maskHost lo
  | 3 => maskFab lo
  | 4 => maskMem (lo % 0x10_0000)
  | 5 => maskSync lo
  | 6 => maskLook lo
  | 7 => maskPwr lo
  | 8 => maskNoc lo
  | _ => if 0x1000_0000 ≤ off ∧ off < 0x1280_0000 then maskCore (off % 0x1_0000) else {}

/-! ### Access to plain registers -/

/-- The value of a plain register. -/
def State.reg (s : State) (off : Nat) : Nat :=
  match SMap.get? s.regs off with
  | some w => w.toNat
  | none => regReset off

/-- A plain register set. -/
def State.setReg (s : State) (off v : Nat) : State :=
  { s with regs := SMap.put s.regs off (BitVec.ofNat 64 v) }

/-- A field of a plain register. -/
def State.field (s : State) (off hi lo : Nat) : Nat := bits hi lo (s.reg off)

/-- A field of a plain register set. -/
def State.setField (s : State) (off hi lo v : Nat) : State := s.setReg off (setBits hi lo (s.reg off) v)

/-- A counter field moved up by `n`, saturating (R392). -/
def State.count (s : State) (off hi lo n : Nat) : State :=
  s.setField off hi lo (min (s.field off hi lo + n) (2 ^ (hi + 1 - lo) - 1))

/-- A software write to a plain register by the types of its fields (Table 0.4, R19). -/
def State.writeReg (s : State) (off v : Nat) : State :=
  let m := regMask off
  let w := m.rw ||| m.rws ||| (if s.locked then 0 else m.rwl)
  if w ||| m.w1c = 0 then s
  else
    let old := s.reg off
    let kept := (old &&& (allBits - w)) ||| (v &&& w)
    s.setReg off (kept &&& (allBits - (v &&& m.w1c)))

end Sys2Proof.Machine
end

