-- ==== Sys2Proof/Machine/Ops.lean ====
section
/-! DEFINITION. The named operations that the meanings share: a core's parts, its counters and faults, fault
records, the access tables, the lines of device memory and the core store. -/

namespace Sys2Proof.Machine

/-! ### Sites, cores and streams -/

/-- Is the site not mapped out (R25)? -/
def State.siteOn (s : State) (n : Nat) : Bool := decide (n < 640) && !NSet.has s.fuses.mappedOut n

/-- The sites that hold cores, in the order of their logical numbers (R4, R25). -/
def State.sites (s : State) : List Nat := (List.range 640).filter s.siteOn

/-- The number of enabled cores (R2): the sites that are not mapped out. -/
def State.coreCount (s : State) : Nat := 640 - s.fuses.mappedOut.length

/-- The site of a logical core. -/
def State.siteOf (s : State) (c : Nat) : Nat := s.sites.getD c 640

/-- The home stack of a site 20x + y (R27). -/
def homeOfSite (n : Nat) : Nat := (n / 20) / 8 + (if n % 20 < 10 then 0 else 4)

/-- The home stack of a core (R27). -/
def State.homeStack (s : State) (c : Nat) : Nat := homeOfSite (s.siteOf c)

/-- A core. -/
def State.core (s : State) (c : Nat) : CoreState := SMap.get {} s.cores c

/-- A core replaced. -/
def State.setCore (s : State) (c : Nat) (k : CoreState) : State := { s with cores := SMap.put s.cores c k }

/-- A core changed. -/
def State.modCore (s : State) (c : Nat) (g : CoreState → CoreState) : State := s.setCore c (g (s.core c))

/-- A stream of an image. -/
def CoreImage.stream (m : CoreImage) : StreamId → Stream
  | .f => m.f
  | .b => m.b
  | .u => m.u

/-- A stream of an image replaced. -/
def CoreImage.setStream (m : CoreImage) (x : StreamId) (t : Stream) : CoreImage :=
  match x with
  | .f => { m with f := t }
  | .b => { m with b := t }
  | .u => { m with u := t }

/-- A stream of the tenancy resident on a core. -/
def State.stream (s : State) (i : At) : Stream := (s.core i.core).img.stream i.stream

/-- The resident image of a core changed. -/
def State.modImg (s : State) (c : Nat) (g : CoreImage → CoreImage) : State :=
  s.modCore c fun k => { k with img := g k.img }

/-- A stream replaced. -/
def State.setStream (s : State) (i : At) (t : Stream) : State := s.modImg i.core (·.setStream i.stream t)

/-- A stream changed. -/
def State.modStream (s : State) (i : At) (g : Stream → Stream) : State := s.setStream i (g (s.stream i))

/-- The tenancy resident on a core; 0 where none is, which no issue reaches. -/
def State.tenOf (s : State) (c : Nat) : Nat := ((s.core c).res).getD 0

/-- Is the stream's non-finite notice unacknowledged (R348)? -/
def State.notice (s : State) (i : At) : Bool :=
  match i.stream with
  | .f => (s.core i.core).noticeF
  | .b => (s.core i.core).noticeB
  | .u => (s.core i.core).noticeU

/-- The stream's notice raised or acknowledged. -/
def State.setNotice (s : State) (i : At) (v : Bool) : State :=
  s.modCore i.core fun k => match i.stream with
    | .f => { k with noticeF := v }
    | .b => { k with noticeB := v }
    | .u => { k with noticeU := v }

/-- Request-tracker entries that a stream holds (R96). -/
def State.track (s : State) (i : At) : Nat :=
  match i.stream with
  | .f => (s.core i.core).trackF
  | .b => (s.core i.core).trackB
  | .u => (s.core i.core).trackU

/-- Request-tracker entries in use on a core. -/
def State.trackAll (s : State) (c : Nat) : Nat :=
  (s.core c).trackF + (s.core c).trackB + (s.core c).trackU

/-- A field of a register that keeps the largest of what it is given raised to at least `n`. -/
def State.raiseField (s : State) (off hi lo n : Nat) : State :=
  if s.field off hi lo < n then s.setField off hi lo n else s

/-- HIGH_WATER of a core's tracker raised to at least `n` (R97). -/
def State.raiseTrack (s : State) (c n : Nat) : State := s.raiseField (coreBase c + 0x410) 24 16 n

/-- A stream's request-tracker entries set; HIGH_WATER follows (R97). -/
def State.setTrack (s : State) (i : At) (n : Nat) : State :=
  let s := s.modCore i.core fun k => match i.stream with
    | .f => { k with trackF := n }
    | .b => { k with trackB := n }
    | .u => { k with trackU := n }
  s.raiseTrack i.core (s.trackAll i.core)

/-- `n` requests of a core that leave and are answered within one action: while they are out they hold entries of the
tracker (R96). -/
def State.request (s : State) (c n : Nat) : State := s.raiseTrack c (min 320 (s.trackAll c + n))

/-- Is one of the common 224 tracker entries of a core free (R96)? -/
def State.poolFree (s : State) (c : Nat) : Bool :=
  let k := s.core c
  decide ((k.trackF - 32) + (k.trackB - 32) + (k.trackU - 32) < 224)

/-- Is a tracker entry available to the stream: one of its own 32, or a common one (R96)? -/
def State.trackFree (s : State) (i : At) : Bool := decide (s.track i < 32) || s.poolFree i.core

/-- Entries of the tracker that the stream could still take: of its own 32, and common ones (R96). -/
def State.trackRoom (s : State) (i : At) : Nat :=
  let k := s.core i.core
  (32 - s.track i) + (224 - ((k.trackF - 32) + (k.trackB - 32) + (k.trackU - 32)))

/-! ### A device that does not run -/

/-- Has every island stopped: COLD_RST_N is low, or a thermal trip holds (R424, R427)? -/
def State.stopped (s : State) : Bool := s.pins.coldLow || s.pins.thermtrip

/-! ### Free draws -/

/-- The state after `n` free draws. -/
def State.draw (s : State) (n : Nat) : State := { s with free := s.free + n }

/-! ### Counters of a core (chapter 17) -/

/-- The code of a stall cause (Table 0.6). -/
def Cause.code : Cause → Nat
  | .operand => 0
  | .weightStarve => 1
  | .storeBank => 2
  | .memLimit => 3
  | .xlate => 4
  | .page => 5
  | .sync => 6
  | .slotIdle => 7
  | .accBusy => 8
  | .boomBp => 9
  | .nocBp => 10
  | .power => 11
  | .thermal => 12
  | .tcfgHold => 13
  | .slice => 14
  | .other => 15

/-- Does event counter `n` of a core count an event of the stream, or one that is not per stream (Table 17.4)? -/
def State.evtOn (s : State) (c : Nat) (x : Option StreamId) (ev n : Nat) : Bool :=
  let ctl := s.reg (coreBase c + 0xE00 + 16 * n)
  bit 11 ctl && bits 7 0 ctl == ev &&
  match x with
  | none => true
  | some x => bit (8 + x.idx) ctl

/-- One event counter counts. -/
def State.evt1 (s : State) (c : Nat) (x : Option StreamId) (ev k n : Nat) : State :=
  if s.evtOn c x ev n = true ∧ k ≠ 0 then s.count (coreBase c + 0xE08 + 16 * n) 47 0 k else s

/-- `k` events of a kind on a core (R395): each of the four counters that selects it counts. -/
def State.event (s : State) (c : Nat) (x : Option StreamId) (ev k : Nat) : State :=
  ((((s.evt1 c x ev k 0).evt1 c x ev k 1).evt1 c x ev k 2).evt1 c x ev k 3)

/-- The events of Table 17.5. -/
def evCycles : Nat := 0x00
def evInstr : Nat := 0x01
def evMma : Nat := 0x02
def evArrayBusy : Nat := 0x03
def evArrayLoad : Nat := 0x04
def evArrayGap : Nat := 0x05
def evShim : Nat := 0x06
def evVector : Nat := 0x07
def evNcHit : Nat := 0x08
def evNcMiss : Nat := 0x09
def evNcWriteback : Nat := 0x0A
def evXlateMiss : Nat := 0x0B
def evStoreConflict : Nat := 0x0C
def evDelivery : Nat := 0x0D
def evDacc : Nat := 0x0E
def evBlazeWritten : Nat := 0x0F
def evBlazeArrived : Nat := 0x10

/-- Destinations written with their Blaze bit set (Table 17.5, 0x0F). -/
def State.blazeWritten (s : State) (i : At) (b : Bool) : State :=
  if b then s.event i.core (some i.stream) evBlazeWritten 1 else s

/-- The register and field of a stream's non-finite count for a place in the order of Table 14.3. -/
def nfField (i : At) (place : Nat) : Nat × Nat :=
  (coreBase i.core + 0xB00 + 0x10 * i.stream.idx + 8 * (place / 4), 16 * (place % 4))

/-- `n` non-finite events of a stream on destinations of the format at `place` of Table 14.3; a stream that counts
one raises a notice where LOOK.NF_CFG of its tenancy selects it and none is unacknowledged (R347, R348). -/
def State.nonFinite (s : State) (i : At) (place n : Nat) : State :=
  if n = 0 then s
  else
    let (off, lo) := nfField i place
    let s := s.count off (lo + 15) lo n
    let cfg := s.reg (lookBase + 0x200 + 8 * s.tenOf i.core)
    if bit place cfg && bit (8 + i.stream.idx) cfg then s.setNotice i true else s

/-! ### Fault records (R318) -/

/-- A fault record sent to the host block, as a notice of the control plane (Table 9.1, R318). -/
def State.sendFault (s : State) (r : FaultRec) : State :=
  { s with noc := { s.noc with faults := s.noc.faults ++ [⟨r, s.noc.nextId⟩], nextId := s.noc.nextId + 1 } }

/-- A fault record queued for the tenancy's fault session, with the ring counter (R318); a full queue of 1,024
drops it, counts, and keeps the count for the record with SOURCE 7. A page fault's record of an engine whose last one has
not left gives way to it, so that an engine never has more than one outstanding (R231). -/
def State.queueFault (s : State) (r : FaultRec) : State :=
  let q := (SMap.get [] s.faultQ r.ten).filter fun x =>
    !(r.code == 0x10 && x.source == r.source && x.engine == r.engine && x.code == 0x10)
  if q.length < 1024 then
    { s with faultQ := SMap.put s.faultQ r.ten (q ++ [{ r with count := s.reg 0x700 }]) }
  else
    { s with host := { s.host with drops := SMap.put s.host.drops r.ten (SMap.get 0 s.host.drops r.ten + 1) } }.count
      (hostBase + 0x1408 + 8 * r.ten) 31 16 1

/-- ENGINE_ID of a sequencer (R230). -/
def engineOf (i : At) : Nat := i.core + 0x400 * i.stream.idx

/-- Fault codes (Table 0.5). -/
def codeTileShape : Nat := 0x01
def codeTileBounds : Nat := 0x02
def codeFormWidth : Nat := 0x03
def codePageFault : Nat := 0x10
def codeAccess : Nat := 0x11
def codeBlazeBite : Nat := 0x20
def codeStaleShard : Nat := 0x21
def codeState : Nat := 0x30
def codeSequence : Nat := 0x31
def codeSyncOverflow : Nat := 0x40
def codeTallyOverflow : Nat := 0x50
def codeLinkLost : Nat := 0x60
def codePeerLost : Nat := 0x61

/-- The fault codes that are reported, Table 0.5 (R21). -/
def faultCodes : List Nat := [0x01, 0x02, 0x03, 0x10, 0x11, 0x20, 0x21, 0x30, 0x31, 0x40, 0x50, 0x60, 0x61]

/-- The SPACE codes of Table 8.8. -/
def spOwn : Nat := 0
def spCore : Nat := 1
def spVirtual : Nat := 2

/-- Does a started descriptor of core `n` write the store of core `c`? -/
def DmaDesc.writesStore (d : DmaDesc) (n c : Nat) : Bool :=
  d.started && !d.suspended && ((d.dstSpace == spOwn && n == c) || (d.dstSpace == spCore && d.dstCore == c))

/-- Are Flume or DMA delivering to the store of a core (R90)? -/
def State.portBusy (s : State) (c : Nat) : Bool :=
  s.flume.deliveries.any (fun d => d.core == c) ||
  s.cores.any fun p => p.2.img.dma.descs.any fun d => d.writesStore p.1 c

/-- The instruction at issue is not ready any more: an array instruction that waited for its slot has no place in it. -/
def Stream.unready (t : Stream) : Stream :=
  { t with held := if t.slotWait.isSome then some .slotIdle else t.held, slotWait := none }

/-- The stream stops in FAULTED with a code and an address (R65, R67, R68). -/
def Stream.stop (t : Stream) (code addr : Nat) : Stream :=
  { t with state := .faulted, faultCode := BitVec.ofNat 8 code, faddr := BitVec.ofNat 48 addr,
           wait := none, page := none, fromSuspended := false, heldResume := false, heldTcfg := none,
           part := none, slotWait := none, held := none, prepared := [] }

/-- The stream of a core stops in FAULTED. -/
def State.faultStream (s : State) (i : At) (code addr : Nat) : State := s.modStream i (·.stop code addr)

/-! ### Access tables (R334–R338) -/

/-- Does window `n` of target `x` permit the access (R334, R335)? -/
def State.window (s : State) (x n master pos : Nat) (write : Bool) : Bool :=
  let lo := s.reg (0x1_0000 + 0x400 * x + 16 * n)
  let hi := s.reg (0x1_0000 + 0x400 * x + 16 * n + 8)
  bit 63 lo && decide (Nat.xor master (bits 47 40 lo) &&& bits 55 48 lo = 0) &&
  decide (bits 39 0 lo ≤ pos) && decide (pos ≤ bits 39 0 hi) && bit (if write then 57 else 56) lo

/-- Is the access permitted by some window of the target? -/
def State.aclOk (s : State) (x master pos : Nat) (write : Bool) : Bool :=
  (List.range (windowsOf x)).any fun n => s.window x n master pos write

/-- A denial recorded (R338). -/
def State.denied (s : State) (x master pos : Nat) (write : Bool) : State :=
  (s.setReg 0x688 (x % 128 + 128 * b2n write + 256 * (master % 256) + 65536 * (pos % 2 ^ 40))).count 0x690 31 0 1

/-- Master codes (R335). -/
def masterTen (t : Nat) : Nat := t
def masterSession (n : Nat) : Nat := 0x40 + n
def masterPeer (t : Nat) : Nat := 0x80 + t

/-- Every window position that bytes `pa` to `pa + n - 1` of one stack touch is permitted. -/
def State.memOk (s : State) (master pa n : Nat) (write : Bool) : Bool :=
  let x := pa / 2 ^ 36
  let a := pa % 2 ^ 36 / 65536
  let b := (pa + n - 1) % 2 ^ 36 / 65536
  (List.range (b + 1 - a)).all fun k => s.aclOk x master (a + k) write

/-- A denial of an access to device memory recorded. -/
def State.memDenied (s : State) (master pa : Nat) (write : Bool) : State :=
  s.denied (pa / 2 ^ 36) master (pa % 2 ^ 36 / 65536) write

/-! ### Lookout events (R353) -/

/-- Event input `n` of Lookout receives `k` events (R353). -/
def State.lookout (s : State) (n k : Nat) : State :=
  let off := lookBase + 0x100 + 8 * n
  (s.count off 31 16 (k * s.field off 15 0)).count off 63 32 k

/-! ### The core store (R84, R90, R232) -/

/-- Pieces of a run of bytes by aligned units of `u` bytes: unit number, offset in it, bytes. -/
def pieces (u : Nat) : Nat → Nat → List Byte → List (Nat × Nat × List Byte)
  | 0, _, _ => []
  | k + 1, a, bs =>
    if bs.isEmpty then []
    else (a / u, a % u, bs.take (u - a % u)) :: pieces u k (a + (u - a % u)) (bs.drop (u - a % u))

/-- The pieces of bytes from an address. -/
def piecesOf (u a : Nat) (bs : List Byte) : List (Nat × Nat × List Byte) := pieces u bs.length a bs

/-- The units of `u` bytes that `n` bytes from `a` touch. -/
def unitsOf (u a n : Nat) : List Nat :=
  if n = 0 then [] else (List.range ((a + n - 1) / u + 1 - a / u)).map (· + a / u)

/-- Does any granule of a range of a core store carry a mark? -/
def CoreImage.storeMark (m : CoreImage) (a n : Nat) : Bool := (unitsOf 64 a n).any (NSet.has m.storeBlz)

/-- Bytes of a core store. -/
def CoreImage.storeRead (m : CoreImage) (a n : Nat) : List Byte := m.store.read a n

/-- The mark of each granule that a write with mark `bz` touches (R84): set by a marked write; cleared by an
unmarked one that covers the granule; otherwise kept. -/
def markGranules (blz : NSet) (bz : Bool) : List (Nat × Nat × List Byte) → NSet
  | [] => blz
  | (g, _, bs) :: ps =>
    markGranules (if bz then NSet.add blz g else if bs.length = 64 then NSet.sub blz g else blz) bz ps

/-- Bytes written to a core store with a mark (R84). -/
def CoreImage.storeWrite (m : CoreImage) (a : Nat) (bs : List Byte) (bz : Bool) : CoreImage :=
  { m with store := m.store.write a bs, storeBlz := markGranules m.storeBlz bz (piecesOf 64 a bs) }

/-- The packed number of a list of bytes, little-endian. -/
def packBytes (bs : List Byte) : Nat := leNat bs

/-- The bytes of a number. -/
def bytesOf (n x : Nat) : List Byte := leBytes n x

/-! ### Registers, tiles and accumulators -/

/-- A scalar register; s0 reads as zero and is never marked (R61). -/
def Stream.sreg (t : Stream) (r : SReg) : SVal := if r = 0 then {} else SMap.get {} t.sregs r.toNat

/-- A scalar register written; a write to s0 is ignored (R61). -/
def Stream.setSreg (t : Stream) (r : SReg) (v : Word) (bz : Bool) : Stream :=
  if r = 0 then t else { t with sregs := SMap.put t.sregs r.toNat ⟨v, bz⟩ }

/-- A vector register. -/
def Stream.vreg (t : Stream) (r : VReg) : VVal := SMap.get {} t.vregs r.toNat

/-- A vector register written. -/
def Stream.setVreg (t : Stream) (r : VReg) (v : VData) (bz : Bool) : Stream :=
  { t with vregs := SMap.put t.vregs r.toNat ⟨v, bz⟩ }

/-- A predicate. -/
def Stream.preg (t : Stream) (r : Nat) : BitVec 256 := SMap.get 0 t.preds r

/-- A predicate written. -/
def Stream.setPreg (t : Stream) (r : Nat) (v : BitVec 256) : Stream := { t with preds := SMap.put t.preds r v }

/-- A scalar result of an instruction: the register, its mark and the count of marked writes (R62). -/
def State.putS (s : State) (i : At) (r : SReg) (v : Word) (bz : Bool) : State :=
  (s.modStream i (·.setSreg r v bz)).blazeWritten i (bz && decide (r ≠ 0))

/-- A vector result of an instruction. -/
def State.putV (s : State) (i : At) (r : VReg) (v : VData) (bz : Bool) : State :=
  (s.modStream i (·.setVreg r v bz)).blazeWritten i bz

/-- A tile of an image. -/
def CoreImage.tile (m : CoreImage) (t : Nat) : Tile := SMap.get {} m.tiles t

/-- A row of a tile. -/
def Tile.row (t : Tile) (r : Nat) : RowVal := SMap.get {} t.data r

/-- A row of a tile written. -/
def Tile.setRow (t : Tile) (r : Nat) (v : RowData) (bz : Bool) : Tile :=
  { t with data := SMap.put t.data r ⟨v, bz⟩ }

/-- Is the tile configured (R77)? -/
def Tile.configured (t : Tile) : Bool := decide (t.rows ≠ 0)

/-- Lines that a tile occupies (R77): rows × ceil(L / 64). -/
def Tile.lines (t : Tile) : Nat := t.rows * ((t.len + 63) / 64)

/-- Every latch that copies a tile becomes invalid (R89). -/
def dropLatches (ls : SMap Latch) (tile : Nat) : SMap Latch :=
  ls.map fun p => (p.1, if p.2.tile = tile then { p.2 with valid := false } else p.2)

/-- A tile of a core replaced by a write to it: its latches become invalid (R89). -/
def State.setTile (s : State) (c t : Nat) (v : Tile) : State :=
  s.modCore c fun k =>
    { k with img := { k.img with tiles := SMap.put k.img.tiles t v }, latches := dropLatches k.latches t }

/-- An accumulator of an image. -/
def CoreImage.acc (m : CoreImage) (a : Nat) : Acc := SMap.get {} m.accs a

/-- A word of an accumulator. -/
def Acc.word (a : Acc) (w : Nat) : W32 := SMap.get 0 a.words w

/-- An accumulator of a core replaced. -/
def State.setAcc (s : State) (c a : Nat) (v : Acc) : State :=
  s.modImg c fun m => { m with accs := SMap.put m.accs a v }

/-- Words of an accumulator written. -/
def Acc.setWords (a : Acc) (ws : List (Nat × W32)) : Acc :=
  { a with words := ws.foldl (fun m p => SMap.put m p.1 p.2) a.words }

/-- A segment's Blaze bit (R107). -/
def Acc.seg (a : Acc) (g : Nat) : Bool := a.blz.getLsbD g

/-- A segment's Blaze bit set or cleared. -/
def Acc.setSeg (a : Acc) (g : Nat) (v : Bool) : Acc :=
  { a with blz := if v then a.blz ||| BitVec.twoPow 32 g else a.blz &&& ~~~(BitVec.twoPow 32 g) }

/-- Segments' Blaze bits set or cleared. -/
def Acc.setSegs (a : Acc) (gs : List (Nat × Bool)) : Acc := gs.foldl (fun x p => x.setSeg p.1 p.2) a

end Sys2Proof.Machine
end

