-- ==== Sys2Proof/Machine/Lines.lean ====
section
/-! DEFINITION. The lines of the stacks: placement, the outer code and its decoding, reads, writes and marks
(R172–R184), and the resources that the Scarf table remaps (R185). A line is stored as its bytes and mark with
the symbol errors that have since befallen it; the code is linear, so the errors alone decide what a decoder
sees. -/

namespace Sys2Proof.Machine

/-- The address of row `r` of a strided list of rows. -/
def rowAt (base : Nat) (stride : Int) (r : Nat) : Int := base + r * stride

/-! ### GF(2^8) with x^8 + x^4 + x^3 + x^2 + 1 (R180) -/

/-- A field element times α. -/
def gfX (a : Nat) : Nat := if a < 128 then 2 * a else Nat.xor (2 * a) 0x11D

/-- The product, one bit of the second factor at a time. -/
def gfMulAux : Nat → Nat → Nat → Nat
  | 0, _, _ => 0
  | k + 1, a, b => Nat.xor (if b % 2 = 1 then a else 0) (gfMulAux k (gfX a) (b / 2))

/-- The product of two field elements. -/
def gfMul (a b : Nat) : Nat := gfMulAux 8 a b

/-- A power of α by repeated multiplication. -/
def gfAlphaAux : Nat → Nat
  | 0 => 1
  | k + 1 => gfX (gfAlphaAux k)

/-- α to the power `n`. -/
def gfAlpha (n : Nat) : Nat := gfAlphaAux (n % 255)

/-- A power of a field element. -/
def gfPow (a : Nat) : Nat → Nat
  | 0 => 1
  | k + 1 => gfMul a (gfPow a k)

/-- The inverse of a non-zero field element. -/
def gfInv (a : Nat) : Nat := gfPow a 254

/-- The exponent of symbol `i` in the codeword polynomial: the first data byte is the highest (PRESUMED, log
entry 12). -/
def symbolPower (i : Nat) : Nat := 71 - i

/-- Syndrome `j` of a pattern of symbol errors. -/
def syndrome1 (errs : SymErrs) (j : Nat) : Nat :=
  errs.foldl (fun acc p => Nat.xor acc (gfMul p.2.toNat (gfAlpha (j * symbolPower p.1)))) 0

/-- The eight syndromes of a pattern. -/
def syndrome (errs : SymErrs) : List Nat := (List.range 8).map (syndrome1 errs)

/-- The pattern that marks a blazed line, on the check bytes (R183). -/
def blazePattern : SymErrs :=
  [(64, 0xC3), (65, 0x5A), (66, 0x96), (67, 0x3C), (68, 0xA5), (69, 0x69), (70, 0x0F), (71, 0xF0)]

/-- The state of the shift-register synthesis. -/
structure Bm where
  c : List Nat
  b : List Nat
  l : Nat
  m : Nat
  d0 : Nat
  deriving DecidableEq, Repr

/-- The sum of two polynomials. -/
def polyAdd : List Nat → List Nat → List Nat
  | [], q => q
  | p, [] => p
  | a :: p, b :: q => Nat.xor a b :: polyAdd p q

/-- One step of the synthesis with syndrome `n`. -/
def Bm.step (s : List Nat) (st : Bm) (n : Nat) : Bm :=
  let d := (List.range (st.l + 1)).foldl
    (fun acc i => Nat.xor acc (if i ≤ n then gfMul (st.c.getD i 0) (s.getD (n - i) 0) else 0)) 0
  if d = 0 then { st with m := st.m + 1 }
  else
    let k := gfMul d (gfInv st.d0)
    let c' := polyAdd st.c (List.replicate st.m 0 ++ st.b.map (gfMul k))
    if 2 * st.l ≤ n then ⟨c', st.c, n + 1 - st.l, 1, d⟩
    else { st with c := c', m := st.m + 1 }

/-- The error locator of eight syndromes. -/
def locator (s : List Nat) : Bm := (List.range 8).foldl (fun st n => Bm.step s st n) ⟨[1], [1], 0, 1, 1⟩

/-- A polynomial's value. -/
def polyEval (p : List Nat) (x : Nat) : Nat := p.foldr (fun a acc => Nat.xor a (gfMul acc x)) 0

/-- The pattern of at most `r` symbol errors with these syndromes, where there is one. -/
def patternWithin (r : Nat) (s : List Nat) : Option SymErrs :=
  if s.all (· == 0) then some []
  else
    let bm := locator s
    if r < bm.l then none
    else
      let pos := (List.range 72).filter fun i => polyEval bm.c (gfAlpha (255 - symbolPower i)) == 0
      let om := (List.range 8).map fun n =>
        (List.range (n + 1)).foldl (fun acc i => Nat.xor acc (gfMul (bm.c.getD i 0) (s.getD (n - i) 0))) 0
      let der := bm.c.zipIdx.map fun p => if p.2 % 2 = 1 then p.1 else 0
      let es := pos.map fun i =>
        let x := gfAlpha (symbolPower i)
        let xi := gfInv x
        let dv := gfMul x (polyEval der xi)
        (i, BitVec.ofNat 8 (gfMul (gfMul x (polyEval om xi)) (gfInv dv)))
      if pos.length = bm.l ∧ syndrome es = s ∧ es.all (fun p => p.2 != 0) then some es else none

/-- How a read finds a line (R180–R183): `clean`; blazed, with the symbols corrected; corrected in some
symbols; or uncorrectable. -/
inductive Decoded where
  | clean
  | marked (fix : SymErrs)
  | corrected (fix : SymErrs)
  | bad
  deriving DecidableEq, Repr

/-- The decoding of a line that was stored with mark `bz` and has met `errs` (R181, R183). -/
def decodeLine (radius : Nat) (bz : Bool) (errs : SymErrs) : Decoded :=
  if errs.isEmpty then (if bz then .marked [] else .clean)
  else
    let s := syndrome (if bz then errs ++ blazePattern else errs)
    let t := polyAdd s (syndrome blazePattern)
    match patternWithin (min 2 radius) t with
    | some fix => .marked fix
    | none =>
      match patternWithin radius s with
      | some [] => .clean
      | some fix => .corrected fix
      | none => .bad

/-- Bytes of a line with symbol differences applied; check symbols change no byte. -/
def applyErrs (bs : List Byte) (es : SymErrs) : List Byte :=
  es.foldl (fun l p => if p.1 < 64 then l.set p.1 (l.getD p.1 0 ^^^ p.2) else l) bs

/-! ### Stacks -/

/-- The states of a stack (Table 7.2). -/
def stTraining : Nat := 0
def stReady : Nat := 1
def stSelfRefresh : Nat := 2
def stRetraining : Nat := 3
def stFailed : Nat := 4

/-- Is a stack's link down: is it not READY? The logic die, which has the Cruise unit, is then out of reach (R404; log entry
135). -/
def Stack.linkDown (k : Stack) : Bool := k.state != stReady

/-- A stack. -/
def State.stack (s : State) (i : Nat) : Stack := SMap.get {} s.mem.dram i

/-- A stack changed. -/
def State.modStack (s : State) (i : Nat) (g : Stack → Stack) : State :=
  { s with mem := { s.mem with dram := SMap.put s.mem.dram i (g (s.stack i)) } }

/-- The stack of a physical address (R24). -/
def stackOf (pa : Nat) : Nat := pa / 2 ^ 36

/-- The stack that holds a line. -/
def stackOfLine (l : Nat) : Nat := l / 2 ^ 30

/-- RADIUS in force: 5 to 7 are read as 4 (Table 7.4). -/
def State.radius (s : State) (st : Nat) : Nat :=
  let r := s.field (memBase st + 0x10) 2 0
  if r ≤ 4 then r else 4

/-- The symbol errors of a stored line. -/
def State.lineErrs (s : State) (l : Nat) : SymErrs := SMap.get [] s.mem.errs l

/-- How a read of line `l` finds it. -/
def State.decoded (s : State) (l : Nat) : Decoded :=
  decodeLine (s.radius (stackOfLine l)) (NSet.has s.mem.blz l) (s.lineErrs l)

/-- Does a run of lines that the device has written in its own layout cover a line? -/
def inArea (l : Nat) (p : Nat × Nat × Nat) : Bool := decide (p.1 ≤ l) && decide (l < p.1 + p.2.1)

/-- The stored bytes of a line, as written; those of a layout that is not architected are free values (R320, R328). -/
def State.lineBytes (s : State) (l : Nat) : List Byte :=
  match s.mem.areas.find? (inArea l) with
  | some p => (List.range 64).map fun j => Config.ownByte p.2.2 (64 * l + j)
  | none => s.mem.bytes.read (64 * l) 64

/-- What is left of a run of lines once lines `l` to `l + k - 1` are written anew. -/
def cutArea (l k : Nat) (p : Nat × Nat × Nat) : List (Nat × Nat × Nat) :=
  let (a, n, d) := p
  if a + n ≤ l ∨ l + k ≤ a then [p]
  else (if a < l then [(a, l - a, d)] else []) ++ (if l + k < a + n then [(l + k, a + n - (l + k), d)] else [])

/-- Runs of lines with lines `l` to `l + k - 1` cut out of them. -/
def cutAreas (l k : Nat) (as : List (Nat × Nat × Nat)) : List (Nat × Nat × Nat) := (as.map (cutArea l k)).flatten

/-- Lines `l` to `l + k - 1` written by the device in a layout of its own, unmarked and with fresh check bytes. -/
def State.writeArea (s : State) (l k : Nat) : State :=
  if (s.stack (stackOfLine l)).state = stFailed then s.count (memBase (stackOfLine l) + 0x30) 55 40 k
  else
    let off (m : Nat) : Bool := decide (m < l) || decide (l + k ≤ m)
    { s with
      mem := { s.mem with
        bytes := s.mem.bytes.filter fun c => off (c.1 / 64)
        blz := s.mem.blz.filter fun p => off p.1
        errs := s.mem.errs.filter fun p => off p.1
        areas := (l, k, s.free) :: cutAreas l k s.mem.areas }
      free := s.free + 1 }

/-- What a read of line `l` delivers: 64 bytes and the mark (R177, R181, R183). -/
def State.lineView (s : State) (l : Nat) : List Byte × Bool :=
  if (s.stack (stackOfLine l)).state = stFailed then (List.replicate 64 0, true)
  else
    let raw := applyErrs (s.lineBytes l) (s.lineErrs l)
    match s.decoded l with
    | .clean => (raw, false)
    | .marked fix => (applyErrs raw fix, true)
    | .corrected fix => (applyErrs raw fix, false)
    | .bad => (raw, true)

/-- A line stored whole, with its mark and fresh check bytes (R184). -/
def State.storeLine (s : State) (l : Nat) (bs : List Byte) (bz : Bool) : State :=
  { s with mem := { s.mem with
      bytes := s.mem.bytes.write (64 * l) bs
      areas := cutAreas l 1 s.mem.areas
      blz := NSet.mark s.mem.blz l bz
      errs := SMap.del s.mem.errs l } }

/-- A stored line's symbol errors, dropped or replaced. -/
def State.setErrs (s : State) (l : Nat) (es : SymErrs) : State :=
  { s with mem := { s.mem with errs := if es.isEmpty then SMap.del s.mem.errs l else SMap.put s.mem.errs l es } }

/-- What a read of line `l` leaves: the counts and addresses of R181 and R182, the conversion of an
uncorrectable line and the write-back of a line corrected in two or more symbols. -/
def State.touchLine (s : State) (l : Nat) : State :=
  let st := stackOfLine l
  let m := memBase st
  if (s.lineErrs l).isEmpty || decide ((s.stack st).state = stFailed) then s
  else match s.decoded l with
    | .clean => s
    | .marked _ => s
    | .corrected fix =>
      let v := s.lineView l
      let s := (s.count (m + 0x18) 31 0 1).lookout 0 1
      let s := s.setReg (m + 0x20) (64 * l + 2 ^ 39 * fix.length)
      if bit 4 (s.reg (m + 0x10)) && decide (2 ≤ fix.length) then s.storeLine l v.1 false else s
    | .bad =>
      let v := s.lineView l
      let s := (s.count (m + 0x18) 47 32 1).lookout 1 1
      let s := s.setReg (m + 0x28) (64 * l)
      if bit 3 (s.reg (m + 0x10)) then s.storeLine l v.1 true else s

/-- The reads of every line of a list. -/
def State.touchLines (s : State) (ls : List Nat) : State := ls.foldl State.touchLine s

/-- The reads of the lines of `n` bytes from `pa`. -/
def State.touch (s : State) (pa n : Nat) : State := s.touchLines (unitsOf 64 pa n)

/-- Bytes of device memory as reads deliver them. -/
def State.memBytes (s : State) (pa n : Nat) : List Byte :=
  (((unitsOf 64 pa n).map fun l => (s.lineView l).1).flatten.drop (pa % 64)).take n

/-- Does any line of the bytes read with a Blaze mark? -/
def State.memMark (s : State) (pa n : Nat) : Bool := (unitsOf 64 pa n).any fun l => (s.lineView l).2

/-- A number of `n` bytes of device memory. -/
def State.memNat (s : State) (pa n : Nat) : Nat := packBytes (s.memBytes pa n)

/-- A write of bytes within one line (R177, R184). -/
def State.writePiece (s : State) (bz : Bool) (p : Nat × Nat × List Byte) : State :=
  let (l, off, bs) := p
  let st := stackOfLine l
  if (s.stack st).state = stFailed then s.count (memBase st + 0x30) 55 40 1
  else if bs.length = 64 then s.storeLine l bs bz
  else
    let v := s.lineView l
    let s := s.touchLine l
    s.storeLine l (v.1.take off ++ bs ++ v.1.drop (off + bs.length)) (bz || v.2)

/-- Bytes written to device memory with a mark (R184). -/
def State.memWrite (s : State) (pa : Nat) (bs : List Byte) (bz : Bool) : State :=
  (piecesOf 64 pa bs).foldl (fun s p => s.writePiece bz p) s

/-! ### Placement and the Scarf table (R173, R185) -/

/-- The channel, bank, row and line position of a stack offset (Table 7.1). -/
def place (o : Nat) : Nat × Nat × Nat × Nat :=
  (Nat.xor (bits 12 8 o) (bits 17 13 o), bits 19 15 o, bits 35 20 o, bits 14 13 o * 4 + bits 7 6 o)

/-- Does the resource of a Scarf entry hold the line at a stack offset (Table 7.5)? -/
def inResource (e o : Nat) : Bool :=
  let (ch, bank, row, line) := place o
  let kind := bits 2 1 e
  let unit := bits 29 14 e
  ch == bits 8 4 e &&
  (if kind = 0 then bank == bits 13 9 e && row == unit
   else if kind = 1 then bank == bits 13 9 e && row / 512 == unit && line == bits 33 30 e
   else row / 4096 == unit && bank == bits 13 9 e)

/-- Are accesses to the line held: the link retrains or is down, or a Scarf copy holds its resource (R176,
R187)? A FAILED stack answers at once. -/
def State.memHeld (s : State) (pa : Nat) : Bool :=
  let k := s.stack (stackOf pa)
  k.state == stTraining || k.state == stSelfRefresh || k.state == stRetraining ||
  (match k.adding with
   | some e => inResource e (pa % 2 ^ 36)
   | none => false)

end Sys2Proof.Machine
end

