-- ==== Sys2Proof/Machine/Network.lean ====
section
/-! DEFINITION. The mesh and the ring as a network: nodes, spurs and stops, routing tables and exits, and packets whose
flits move hop by hop under credits, channels, ages and frames (R234–R239, R241–R245, R252, R396). -/

namespace Sys2Proof.Machine

/-! ### Nodes (R234, R235, R245) -/

/-- A node by number: routers by site number, stops at 640 + n. -/
def nodeKey : Node → Nat
  | .site n => n
  | .stop n => 640 + n

/-- The node of a number. -/
def nodeOfKey (k : Nat) : Node := if k < 640 then .site k else .stop (k - 640)

/-- Is there a node, and does it forward (R234, R236)? -/
def State.nodeUp (s : State) (d : Node) : Bool :=
  !NSet.has s.noc.halted (nodeKey d) &&
  match d with
  | .site n => s.siteOn n
  | .stop n => decide (n < 24)

/-- The spur routers of a stop, in increasing site number (Table 9.4). -/
def spurRouters (n : Nat) : List Nat :=
  if n < 8 then (List.range 4).map fun j => 20 * (4 * n + j)
  else if n < 12 then (List.range 5).map fun j => 620 + 5 * (n - 8) + j
  else if n < 20 then (List.range 4).map fun j => 20 * (28 - 4 * (n - 12) + j) + 19
  else if n < 24 then (List.range 5).map fun j => 15 - 5 * (n - 20) + j
  else []

/-- The stops that serve a site, in increasing number: its spurs in order (R235; log entry 92). -/
def stopsOfSite (n : Nat) : List Nat := (List.range 24).filter fun k => (spurRouters k).contains n

/-- Is the device in legacy edge mode (R252)? -/
def State.legacy (s : State) : Bool := bit 0 (s.reg nocBase)

/-- The sites at the corners. -/
def cornerSite (n : Nat) : Bool := n == 0 || n == 19 || n == 620 || n == 639

/-- Is the spur at a site enabled: its router is present, and in legacy edge mode it is at a corner (R245, R252)? -/
def State.spurOn (s : State) (site : Nat) : Bool := s.siteOn site && (!s.legacy || cornerSite site)

/-- The enabled spurs of a stop, by index. -/
def State.spursOn (s : State) (n : Nat) : List Nat :=
  ((spurRouters n).zipIdx.filter fun p => s.spurOn p.1).map Prod.snd

/-- Does the node have the output (R235, R245, R252)? -/
def State.hasOut (s : State) (d : Node) (o : OutPort) : Bool :=
  match d, o with
  | .site _, .local => true
  | .site n, .north => decide (n % 20 ≠ 0) && s.siteOn (n - 1)
  | .site n, .south => decide (n % 20 ≠ 19) && s.siteOn (n + 1)
  | .site n, .west => decide (20 ≤ n) && s.siteOn (n - 20)
  | .site n, .east => decide (n < 620) && s.siteOn (n + 20)
  | .site n, .spur k => decide (k < (stopsOfSite n).length) && s.spurOn n
  | .site _, _ => false
  | .stop n, .spur k => (s.spursOn n).contains k
  | .stop _, .ringCw => true
  | .stop _, .ringCcw => true
  | .stop _, .block => true
  | .stop _, _ => false

/-- The node and its input port that an output leads to; ports of a router: 0 local, 1 north, 2 east, 3 south, 4 west, 5
and 6 its spurs; of a stop: 0 its blocks, 1 to 5 its spurs, 6 and 7 the stops before and after it. -/
def State.nextNode (_s : State) (d : Node) (o : OutPort) : Option (Node × Nat) :=
  match d, o with
  | .site n, .north => some (.site (n - 1), 3)
  | .site n, .south => some (.site (n + 1), 1)
  | .site n, .west => some (.site (n - 20), 2)
  | .site n, .east => some (.site (n + 20), 4)
  | .site n, .spur k =>
    match (stopsOfSite n)[k]? with
    | some t => some (.stop t, 1 + (spurRouters t).idxOf n)
    | none => none
  | .stop n, .spur k =>
    match (spurRouters n)[k]? with
    | some r => some (.site r, 5 + (stopsOfSite r).idxOf n)
    | none => none
  | .stop n, .ringCw => some (.stop ((n + 1) % 24), 6)
  | .stop n, .ringCcw => some (.stop ((n + 23) % 24), 7)
  | _, _ => none

/-- The code of a router's output in UTIL_SEL and ROUTE_DATA (Tables 9.9 and 17.7). -/
def outCode : OutPort → Nat
  | .local => 0
  | .north => 1
  | .east => 2
  | .south => 3
  | .west => 4
  | .spur k => 5 + k
  | .ringCw => 7
  | .ringCcw => 7
  | .block => 7

/-! ### The blocks of the ring (Tables 9.4 and 9.7) -/

/-- The stops of a stack's port, engines and Tally unit. -/
def stackStops (st : Nat) : List Nat := if st < 4 then [2 * st, 2 * st + 1] else [26 - 2 * st, 27 - 2 * st]

/-- The stop of a sync bank. -/
def bankStop (b : Nat) : Nat := if b < 16 then 8 + b / 4 else 20 + (b - 16) / 4

/-- The stop of a collective engine. -/
def collStop (e : Nat) : Nat := [22, 21, 9, 10].getD e 22

/-- The stop through which engine `eng` (stack × 2 + engine) sends (R243). -/
def engStop (eng : Nat) : Nat := (stackStops (eng / 2)).getD (eng % 2) 0

/-- The stop of the configuration block, from which sessions' accesses come. -/
def configStop : Nat := 21

/-- The stop of a port: F0 to F11, then H0 and H1. -/
def portStop (p : Nat) : Nat := [23, 22, 22, 21, 21, 20, 8, 9, 9, 10, 10, 11, 23, 8].getD p configStop

/-- The corner site that serves a stop's blocks in legacy edge mode, and the stops at it (Table 9.7). -/
def legacyCorner (n : Nat) : Nat × List Nat :=
  if n < 4 ∨ 22 ≤ n then (0, [0, 23])
  else if n < 10 then (620, [7, 8])
  else if n < 16 then (639, [11, 12])
  else (19, [19, 20])

/-- The direction of the ring from a stop to another: the shorter, and clockwise at a distance of 12 (R245). -/
def ringDir (a b : Nat) : OutPort := if (b + 24 - a) % 24 ≤ 12 then .ringCw else .ringCcw

/-- Hops of the ring between two stops. -/
def ringHops (a b : Nat) : Nat := min ((b + 24 - a) % 24) ((a + 24 - b) % 24)

/-- The nearest of some stops on the ring; of equals, the lower number. -/
def nearestStop (a : Nat) (ts : List Nat) : Nat :=
  ts.foldl (fun b t => if ringHops a t < ringHops a b then t else b) (ts.headD a)

/-! ### Routing tables (R242) -/

/-- The outputs that a router may name in its table. -/
def tableOuts : List OutPort := [.north, .east, .south, .west]

/-- Where the boot ROM's tables may send a packet at router `n` for site `d`, before their properties are asked for. -/
def State.tableRaw (s : State) (n d : Nat) : OutPort :=
  let outs := tableOuts.filter fun o => s.hasOut (.site n) o
  if n = d then .local
  else outs.getD (Config.route (s.fuses.mappedOut.map Prod.fst) s.legacy false n d % outs.length) .local

/-- The neighbour that an output of a router leads to. -/
def meshNext (n : Nat) : OutPort → Nat
  | .north => n - 1
  | .south => n + 1
  | .west => n - 20
  | .east => n + 20
  | _ => n

/-- The routers of a route under a table, from the first, within `k` hops; none where it does not end. -/
def routeWalk (tab : Nat → Nat → OutPort) (d : Nat) : Nat → Nat → Option (List Nat)
  | 0, n => if n = d then some [n] else none
  | k + 1, n =>
    if n = d then some [n]
    else match tab n d with
      | .local => none
      | o => (routeWalk tab d k (meshNext n o)).map (n :: ·)

/-- Links (as router, output code) that follow one another on some route. -/
def dependencies (sites : List Nat) (tab : Nat → Nat → OutPort) : List ((Nat × Nat) × (Nat × Nat)) :=
  (sites.map fun n => (sites.map fun d =>
    let o := tab n d
    let m := meshNext n o
    let p := tab m d
    if o = .local ∨ p = .local then [] else [((n, outCode o), (m, outCode p))]).flatten).flatten

/-- Links that nothing waits on are removed, round after round; are none left after `k` rounds? -/
def drains : Nat → List ((Nat × Nat) × (Nat × Nat)) → Bool
  | 0, es => es.isEmpty
  | k + 1, es => es.isEmpty || drains k (es.filter fun e => es.any fun f => f.1 == e.2)

/-- The properties of R242: every route between enabled sites ends within 57 mesh hops, and no links wait on one another
in a circle. -/
def State.tablesOk (s : State) (tab : Nat → Nat → OutPort) : Bool :=
  s.sites.all (fun n => s.sites.all fun d => (routeWalk tab d 57 n).isSome) && drains 2560 (dependencies s.sites tab)

/-- The routers one hop from a router. -/
def State.neighbours (s : State) (n : Nat) : List Nat := (tableOuts.filter fun o => s.hasOut (.site n) o).map (meshNext n)

/-- What is reached from a front by steps, with one more than the fewest steps; `k` bounds the rounds left. -/
def spread (next : Nat → List Nat) : Nat → SMap Nat → List Nat → Nat → SMap Nat
  | 0, m, _, _ => m
  | k + 1, m, front, n =>
    let new := ((front.map next).flatten.filter fun x => (SMap.get? m x).isNone).eraseDups
    spread next k (new.foldl (fun m x => SMap.put m x n) m) new (n + 1)

/-- Distances from a router over steps, counted from 1. -/
def distances (next : Nat → List Nat) (a : Nat) : SMap Nat := spread next 640 [(a, 1)] [a] 2

/-- The neighbours of a router that stand nearer to the first enabled site, and of those as near the lower ones: every link
leads up one way and down the other. -/
def State.upFrom (s : State) (n : Nat) : List Nat :=
  let level := distances s.neighbours (s.sites.headD 0)
  let key (x : Nat) : Nat := 1024 * SMap.get 0 level x + x
  (s.neighbours n).filter fun m => decide (key m < key n)

/-- A router's output on a way that goes up as long as it must and down from there, never up after down, so that no links
wait on one another in a circle and no absent router is entered. -/
def State.tableUpDown (s : State) (n d : Nat) : OutPort :=
  let below := distances s.upFrom d
  let way (m : Nat) : OutPort := ((tableOuts.filter fun o => s.hasOut (.site n) o).find? fun o => meshNext n o == m).getD .local
  match SMap.get? below n with
  | some k => (((s.neighbours n).find? fun m => decide (SMap.get? below m = some (k - 1))).map way).getD .local
  | none =>
    let cost (m : Nat) : Nat := ((distances s.upFrom m).filterMap fun p => (SMap.get? below p.1).map (p.2 + ·)).foldl min 2048
    match s.upFrom n with
    | [] => .local
    | m :: ms => way (ms.foldl (fun b x => if cost x < cost b then x else b) m)

/-- The output that the table of router `n` names for site `d`: the boot ROM's algorithm is not given, so that any tables
with the properties of R242 may stand (log entry 77). -/
def State.tableOut (s : State) (n d : Nat) : OutPort :=
  if n = d then .local else if s.tablesOk s.tableRaw then s.tableRaw n d else s.tableUpDown n d

/-- The spur that the table of stop `n` names for site `d`, by index. -/
def State.stopSpur (s : State) (n d : Nat) : Option Nat :=
  let ks := s.spursOn n
  ks[Config.route (s.fuses.mappedOut.map Prod.fst) s.legacy true n d % ks.length]?

/-- Mesh hops of the route between two sites. -/
def State.routeLength (s : State) (a b : Nat) : Nat := ((routeWalk s.tableOut b 640 a).map List.length).getD 641

/-! ### Exits (R243, R252) -/

/-- The enabled spur routers of some stops, in increasing site number. -/
def State.exitsOf (s : State) (stops : List Nat) : List Nat :=
  let on := (stops.map spurRouters).flatten.filter s.spurOn
  (List.range 640).filter on.contains

/-- Where a packet to a stack goes: candidate (PA[10:8] XOR PA[13:11]) mod n of its exits; in legacy edge mode to its
corner. -/
def State.stackDest (s : State) (pa : Nat) : Dest :=
  let stops := stackStops (pa / 2 ^ 36)
  if s.legacy then .ring stops (legacyCorner (stops.headD 0)).1
  else
    let es := s.exitsOf stops
    .ring stops (es.getD (Nat.xor (bits 10 8 pa) (bits 13 11 pa) % es.length) 640)

/-- Where a packet from a site to another block at a stop goes: its exit with the shortest route from there, the lower
site number of equals; in legacy edge mode to its corner. -/
def State.blockDest (s : State) (src stop : Nat) : Dest :=
  if s.legacy then .ring [stop] (legacyCorner stop).1
  else
    let es := s.exitsOf [stop]
    .ring [stop] (es.foldl (fun b e => if s.routeLength src e < s.routeLength src b then e else b) (es.headD 640))

/-- The ring stop by which a packet that leaves the mesh at `exit` reaches some stops. -/
def entryStop (exit : Nat) (stops : List Nat) : Nat :=
  let ts := stopsOfSite exit
  match ts.find? stops.contains with
  | some t => t
  | none => nearestStop (stops.headD 0) ts

/-- Where a packet that names no physical address goes for a stack's engines or its Tally unit: which of the candidates it
takes is free (R243; log entry 138). -/
def State.unitDest (s : State) (st what : Nat) : Dest :=
  let stops := stackStops st
  if s.legacy then .ring stops (legacyCorner (stops.headD 0)).1
  else
    let es := s.exitsOf stops
    .ring stops (es.getD (Config.unitExit st what % es.length) 640)

/-- A destination with the exit that R243 gives it from a node, whatever exit it came with. -/
def State.byRule (s : State) (src : Node) : Dest → Dest
  | .site n => .site n
  | .ring stops e =>
    match src with
    | .stop _ => .ring stops 640
    | .site n =>
      if decide (stops.length = 2) && !s.legacy then .ring stops (if (s.exitsOf stops).contains e then e else (s.exitsOf stops).headD 640)
      else match s.blockDest n (stops.headD 0) with
        | .ring _ x => .ring stops x
        | .site x => .site x

/-- The outputs of a packet at a node, with the destination sites reached through each (R242–R245). A packet for a block
goes to its exit, over the spur and around the ring; one from the ring goes over the spur that is set for it, or that its
stop's table names for the lowest site of its destinations. -/
def State.legsAt (s : State) (d : Node) (exit : Option (List Nat × Nat)) (spur : Option Nat) (dsts : List Nat) : List Leg :=
  match d, exit with
  | .site n, some (stops, e) =>
    if n = e then [{ out := .spur ((stopsOfSite n).idxOf (entryStop e stops)), dsts := [] }]
    else [{ out := s.tableOut n e, dsts := [] }]
  | .stop t, some (stops, _) =>
    if stops.contains t then [{ out := .block, dsts := [] }]
    else [{ out := ringDir t (nearestStop t stops), dsts := [] }]
  | .site n, none =>
    ((.local :: tableOuts).map fun o => ({ out := o, dsts := dsts.filter fun x => decide (s.tableOut n x = o) } : Leg)).filter
      fun l => !l.dsts.isEmpty
  | .stop t, none =>
    let go (k : Nat) : List Leg := [{ out := .spur k, dsts := dsts }]
    match spur with
    | some r =>
      if (spurRouters t).contains r then go ((spurRouters t).idxOf r)
      else [{ out := ringDir t (nearestStop t (stopsOfSite r)), dsts := dsts }]
    | none =>
      if s.legacy ∧ !(legacyCorner t).2.contains t then
        [{ out := ringDir t (nearestStop t (legacyCorner t).2), dsts := dsts }]
      else match s.stopSpur t (dsts.foldl min (dsts.headD 0)) with
        | some k => go k
        | none => []

/-! ### Multicast (R244) -/

/-- The destination rows of a column. -/
def rowMask (sites : List Nat) (x : Nat) : List Nat := (List.range 20).filter fun y => sites.contains (20 * x + y)

/-- The packets of a multicast: columns with equal row masks form one. -/
def multicastSets (sites : List Nat) : List (List Nat) :=
  let masks := ((List.range 32).map (rowMask sites)).filter (!·.isEmpty)
  masks.eraseDups.map fun m => sites.filter fun n => decide (rowMask sites (n / 20) = m)

/-! ### Packets as they enter -/

/-- A packet with its source node and the input port that holds it there: what enters the mesh or ring with its first hop. -/
structure Entry where
  node : Node
  port : Nat := 0
  ch : Nat
  flits : Nat
  exit : Option (List Nat × Nat) := none
  spur : Option Nat := none
  dsts : List Nat := []
  deriving DecidableEq, Repr

/-- A packet between two nodes. -/
def entryFor (node : Node) (ch flits : Nat) : Dest → Entry
  | .site n => { node := node, ch := ch, flits := flits, dsts := [n] }
  | .ring stops exit => { node := node, ch := ch, flits := flits, exit := some (stops, exit) }

/-- A packet from a stack to a core, from the stack's own stop by the spur through which its request entered the ring
(R243, R252). -/
def State.fromStack (s : State) (core pa ch flits : Nat) : Entry :=
  match s.stackDest pa with
  | .ring stops e =>
    { node := .stop (nearestStop (entryStop e stops) stops), ch := ch, flits := flits, spur := some e, dsts := [s.siteOf core] }
  | .site _ => { node := .stop 0, ch := ch, flits := flits, dsts := [s.siteOf core] }

/-- A transfer row between a core and another core's store (Table 8.1). -/
def State.coreRow (s : State) (core other : Nat) (out : Bool) : Entry :=
  if out then entryFor (.site (s.siteOf core)) 4 4 (.site (s.siteOf other))
  else entryFor (.site (s.siteOf other)) 4 4 (.site (s.siteOf core))

/-- The data of a host's memory command between its session's port and a stack, on the ring; the channels of a block of the
ring that Table 9.2 does not name are those of a core's accesses (log entry 138). -/
def State.hostEntry (s : State) (c : HostCmd) (pa : Nat) : Entry :=
  let t := portStop (12 + (SMap.get {} s.host.sessions c.session : Session).port % 2)
  let stops := stackStops (pa / 2 ^ 36)
  if leNat (c.bytes.take 1) = 3 then entryFor (.stop t) 1 4 (.ring stops 640)
  else entryFor (.stop (nearestStop t stops)) 0 4 (.ring [t] 640)

/-- A line that a collective engine reads or writes, between its stop and a stack. -/
def collEntry (e pa : Nat) (toStack : Bool) : Entry :=
  let t := collStop e
  let stops := stackStops (pa / 2 ^ 36)
  if toStack then entryFor (.stop t) 1 1 (.ring stops 640)
  else entryFor (.stop (nearestStop t stops)) 0 1 (.ring [t] 640)

/-- The request of a `flm` on its way to an engine: on the channel of a core's requests (DEDUCED, log entry 138). -/
def State.flmEntry (s : State) (core eng : Nat) : Entry :=
  entryFor (.site (s.siteOf core)) 1 1 (s.unitDest (eng / 2) (eng % 2))

/-- The physical address of a tenancy's image of a core: in the core's home stack, after those of the enabled cores of that
region with lower numbers (R328). -/
def State.saveAt (s : State) (c t : Nat) : Nat :=
  let h := s.homeStack c
  let j := ((List.range c).filter fun d => s.homeStack d == h).length
  2 ^ 36 * h + 2 ^ 20 * s.field (0x640 + 8 * t) 15 0 + 2304 * 1024 * j

/-- The key of a line's transfer row, to the core or from it, among the marks of the core's rows. -/
def dmaKey (l : Nat) (toCore : Bool) : Nat := 2 * l + b2n toCore

/-- The key of a row to or from another core's store. -/
def dmaCoreKey (other : Nat) (out : Bool) : Nat := 2 ^ 40 + 2 * other + b2n out

/-- A packet of the data plane as it enters, where the state holds what it carries (Table 9.2). -/
def State.pktEntry (s : State) : Pkt → Option Entry
  | .acc id =>
    (s.accMsgs.find? fun d => d.id == id).map fun d => entryFor (.site d.origin) 3 4 (s.stackDest (256 * d.block))
  | .flume run unit k =>
    match s.flume.runs.find? fun r => r.id == run with
    | none => none
    | some r =>
      match (multicastSets (r.cores.map s.siteOf))[k]? with
      | some ds => if (SMap.get? r.units unit).isSome then
          some { node := .stop (engStop r.eng), ch := 2, flits := 4, dsts := ds } else none
      | none => none
  | .reply core pa => some (s.fromStack core pa 0 1)
  | .writeback core pa => some (entryFor (.site (s.siteOf core)) 1 1 (s.stackDest pa))
  | .dma core pa toCore =>
    some (if toCore then s.fromStack core pa 4 4 else entryFor (.site (s.siteOf core)) 4 4 (s.stackDest pa))
  | .dmaCore core other out => some (s.coreRow core other out)
  | .image core unit restore =>
    (if restore then (s.core core).next.getD none else (s.core core).res).map fun t =>
      let pa := s.saveAt core t + 256 * unit
      if restore then s.fromStack core pa 5 4 else entryFor (.site (s.siteOf core)) 5 4 (s.stackDest pa)
  | .hostData n q pa =>
    (s.host.cmds.find? fun c => c.session == n && c.seq == q && (c.phase == .atDispatch || c.phase == .started) &&
      decide (3 ≤ leNat (c.bytes.take 1) ∧ leNat (c.bytes.take 1) ≤ 4)).map fun c => s.hostEntry c pa
  | .collData e pa toStack => some (collEntry e pa toStack)
  | .other ch _ src dst flits => some (entryFor src (ch % 6) (max 1 (min 4 flits)) (s.byRule src dst))

/-- What sends messages of the control plane, as R241 counts nodes: the core and router of a site, a block of the ring, or a
stop itself. -/
inductive Block where
  | site (n : Nat)
  | stop (n : Nat)
  | bank (b : Nat)
  | flume (eng : Nat)
  | coll (e : Nat)
  | stack (st : Nat)
  | port (p : Nat)
  | lookout | power | boot | config
  deriving DecidableEq, Repr

/-- The node of a block (Table 9.4). -/
def Block.node : Block → Node
  | .site n => .site n
  | .stop n => .stop n
  | .bank b => .stop (bankStop b)
  | .flume e => .stop (engStop e)
  | .coll e => .stop (collStop e)
  | .stack st => .stop ((stackStops st).headD 0)
  | .port p => .stop (portStop p)
  | .lookout => .stop 10
  | .power => .stop 11
  | .boot => .stop 20
  | .config => .stop configStop

/-- The block of a waiter. -/
def State.waiterBlock (s : State) : Waiter → Block
  | .stream i => .site (s.siteOf i.core)
  | .dma c => .site (s.siteOf c)
  | .flume e _ => .flume e
  | .coll e _ _ => .coll e

/-- The node of a waiter (Table 9.4). -/
def State.waiterNode (s : State) (w : Waiter) : Node := (s.waiterBlock w).node

/-- The block from which an operation comes: a peer's from the port that received it, a Flume request's signal from its
destination core (R217). -/
def State.senderBlock (s : State) : SyncFrom → Block
  | .waiter w => s.waiterBlock w
  | .session _ => .config
  | .peer _ _ p => .port p
  | .engine kind id =>
    if kind = 1 then .site (s.siteOf (id % 1024))
    else if kind = 2 then .flume id
    else if kind = 3 then .coll id
    else if kind = 4 then .stack id
    else .lookout
  | .flume _ c => .site (s.siteOf c)

/-- The node from which an operation comes. -/
def State.senderNode (s : State) (o : SyncFrom) : Node := (s.senderBlock o).node

/-- The block from which a fault record comes, by its SOURCE (Table 12.9); the loss of a peer comes from what is common to
the ports (log entry 92). -/
def State.faultBlock (s : State) (r : FaultRec) : Block :=
  match r.source with
  | 0 => .site (s.siteOf (r.engine % 1024))
  | 1 => .site (s.siteOf (r.engine % 1024))
  | 2 => .flume r.engine
  | 3 => .coll r.engine
  | 4 => .stack (r.addr / 2 ^ 36)
  | 5 => .bank (r.addr % 262144 / 8192)
  | _ => .config

/-- The block from which a non-finite notice comes (R348). -/
def State.noticeBlock (s : State) : NfSource → Block
  | .stream i => .site (s.siteOf i.core)
  | .accEngine st => .stack st
  | .collEngine e _ => .coll e

/-- The tenancy of a source's notice that no add of Lookout is on its way for (R348). -/
def State.openNotice (s : State) (src : NfSource) : Option Nat :=
  if s.sync.ops.any fun o => o.ack == some src then none
  else match src with
    | .stream i => if (s.core i.core).res.isSome && s.notice i then some (s.tenOf i.core) else none
    | .accEngine st => SMap.get? s.accNotices.out st
    | .collEngine e t => if SMap.get? s.fab.notices e = some t then some t else none

/-- Where a message goes from a node to a ring stop. -/
def State.toStop (s : State) (d : Node) (stop : Nat) : Dest :=
  match d with
  | .site n => s.blockDest n stop
  | .stop _ => .ring [stop] 640

/-- The block that holds a register (Tables 9.4 and 18.1); what Table 9.4 does not name, and what is common to the ports, to
the banks or to the routers, stands with the configuration block (log entry 92). -/
def State.regBlock (s : State) (off : Nat) : Block :=
  let lo := off % 0x100_0000
  if 0x1000_0000 ≤ off then .site (s.siteOf ((off - 0x1000_0000) / 0x1_0000))
  else match off / 0x100_0000 with
    | 1 => .boot
    | 2 => if 0x100 ≤ lo ∧ lo < 0x180 then .port (12 + lo / 8 % 2) else .config
    | 3 =>
      if 0x1000 ≤ lo ∧ lo < 0x1400 then .coll ((lo - 0x1000) / 0x100)
      else if 0x100 ≤ lo ∧ lo < 0x300 ∧ lo % 0x80 < 0x60 then .port (lo % 0x80 / 8)
      else .config
    | 4 => .stack (lo / 0x10_0000)
    | 5 =>
      if 0x40_0000 ≤ lo ∧ lo < 0x80_0000 then .bank ((lo - 0x40_0000) / 16 / 8192)
      else if 0x100 ≤ lo ∧ lo < 0x200 then .bank ((lo - 0x100) / 8)
      else .config
    | 6 => .lookout
    | 7 => .power
    | _ => .config

/-- The node of the block that holds a register; a stack's by its stop that is nearer. -/
def State.blockNode (s : State) (off : Nat) : Node :=
  match s.regBlock off with
  | .stack st => .stop (nearestStop configStop (stackStops st))
  | b => b.node

/-- The register that a host's configuration command names. -/
def HostCmd.regOff (c : HostCmd) : Nat := leNat ((c.bytes.drop 16).take 8) % 2 ^ 32

/-- The block that sends the message of a configuration command: its request, or its answer (R314). -/
def State.cmdBlock (s : State) (c : HostCmd) : Block := if c.phase = .done then s.regBlock c.regOff else .config

/-- A message of the control plane as it enters. -/
def State.msgEntry (s : State) : Msg → Option Entry
  | .sync id =>
    (s.sync.ops.find? fun o => o.id == id).map fun o =>
      let d := s.senderNode o.src
      entryFor d 7 1 (s.toStop d (bankStop (o.obj / 8192)))
  | .wake id =>
    let ws := s.sync.wakes.filter fun w => w.id == id
    ws.head?.map fun w =>
      let d : Node := .stop (bankStop (w.obj / 8192))
      match s.waiterNode w.waiter with
      | .stop t => entryFor d 7 1 (.ring [t] 640)
      | .site _ => { node := d, ch := 7, flits := 1, dsts := ws.filterMap fun x =>
          match s.waiterNode x.waiter with
          | .site n => some n
          | .stop _ => none }
  | .mark id =>
    (s.tally.msgs.find? fun m => m.id == id).map fun m =>
      entryFor (.site (s.siteOf m.src.core)) 7 1 (s.unitDest m.stack 2)
  | .config n q =>
    (s.host.cmds.find? fun c => c.session == n && c.seq == q && c.msg != 0).map fun c =>
      let block := s.blockNode c.regOff
      if c.phase = .done then entryFor block 7 1 (s.toStop block configStop)
      else match block with
        | .site x => entryFor (.stop configStop) 7 1 (.site x)
        | .stop t => entryFor (.stop configStop) 7 1 (.ring [t] 640)
  | .rmt core => some (entryFor (.site (s.siteOf core)) 7 1 (s.blockDest (s.siteOf core) (collStop 0)))
  | .fault id =>
    (s.noc.faults.find? fun m => m.id == id).map fun m =>
      let d := (s.faultBlock m.record).node
      entryFor d 7 1 (s.toStop d configStop)
  | .notice src =>
    (s.openNotice src).map fun _ =>
      let d := (s.noticeBlock src).node
      entryFor d 7 1 (s.toStop d 10)
  | .other _ src dst => some (entryFor src 7 1 (s.byRule src dst))

/-! ### The limit of the control plane (R241) -/

/-- Messages that a node, the router of a site or a block of the ring, may have in the control plane at once. -/
def planeLimit : Nat := 16

/-- The block that sends a message. -/
def State.msgBlock (s : State) : Msg → Option Block
  | .sync id => (s.sync.ops.find? fun o => o.id == id).map fun o => s.senderBlock o.src
  | .wake id => (s.sync.wakes.find? fun w => w.id == id).map fun w => .bank (w.obj / 8192)
  | .mark id => (s.tally.msgs.find? fun m => m.id == id).map fun m => .site (s.siteOf m.src.core)
  | .config n q => (s.host.cmds.find? fun c => c.session == n && c.seq == q && c.msg != 0).map s.cmdBlock
  | .rmt core => some (.site (s.siteOf core))
  | .fault id => (s.noc.faults.find? fun m => m.id == id).map fun m => s.faultBlock m.record
  | .notice src => some (s.noticeBlock src)
  | .other _ src _ => some (match src with
    | .site n => .site n
    | .stop n => .stop n)

/-- The messages of a block that are on their way, of every kind, by identity: the wakes of one column or stop are one. Those
that the state names by their sender alone count once they have entered the network. -/
def State.planeIds (s : State) (b : Block) : List Nat :=
  ((s.sync.ops.filter fun o => s.senderBlock o.src == b).map SyncOp.id) ++
  ((s.sync.wakes.filter fun w => Block.bank (w.obj / 8192) == b).map SyncWakeMsg.id).eraseDups ++
  ((s.tally.msgs.filter fun m => Block.site (s.siteOf m.src.core) == b).map MarkMsg.id) ++
  ((s.host.cmds.filter fun c => c.msg != 0 && s.cmdBlock c == b).map HostCmd.msg) ++
  ((s.noc.faults.filter fun m => s.faultBlock m.record == b).map FaultMsg.id) ++
  (s.noc.packets.filterMap fun p => match p.cargo with
    | .control (.rmt c) => if s.msgBlock (.rmt c) = some b then some p.id else none
    | .control (.notice x) => if s.msgBlock (.notice x) = some b then some p.id else none
    | .control (.other k x y) => if s.msgBlock (.other k x y) = some b then some p.id else none
    | _ => none)

/-- The identity of a message: one that the state names by its sender alone, and that has not entered, comes after all. -/
def State.msgId (s : State) (m : Msg) : Nat :=
  let entered := (s.noc.packets.find? fun p => p.cargo == .control m).map NetPacket.id
  match m with
  | .sync id => id
  | .wake id => id
  | .mark id => id
  | .config n q => ((s.host.cmds.find? fun c => c.session == n && c.seq == q).map HostCmd.msg).getD 0
  | .fault id => id
  | .rmt _ => entered.getD s.noc.nextId
  | .notice _ => entered.getD s.noc.nextId
  | .other _ _ _ => entered.getD s.noc.nextId

/-- Has the control plane accepted a message: has its block fewer than 16 that were sent before it (R241)? -/
def State.accepted (s : State) (m : Msg) : Bool :=
  match s.msgBlock m with
  | some b => decide (((s.planeIds b).filter fun k => decide (k < s.msgId m)).length < planeLimit)
  | none => true

/-- Does a further message of a core wait before the control plane accepts it? -/
def State.planeFull (s : State) (core : Nat) : Bool :=
  decide (planeLimit ≤ (s.planeIds (.site (s.siteOf core))).length)

/-! ### Buffers and credits (R235, R237) -/

/-- Flit buffers of an input port for a channel; how many the control plane has is not given. -/
def bufferDepth (ch : Nat) : Nat := if ch = 7 then 1 + Config.controlBuffers else 4

/-- Flits of a packet that its input port still holds: one is freed only when every copy of it has left (R244). -/
def Branch.held (b : Branch) : Nat := b.came - b.legs.foldl (fun m l => min m l.sent) b.came

/-- A packet in the network. -/
def NocState.packet (x : NocState) (id : Nat) : Option NetPacket := x.packets.find? fun p => p.id == id

/-- The channel of a packet. -/
def NocState.chOf (x : NocState) (id : Nat) : Nat := ((x.packet id).map NetPacket.ch).getD 0

/-- Buffers in use at an input port for a channel. -/
def NocState.inUse (x : NocState) (node port ch : Nat) : Nat :=
  ((x.branches.filter fun b => b.node == node && b.port == port && x.chOf b.id == ch).map Branch.held).foldl (· + ·) 0

/-- Is there a credit for a flit of the channel at an output? A destination takes what reaches it. -/
def State.credit (s : State) (d : Node) (o : OutPort) (ch : Nat) : Bool :=
  match s.nextNode d o with
  | some (n, p) => decide (s.noc.inUse (nodeKey n) p ch < bufferDepth ch)
  | none => true

/-- Flits of a packet that a core's engine injects: a request of an access is one, a delivery or a row of DMA is 256 bytes.
-/
def injectFlits (ch : Nat) : Nat := if ch = 1 then 1 else 4

/-- Flits that wait at a core's local port for a channel and have not entered: of its deliveries, which have retired. -/
def State.atPort (s : State) (core ch : Nat) : Nat :=
  if ch = 3 then
    injectFlits ch * (s.accMsgs.filter fun d => d.origin == s.siteOf core &&
      !s.noc.packets.any fun p => p.cargo == .data (.acc d.id)).length
  else 0

/-- Can a core's engine inject a packet on a channel at its local port: have the buffers room for all its flits, beside those
that wait there (R237, R238)? -/
def State.canInject (s : State) (core ch : Nat) : Bool :=
  decide (s.noc.inUse (s.siteOf core) 0 ch + s.atPort core ch + injectFlits ch ≤ bufferDepth ch)

/-! ### Arbitration (R238) -/

/-- Guaranteed cycles per frame (Table 9.2). -/
def guarantee (ch : Nat) : Nat := [4, 3, 3, 2, 2, 2].getD ch 0

/-- Channels by priority for spare cycles. -/
def spareOrder : List Nat := [0, 2, 1, 3, 4, 5]

/-- Has a packet a flit at a node that may leave by an output? -/
def Branch.ready (b : Branch) (node : Nat) (o : OutPort) : Bool :=
  b.node == node && b.legs.any fun l => l.out == o && decide (l.sent < b.came)

/-- Is a packet part-way through an output? -/
def NocState.partWay (x : NocState) (b : Branch) (node : Nat) (o : OutPort) : Bool :=
  b.node == node && b.legs.any fun l => l.out == o && decide (0 < l.sent) &&
    decide (l.sent < ((x.packet b.id).map NetPacket.flits).getD 0)

/-- Has a Boom delivery in the network still to be treated by the router it has come to, or is it held there (R247)? -/
def State.untreated (s : State) (d : Node) : Cargo → Bool
  | .data (.acc id) =>
    match d with
    | .site n => s.accMsgs.any fun x => x.id == id && x.ctx != 0 && (x.passedAt != some n || x.heldAt.isSome)
    | .stop _ => false
  | _ => false

/-- May a copy of a packet leave a node by an output, as far as the node's Boom contexts let it? -/
def State.mayLeave (s : State) (b : Branch) (d : Node) (o : OutPort) : Bool :=
  b.ready (nodeKey d) o && !(s.noc.packet b.id).any fun p => s.untreated d p.cargo

/-- The copy of a packet of a channel whose flit leaves an output next: the one that keeps it, or else the oldest (R238). -/
def State.turn (s : State) (d : Node) (o : OutPort) (ch : Nat) : Option Branch :=
  let bs := s.noc.branches.filter fun b => s.noc.chOf b.id == ch
  match bs.find? fun b => s.noc.partWay b (nodeKey d) o with
  | some b => if b.ready (nodeKey d) o then some b else none
  | none =>
    (bs.filter fun b => s.mayLeave b d o).foldl (fun m b => match m with
      | none => some b
      | some a => if b.id < a.id then some b else some a) none

/-- Has a channel a flit eligible to leave an output? -/
def State.eligible (s : State) (d : Node) (o : OutPort) (ch : Nat) : Bool :=
  (s.turn d o ch).isSome && s.credit d o ch

/-- An output by number. -/
def outKey (node : Nat) (o : OutPort) : Nat :=
  16 * node + (match o with
    | .ringCw => 10
    | .ringCcw => 11
    | .block => 12
    | o => outCode o)

/-- The cycles of the present frame of an output that their owners' guarantees have used; a full frame begins anew. -/
def NocState.frame (x : NocState) (k : Nat) : List Nat :=
  let f := SMap.get [0, 0, 0, 0, 0, 0] x.frames k
  if f.foldl (· + ·) 0 < 16 then f else [0, 0, 0, 0, 0, 0]

/-- The owner of the cycle in which a flit of a channel leaves: the channel itself while it has guaranteed cycles left in
the frame; else a channel with cycles left and no eligible flit, where this one is first in priority of the eligible. In
which order a frame's cycles stand is not given. -/
def State.cycleOwner (s : State) (d : Node) (o : OutPort) (ch : Nat) : Option Nat :=
  let f := s.noc.frame (outKey (nodeKey d) o)
  if f.getD ch 0 < guarantee ch then some ch
  else if spareOrder.find? (s.eligible d o) = some ch then
    (List.range 6).find? fun c => decide (f.getD c 0 < guarantee c) && !s.eligible d o c
  else none

/-- A cycle of a frame used. -/
def NocState.useCycle (x : NocState) (k owner : Nat) : NocState :=
  let f := x.frame k
  { x with frames := SMap.put x.frames k (f.set owner (f.getD owner 0 + 1)) }

/-! ### Flits (R235, R237, R244) -/

/-- The output by which a packet leaves its source. -/
def State.firstOut (s : State) (e : Entry) : OutPort := ((s.legsAt e.node e.exit e.spur e.dsts).head?.map Leg.out).getD .local

/-- A packet stands at its source with all its flits. -/
def State.putPacket (s : State) (c : Cargo) (e : Entry) : State :=
  let id := s.noc.nextId
  { s with noc := { s.noc with
    nextId := id + 1
    packets := s.noc.packets ++ [{ id := id, cargo := c, ch := e.ch, flits := e.flits, exit := e.exit, spur := e.spur }]
    branches := s.noc.branches ++ [{ id := id, node := nodeKey e.node, port := e.port, dsts := e.dsts, came := e.flits,
                                     legs := s.legsAt e.node e.exit e.spur e.dsts }] } }

/-- A packet enters at its source, where its input buffers hold all its flits. -/
def State.inject (s : State) (c : Cargo) (e : Entry) : Option State :=
  if s.noc.inUse (nodeKey e.node) e.port e.ch + e.flits ≤ bufferDepth e.ch ∧ s.nodeUp e.node = true then some (s.putPacket c e)
  else none

/-- The packet that carries something. -/
def NocState.carrier (x : NocState) (c : Cargo) : Option NetPacket := x.packets.find? fun p => p.cargo == c

/-- The state in which what a command moves is in the network: as it is, or entered at its source; a message enters once
the control plane has accepted it (R241). -/
def State.entered (s : State) (c : Cargo) (e : Option Entry) (d : Node) : Option State :=
  let open_ : Bool := match c with
    | .control m => s.accepted m
    | .data _ => true
  match s.noc.carrier c, e with
  | some _, _ => some s
  | none, some e => if e.node = d ∧ open_ = true then s.inject c e else none
  | none, none => none

/-- A branch with one more flit sent by an output. -/
def Branch.send (b : Branch) (o : OutPort) : Branch :=
  { b with legs := b.legs.map fun l => if l.out = o then { l with sent := l.sent + 1 } else l }

/-- Is every copy of a packet gone from an input port? -/
def Branch.spent (b : Branch) (flits : Nat) : Bool := b.legs.all fun l => decide (flits ≤ l.sent)

/-- A flit of the copy for some sites comes to an input port. -/
def State.flitComes (s : State) (p : NetPacket) (n : Node) (port : Nat) (dsts : List Nat) : State :=
  let bs := s.noc.branches
  let same (b : Branch) : Bool := b.id == p.id && b.node == nodeKey n && b.port == port && b.dsts == dsts
  let bs :=
    if bs.any same then bs.map fun b => if same b then { b with came := b.came + 1 } else b
    else bs ++ [({ id := p.id, node := nodeKey n, port := port, dsts := dsts, came := 1, legs := s.legsAt n p.exit p.spur dsts } : Branch)]
  { s with noc := { s.noc with branches := bs } }

/-- Does the state hold, until it arrives, what the packet carries? -/
def Cargo.lasts : Cargo → Bool
  | .data (.acc _) => true
  | .data (.flume _ _ _) => true
  | .control (.sync _) => true
  | .control (.wake _) => true
  | .control (.mark _) => true
  | .control (.fault _) => true
  | .control (.notice _) => true
  | _ => false

/-- A packet of which nothing is left on the way leaves the network; one whose cargo has still to arrive stands there
without a flit. -/
def NocState.sweep (x : NocState) (id : Nat) : NocState :=
  if x.branches.any fun b => b.id == id then x
  else { x with packets := x.packets.filter fun p => p.id != id || p.cargo.lasts }

/-- One flit of a packet leaves a node by an output. -/
def State.moveFlit (s : State) (p : NetPacket) (b : Branch) (d : Node) (o : OutPort) : State :=
  let dsts := ((b.legs.find? fun l => l.out == o).map Leg.dsts).getD []
  let b' := b.send o
  let last := decide (((b'.legs.find? fun l => l.out == o).map Leg.sent).getD 0 = p.flits)
  let s := { s with noc := { s.noc with branches :=
    (s.noc.branches.map fun x => if x = b then b' else x).filter fun x =>
      !(x.id == p.id && x.node == b.node && x.spent p.flits) } }
  match s.nextNode d o with
  | some (n, port) => s.flitComes p n port dsts
  | none =>
    let s := if last then { s with noc := { s.noc with packets := s.noc.packets.map fun x =>
        if x.id = p.id then { x with done := dsts.foldl NSet.add x.done } else x } } else s
    { s with noc := s.noc.sweep p.id }

/-- What a hop finds: it cannot be, its flit waits for a credit, or it leaves with the cycle of a channel. -/
inductive Hop where
  | no
  | blocked
  | go (p : NetPacket) (b : Branch) (owner : Nat)

/-- The hop of a packet from a node by an output, judged (R237, R238). -/
def State.hop (s : State) (c : Cargo) (d : Node) (o : OutPort) : Hop :=
  match s.noc.carrier c with
  | none => .no
  | some p =>
    match s.turn d o p.ch with
    | none => .no
    | some b =>
      if b.id ≠ p.id then .no
      else if !s.credit d o p.ch then .blocked
      else if p.ch = 7 then .go p b 0
      else match s.cycleOwner d o p.ch with
        | some w => .go p b w
        | none => .no

/-- What travels in the network and has not come to a site, or to its block: what it carries has not arrived. -/
def State.onWay (s : State) (c : Cargo) (site : Option Nat) : Bool :=
  match s.noc.carrier c, site with
  | some p, some n => !NSet.has p.done n
  | some p, none => s.noc.branches.any fun b => b.id == p.id
  | none, _ => false

/-- A packet taken out of the network with all its flits. -/
def State.takeOut (s : State) (c : Cargo) : State :=
  match s.noc.carrier c with
  | some p => { s with noc := { s.noc with
      packets := s.noc.packets.filter fun x => x.id != p.id, branches := s.noc.branches.filter fun b => b.id != p.id } }
  | none => s

/-- A delivery sent on its way as a new packet. -/
def State.sendAcc (s : State) (d : AccDelivery) : State :=
  { s with accMsgs := s.accMsgs ++ [{ d with id := s.noc.nextId }], noc := { s.noc with nextId := s.noc.nextId + 1 } }

/-! ### Halted nodes (R236) -/

/-- The nodes that a packet passes, within `k` hops: the copy of a multicast that comes to `site`. -/
def State.pathFrom (s : State) (exit : Option (List Nat × Nat)) (spur : Option Nat) (site : Option Nat) :
    List Nat → Nat → Node → List Node
  | _, 0, d => [d]
  | dsts, k + 1, d =>
    let ls : List Leg := s.legsAt d exit spur dsts
    match (match site with
      | some n => ls.find? fun (l : Leg) => l.dsts.contains n
      | none => ls.head?) with
    | some l =>
      match s.nextNode d l.out with
      | some (n, _) => d :: s.pathFrom exit spur site l.dsts k n
      | none => [d]
    | none => [d]

/-- Does every node on the way of a packet, or of its copy that comes to a site, forward? -/
def State.wayUp (s : State) (e : Entry) (site : Option Nat := none) : Bool :=
  s.noc.halted.isEmpty || (s.pathFrom e.exit e.spur site e.dsts 720 e.node).all s.nodeUp

/-- Does a halted node keep what a command moves from its destination, of a multicast from one of its sites? -/
def State.cut (s : State) (e : Option Entry) (site : Option Nat := none) : Bool := e.any fun e => !s.wayUp e site

/-- Is a core cut off from a stack, in either direction, by a halted node? -/
def State.cutOff (s : State) (core pa : Nat) : Bool :=
  !s.wayUp (entryFor (.site (s.siteOf core)) 1 1 (s.stackDest pa)) || !s.wayUp (s.fromStack core pa 0 1)

/-- Is a core cut off, for some of the 256-byte units that hold `n` bytes at an address? -/
def State.cutOffAny (s : State) (core pa n : Nat) : Bool :=
  !s.noc.halted.isEmpty && (unitsOf 256 pa n).any fun u => s.cutOff core (256 * u)

/-- Is a block of the ring cut off from a stack, in either direction, by a halted node? -/
def State.stopCut (s : State) (t pa : Nat) : Bool :=
  let stops := stackStops (pa / 2 ^ 36)
  !s.wayUp (entryFor (.stop t) 1 1 (.ring stops 640)) ||
    !s.wayUp (entryFor (.stop (nearestStop t stops)) 0 1 (.ring [t] 640))

/-- Is what the host block reads held at its stack, or cut off (R176, R236; log entry 92)? -/
def State.hostHeld (s : State) (pa : Nat) : Bool := s.memHeld pa || s.stopCut configStop pa

/-! ### Fault notices (Table 9.1, R318) -/

/-- Can a fault record not be at the host block: one of the same block is before it, the control plane has not accepted it,
it still travels, or a halted node cuts it off (R32, R236, R241)? -/
def State.faultWaits (s : State) (m : FaultMsg) : Bool :=
  (s.noc.faults.any fun x => decide (x.id < m.id) && s.faultBlock x.record == s.faultBlock m.record) ||
  !s.accepted (.fault m.id) || s.onWay (.control (.fault m.id)) none || s.cut (s.msgEntry (.fault m.id))

/-- The fault records that can be at the host block are there: in a tick, and before events leave (DEDUCED, log entry
158). -/
def State.takeFaults (s : State) : State :=
  s.noc.faults.foldl (fun (s : State) m =>
    if s.faultWaits m then s
    else (({ s with noc := { s.noc with faults := s.noc.faults.filter fun x => x.id != m.id } } : State).takeOut
      (.control (.fault m.id))).queueFault m.record) s

/-! ### Requests of a core -/

/-- What holds back a request of a stream for an address: its stack or a halted node on its way, the tracker, or the
core's local port (R96, R176, R187, R236, R238). -/
def State.requestHeld (s : State) (i : At) (pa : Nat) : Option Cause :=
  if s.memHeld pa || s.cutOff i.core pa || !s.trackFree i then some .memLimit
  else if !s.canInject i.core 1 then some .nocBp
  else none

end Sys2Proof.Machine
end

