-- ==== Sys2Proof/Machine/Float.lean ====
section
/-! DEFINITION. Number formats: decoding to exact values, rounding, conversion and block scaling, by chapter 2
(R37–R59). A finite value is held exactly, as a natural magnitude times a power of two. -/

namespace Sys2Proof

/-- The formats of Table 2.2. -/
inductive Fmt where
  | fp32 | bf16 | fp16 | e4m3 | e5m2 | e3m2 | e2m1 | int8 | int32
  | mxe4m3 | mxe5m2 | mxe3m2 | mxe2m1
  deriving DecidableEq, Repr

/-- The format a code of Table 2.2 names; reserved codes name none (R39). -/
def Fmt.ofCode : Nat → Option Fmt
  | 0x0 => some .fp32
  | 0x1 => some .bf16
  | 0x2 => some .fp16
  | 0x3 => some .e4m3
  | 0x4 => some .e5m2
  | 0x5 => some .e3m2
  | 0x6 => some .e2m1
  | 0x7 => some .int8
  | 0x8 => some .int32
  | 0xB => some .mxe4m3
  | 0xC => some .mxe5m2
  | 0xD => some .mxe3m2
  | 0xE => some .mxe2m1
  | _ => none

/-- Bits of one element (Table 2.1). -/
def Fmt.width : Fmt → Nat
  | .fp32 | .int32 => 32
  | .bf16 | .fp16 => 16
  | .e4m3 | .e5m2 | .int8 | .mxe4m3 | .mxe5m2 => 8
  | .e3m2 | .mxe3m2 => 6
  | .e2m1 | .mxe2m1 => 4

/-- The lanes of a 256-byte register in an arithmetic format (Table 3.7b). -/
def Fmt.lanes (f : Fmt) : Nat := 2048 / f.width

/-- Bytes of a lane. -/
def Fmt.laneBytes (f : Fmt) : Nat := f.width / 8

/-- The element format of a block-scaled format; any other format is its own (R42). -/
def Fmt.element : Fmt → Fmt
  | .mxe4m3 => .e4m3
  | .mxe5m2 => .e5m2
  | .mxe3m2 => .e3m2
  | .mxe2m1 => .e2m1
  | f => f

/-- Is the format block-scaled? -/
def Fmt.isMx (f : Fmt) : Bool := decide (f.element ≠ f)

/-- Is the format one of the two integer formats? -/
def Fmt.isInt : Fmt → Bool
  | .int8 | .int32 => true
  | _ => false

/-- FP32, BF16 and FP16: the formats whose subnormals fast mode flushes (R47). -/
def Fmt.isWide : Fmt → Bool
  | .fp32 | .bf16 | .fp16 => true
  | _ => false

/-- Exponent field bits (Table 2.1). -/
def Fmt.ebits (f : Fmt) : Nat :=
  match f.element with
  | .fp32 | .bf16 => 8
  | .fp16 | .e5m2 => 5
  | .e4m3 => 4
  | .e3m2 => 3
  | .e2m1 => 2
  | _ => 0

/-- Fraction field bits (Table 2.1). -/
def Fmt.fbits (f : Fmt) : Nat :=
  match f.element with
  | .fp32 => 23
  | .bf16 => 7
  | .fp16 => 10
  | .e4m3 => 3
  | .e5m2 | .e3m2 => 2
  | .e2m1 => 1
  | _ => 0

/-- Exponent bias (Table 2.1). -/
def Fmt.bias (f : Fmt) : Nat :=
  match f.element with
  | .fp32 | .bf16 => 127
  | .fp16 | .e5m2 => 15
  | .e4m3 => 7
  | .e3m2 => 3
  | .e2m1 => 1
  | _ => 0

/-- Formats with infinities (Table 2.1). -/
def Fmt.hasInf (f : Fmt) : Bool :=
  match f.element with
  | .fp32 | .bf16 | .fp16 | .e5m2 => true
  | _ => false

/-- The pattern, without sign, of the largest finite value (Table 2.1). -/
def Fmt.maxPat (f : Fmt) : Nat :=
  match f.element with
  | .e4m3 => 0x7E
  | .e3m2 => 0x1F
  | .e2m1 => 0x7
  | g => (2 ^ g.ebits - 1) * 2 ^ g.fbits - 1

/-- The exponent of the least significant bit of a subnormal. -/
def Fmt.emin (f : Fmt) : Int := 1 - (f.bias : Int) - (f.fbits : Int)

/-- The canonical quiet NaN (R38). -/
def Fmt.canonicalNan (f : Fmt) : Nat :=
  match f.element with
  | .fp32 => 0x7FC00000
  | .bf16 => 0x7FC0
  | .fp16 => 0x7E00
  | .e5m2 => 0x7E
  | .e4m3 => 0x7F
  | _ => 0

/-- An exact value. A NaN carries its sign and its fraction, aligned to 23 bits, or nothing (Table 2.7). -/
inductive FVal where
  | nan (neg : Bool) (payload : Option Nat)
  | inf (neg : Bool)
  | fin (neg : Bool) (m : Nat) (e : Int)
  deriving DecidableEq, Repr

namespace FVal

/-- The canonical NaN. -/
def canonical : FVal := .nan false none

/-- Zero of a sign. -/
def zero (neg : Bool) : FVal := .fin neg 0 0

/-- Is it NaN? -/
def isNan : FVal → Bool
  | .nan _ _ => true
  | _ => false

/-- Is it an infinity? -/
def isInf : FVal → Bool
  | .inf _ => true
  | _ => false

/-- The sign. -/
def neg? : FVal → Bool
  | .nan n _ => n
  | .inf n => n
  | .fin n _ _ => n

/-- The value with its sign changed. -/
def negate : FVal → FVal
  | .nan n p => .nan n p
  | .inf n => .inf (!n)
  | .fin n m e => .fin (!n) m e

/-- The magnitude. -/
def abs : FVal → FVal
  | .nan n p => .nan n p
  | .inf _ => .inf false
  | .fin _ m e => .fin false m e

/-- Is it zero? -/
def isZero : FVal → Bool
  | .fin _ m _ => m == 0
  | _ => false

end FVal

/-- The exact value of a bit pattern of a format other than the integers (R37). -/
def decodeFloat (f : Fmt) (w : Nat) : FVal :=
  let neg := bit (f.width - 1) w
  let ex := bits (f.width - 2) f.fbits w
  let fr := w % 2 ^ f.fbits
  let top := 2 ^ f.ebits - 1
  if f.hasInf && ex == top then
    if fr == 0 then .inf neg else .nan neg (some (fr * 2 ^ (23 - f.fbits)))
  else if f.element == .e4m3 && ex == top && fr == 7 then .nan neg none
  else if ex == 0 then .fin neg fr f.emin
  else .fin neg (fr + 2 ^ f.fbits) (f.emin + (ex : Int) - 1)

/-- The signed value of a two's-complement pattern of `w` bits. -/
def signedOf (w : Nat) (x : Nat) : Int :=
  let y := x % 2 ^ w
  if y < 2 ^ (w - 1) then (y : Int) else (y : Int) - 2 ^ w

/-- An integer as an exact value. -/
def FVal.ofInt (i : Int) : FVal := .fin (decide (i < 0)) i.natAbs 0

/-- The exact value of an element of any format that is not block-scaled (R37). -/
def decodeElement (f : Fmt) (w : Nat) : FVal :=
  if f.isInt then FVal.ofInt (signedOf f.width w) else decodeFloat f w

/-- Is a finite value, taken as an element of `f`, below the smallest normal of `f` (Table 2.7)? -/
def belowNormal (f : Fmt) : FVal → Bool
  | .fin _ m e => decide (m * 2 ^ (e - f.emin).toNat < 2 ^ (f.fbits + (f.emin - e).toNat))
  | _ => false

/-- An input operand under the captured mode: fast mode reads subnormals of FP32, BF16 and FP16 as zero of
the same sign (R47). -/
def readElement (strict : Bool) (f : Fmt) (w : Nat) : FVal :=
  let v := decodeElement f w
  if !strict && f.isWide && belowNormal f v then FVal.zero v.neg? else v

/-- How a narrowing rounds (R54): to nearest even, toward zero, or stochastically with the drawn integer. -/
inductive RMode where
  | rne
  | rtz
  | sr (rho : Nat)
  deriving DecidableEq, Repr

/-- A magnitude `m × 2^e`, with something less than one unit of `m` more where `sticky`, rounded to a multiple
of the spacing that a format of `fbits` fraction bits and least exponent `emin` has there: the multiple and
the exponent of the spacing (R54, R55). -/
def roundMag (fbits : Nat) (emin : Int) (mode : RMode) (m : Nat) (e : Int) (sticky : Bool) : Nat × Int :=
  if m = 0 then (0, emin)
  else
    let q : Int := max ((Nat.log2 m : Int) + e - (fbits : Int)) emin
    if q ≤ e then (m * 2 ^ (e - q).toNat, q)
    else
      let sh := (q - e).toNat
      let t := m >>> sh
      let r := m % 2 ^ sh
      let up : Bool := match mode with
        | .rtz => false
        | .rne => decide (2 ^ (sh - 1) < r) || (decide (r = 2 ^ (sh - 1)) && (sticky || t % 2 == 1))
        | .sr rho => decide (65536 ≤ (r * 65536) / 2 ^ sh + rho % 65536)
      (if up then t + 1 else t, q)

/-- The pattern, without sign, of a rounded magnitude; beyond the largest finite pattern it stands for overflow. -/
def encodeMag (f : Fmt) (tq : Nat × Int) : Nat :=
  if tq.1 = 0 then 0 else (tq.2 - f.emin).toNat * 2 ^ f.fbits + tq.1

/-- The sign bit of a format in place. -/
def signBit (f : Fmt) (neg : Bool) : Nat := if neg then 2 ^ (f.width - 1) else 0

/-- The controls of a stream's narrowing conversions (Table 2.6). -/
structure Ctl where
  strict : Bool
  rmode : RMode
  e4m3Ovf : Bool
  e5m2Sat : Bool
  deriving DecidableEq, Repr

/-- An element written: its bits, and whether R58 counts it as a non-finite event. -/
structure Elt where
  bits : Nat
  nf : Bool
  deriving DecidableEq, Repr

/-- A NaN written to a format with NaNs (R38, R57). -/
def encodeNan (strict : Bool) (f : Fmt) (neg : Bool) (payload : Option Nat) : Nat :=
  match f, payload with
  | .fp32, some p => if strict then signBit .fp32 neg + 0x7FC00000 + p % 2 ^ 22 else 0x7FC00000
  | .bf16, some p => if strict then signBit .bf16 neg + 0x7FC0 + (p / 2 ^ 16) % 2 ^ 6 else 0x7FC0
  | .fp16, some p => if strict then signBit .fp16 neg + 0x7E00 + (p / 2 ^ 13) % 2 ^ 9 else 0x7E00
  | _, _ => f.canonicalNan

/-- The overflow and infinity result of E4M3 under E4M3_OVF (Table 2.8). -/
def e4m3Over (ovf : Bool) (neg : Bool) : Elt :=
  ⟨signBit .e4m3 neg + (if ovf then 0x7F else 0x7E), ovf⟩

/-- A finite overflow (Table 2.8). -/
def overflowTo (c : Ctl) (f : Fmt) (mode : RMode) (neg : Bool) : Elt :=
  match f with
  | .e4m3 => if mode = .rtz then ⟨signBit f neg + f.maxPat, false⟩ else e4m3Over c.e4m3Ovf neg
  | .e5m2 =>
    if c.e5m2Sat || mode = .rtz then ⟨signBit f neg + f.maxPat, false⟩
    else ⟨signBit f neg + 0x7C, true⟩
  | .fp32 | .bf16 | .fp16 =>
    if mode = .rtz then ⟨signBit f neg + f.maxPat, false⟩ else ⟨signBit f neg + f.maxPat + 1, true⟩
  | _ => ⟨signBit f neg + f.maxPat, false⟩

/-- An infinity converted (Table 2.8). -/
def infinityTo (c : Ctl) (f : Fmt) (neg : Bool) : Elt :=
  match f with
  | .e4m3 => e4m3Over c.e4m3Ovf neg
  | .e3m2 | .e2m1 => ⟨signBit f neg + f.maxPat, false⟩
  | _ => ⟨signBit f neg + f.maxPat + 1, true⟩

/-- A value, exact but for `sticky`, converted to a floating-point format (R54, R57, Table 2.8). Stochastic
rounding to FP32 rounds to nearest even. -/
def toFloat (c : Ctl) (f : Fmt) (v : FVal) (sticky : Bool) : Elt :=
  match v with
  | .nan n p =>
    match f with
    | .e3m2 | .e2m1 => ⟨0, true⟩
    | .e4m3 | .e5m2 => ⟨f.canonicalNan, true⟩
    | _ => ⟨encodeNan c.strict f n p, true⟩
  | .inf n => infinityTo c f n
  | .fin n m e =>
    let mode := match c.rmode with
      | .sr r => if f = .fp32 then .rne else .sr r
      | x => x
    let w := encodeMag f (roundMag f.fbits f.emin mode m e sticky)
    if f.maxPat < w then overflowTo c f mode n
    else if !c.strict && f.isWide && decide (w < 2 ^ f.fbits) then ⟨signBit f n, false⟩
    else ⟨signBit f n + w, false⟩

/-- An integer clamped to two's complement of `w` bits: the pattern, and whether it saturated (R434). -/
def saturate (w : Nat) (i : Int) : Nat × Bool :=
  let hi : Int := 2 ^ (w - 1) - 1
  let lo : Int := -(2 ^ (w - 1))
  if hi < i then (hi.toNat, true)
  else if i < lo then (2 ^ (w - 1), true)
  else ((i % 2 ^ w).toNat, false)

/-- A finite value rounded to an integer (R54; stochastic is read as nearest even). -/
def toInteger (mode : RMode) (neg : Bool) (m : Nat) (e : Int) : Int :=
  let a : Nat :=
    if 0 ≤ e then m * 2 ^ e.toNat
    else
      let sh := (-e).toNat
      let t := m >>> sh
      let r := m % 2 ^ sh
      let up := match mode with
        | .rtz => false
        | _ => decide (2 ^ (sh - 1) < r) || (decide (r = 2 ^ (sh - 1)) && t % 2 == 1)
      if up then t + 1 else t
  if neg then -(a : Int) else (a : Int)

/-- A value converted to INT8 or INT32 (Table 2.8). -/
def toIntElement (c : Ctl) (f : Fmt) (v : FVal) : Elt :=
  match v with
  | .nan _ _ => ⟨0, true⟩
  | .inf n => ⟨if n then 2 ^ (f.width - 1) else 2 ^ (f.width - 1) - 1, false⟩
  | .fin n m e => ⟨(saturate f.width (toInteger c.rmode n m e)).1, false⟩

/-- A value converted to any format that is not block-scaled. -/
def convert (c : Ctl) (f : Fmt) (v : FVal) : Elt :=
  if f.isInt then toIntElement c f v else toFloat c f v false

/-- An arithmetic result written to FP32, BF16 or FP16: to nearest even whatever RMODE holds (R48, R54). -/
def result (strict : Bool) (f : Fmt) (v : FVal) (sticky : Bool := false) : Elt :=
  toFloat ⟨strict, .rne, false, false⟩ f v sticky

/-! ### Exact arithmetic (R48, R56) -/

/-- A NaN result: the first NaN operand in strict mode, the canonical NaN in fast mode (Table 2.7). -/
def nanOf (strict : Bool) : List FVal → FVal
  | [] => .canonical
  | .nan n p :: vs => if strict then (if p.isSome then .nan n p else .canonical) else nanOf strict vs
  | _ :: vs => nanOf strict vs

/-- The signed integer of a finite value at a common exponent. -/
def scaledTo (e0 : Int) (neg : Bool) (m : Nat) (e : Int) : Int :=
  let a : Int := (m : Int) * 2 ^ (e - e0).toNat
  if neg then -a else a

/-- The sum of two finite values. -/
def addFin (n1 : Bool) (m1 : Nat) (e1 : Int) (n2 : Bool) (m2 : Nat) (e2 : Int) : FVal :=
  let e0 := min e1 e2
  let x := scaledTo e0 n1 m1 e1 + scaledTo e0 n2 m2 e2
  if x = 0 then .fin (n1 && n2) 0 e0 else .fin (decide (x < 0)) x.natAbs e0

/-- The exact sum of two values; `strict` says which NaN results. -/
def addVal (strict : Bool) (a b : FVal) : FVal :=
  if a.isNan || b.isNan then nanOf strict [a, b]
  else match a, b with
    | .inf n1, .inf n2 => if n1 = n2 then .inf n1 else .canonical
    | .inf n, _ => .inf n
    | _, .inf n => .inf n
    | .fin n1 m1 e1, .fin n2 m2 e2 => addFin n1 m1 e1 n2 m2 e2
    | _, _ => .canonical

/-- The exact product of two values. -/
def mulVal (strict : Bool) (a b : FVal) : FVal :=
  if a.isNan || b.isNan then nanOf strict [a, b]
  else match a, b with
    | .fin n1 m1 e1, .fin n2 m2 e2 => .fin (xor n1 n2) (m1 * m2) (e1 + e2)
    | .inf n1, y => if y.isZero then .canonical else .inf (xor n1 y.neg?)
    | x, .inf n2 => if x.isZero then .canonical else .inf (xor x.neg? n2)
    | _, _ => .canonical

/-- The exact fused multiply-add `a × b + c`; the operand order of NaNs is `a`, `b`, `c` (Table 2.7). -/
def fmaVal (strict : Bool) (a b c : FVal) : FVal :=
  if a.isNan || b.isNan || c.isNan then nanOf strict [a, b, c]
  else addVal strict (mulVal strict a b) c

/-- Is `a` less than `b`? Neither is NaN. -/
def ltVal (a b : FVal) : Bool :=
  match a, b with
  | .inf n1, .inf n2 => n1 && !n2
  | .inf n, _ => n
  | _, .inf n => !n
  | .fin n1 m1 e1, .fin n2 m2 e2 =>
    let e0 := min e1 e2
    decide (scaledTo e0 n1 m1 e1 < scaledTo e0 n2 m2 e2)
  | _, _ => false

/-- Are `a` and `b` equal? Neither is NaN. -/
def eqVal (a b : FVal) : Bool := !ltVal a b && !ltVal b a && !a.isNan && !b.isNan

/-- The integer square root, one bit of the result at a time. -/
def isqrtAux : Nat → Nat → Nat → Nat
  | 0, _, r => r
  | k + 1, n, r =>
    let c := r + 2 ^ k
    isqrtAux k n (if c * c ≤ n then c else r)

/-- The integer square root of `n`. -/
def isqrt (n : Nat) : Nat := isqrtAux (Nat.log2 n / 2 + 1) n 0

/-- The quotient of two finite values, the second not zero, cut after at least 70 bits; and whether it was cut. -/
def divFin (n1 : Bool) (m1 : Nat) (e1 : Int) (n2 : Bool) (m2 : Nat) (e2 : Int) : FVal × Bool :=
  let k := Nat.log2 m2 + 72
  let num := m1 * 2 ^ k
  (.fin (xor n1 n2) (num / m2) (e1 - e2 - (k : Int)), decide (num % m2 ≠ 0))

/-- `a / b` (R56): the value and whether it was cut. -/
def divVal (strict : Bool) (a b : FVal) : FVal × Bool :=
  if a.isNan || b.isNan then (nanOf strict [a, b], false)
  else match a, b with
    | .inf _, .inf _ => (.canonical, false)
    | .inf n1, y => (.inf (xor n1 y.neg?), false)
    | x, .inf n2 => (.zero (xor x.neg? n2), false)
    | .fin n1 m1 e1, .fin n2 m2 e2 =>
      if m2 = 0 then (if m1 = 0 then .canonical else .inf (xor n1 n2), false)
      else if m1 = 0 then (.zero (xor n1 n2), false)
      else divFin n1 m1 e1 n2 m2 e2
    | _, _ => (.canonical, false)

/-- The square root (R56): the value and whether it was cut. -/
def sqrtVal (strict : Bool) (a : FVal) : FVal × Bool :=
  match a with
  | .nan n p => (nanOf strict [.nan n p], false)
  | .inf n => (if n then .canonical else .inf false, false)
  | .fin n m e =>
    if m = 0 then (.fin n 0 e, false)
    else if n then (.canonical, false)
    else
      let k : Nat := 160 + (if (e - 160) % 2 = 0 then 0 else 1)
      let x := m * 2 ^ k
      let r := isqrt x
      (.fin false r ((e - (k : Int)) / 2), decide (r * r ≠ x))

/-- One. -/
def oneVal : FVal := .fin false 1 0

/-! ### Exponential and logarithm to 120 bits, for the values that R47 bounds -/

/-- Working precision, in bits after the point. -/
def fxBits : Nat := 120

/-- ln 2 with `fxBits` bits after the point: the sum of 1 / (k · 2^k). -/
def ln2Fx : Nat := ((List.range 124).map fun k => 2 ^ fxBits / ((k + 1) * 2 ^ (k + 1))).foldl (· + ·) 0

/-- The series of e^r, `r` in fixed point, 0 ≤ r < 1. -/
def expSeries : Nat → Nat → Nat → Nat → Nat
  | 0, _, _, acc => acc
  | k + 1, r, term, acc =>
    let n := 40 - k
    let t := (term * r) / 2 ^ fxBits / n
    expSeries k r t (acc + t)

/-- e to a finite value (cut); far beyond every format's range the exponent is held at ±2,000. -/
def expFin (n : Bool) (m : Nat) (e : Int) : FVal :=
  let big : Bool := decide (2000 < m * 2 ^ e.toNat / 2 ^ (-e).toNat)
  if big then .fin false 1 (if n then -3000 else 3000)
  else
    let x : Int := if 0 ≤ e + fxBits then (m : Int) * 2 ^ (e + fxBits).toNat
      else (m : Int) / 2 ^ (-(e + fxBits)).toNat
    let y : Int := if n then -x else x
    let k : Int := y / (ln2Fx : Int)
    let r : Nat := (y - k * (ln2Fx : Int)).toNat
    .fin false (expSeries 40 r (2 ^ fxBits) (2 ^ fxBits)) (k - fxBits)

/-- e to the power `a` (Table 3.7): the value and whether it was cut. -/
def expVal (strict : Bool) (a : FVal) : FVal × Bool :=
  match a with
  | .nan n p => (nanOf strict [.nan n p], false)
  | .inf n => (if n then .zero false else .inf false, false)
  | .fin n m e => if m = 0 then (oneVal, false) else (expFin n m e, true)

/-- The series of 2·artanh(z), `z` in fixed point, z ≤ 1/3: Σ 2 z^(2j+1) / (2j+1). -/
def logSeries : Nat → Nat → Nat → Nat → Nat
  | 0, _, _, acc => acc
  | k + 1, z2, pow, acc =>
    let j := 44 - k - 1
    logSeries k z2 (pow * z2 / 2 ^ fxBits) (acc + 2 * pow / (2 * j + 1))

/-- The natural logarithm of a finite positive value, cut. -/
def logFin (m : Nat) (e : Int) : FVal :=
  let l := Nat.log2 m
  let u : Nat := m * 2 ^ fxBits / 2 ^ l
  let z : Nat := (u - 2 ^ fxBits) * 2 ^ fxBits / (u + 2 ^ fxBits)
  let s : Nat := logSeries 44 (z * z / 2 ^ fxBits) z 0
  let y : Int := (e + (l : Int)) * (ln2Fx : Int) + (s : Int)
  .fin (decide (y < 0)) y.natAbs (-(fxBits : Int))

/-- The natural logarithm (Table 3.7): the value and whether it was cut. -/
def logVal (strict : Bool) (a : FVal) : FVal × Bool :=
  match a with
  | .nan n p => (nanOf strict [.nan n p], false)
  | .inf n => (if n then .canonical else .inf false, false)
  | .fin n m e =>
    if m = 0 then (.inf true, false)
    else if n then (.canonical, false)
    else if m = 2 ^ Nat.log2 m ∧ e = -(Nat.log2 m : Int) then (.zero false, false)
    else (logFin m e, true)

/-- A result within `ulps` units in the last place of the value (R47): the correctly rounded one moved by a free
offset, where the moved one still lies within the bound; otherwise the correctly rounded one. -/
def resultWithin (ulps : Nat) (off : Int) (strict : Bool) (f : Fmt) (v : FVal) (sticky : Bool) : Elt :=
  match v with
  | .fin n m e =>
    let tq := roundMag f.fbits f.emin .rne m e sticky
    let t' : Int := (tq.1 : Int) + off
    let cand : Int := t' * 2 ^ (tq.2 - e).toNat
    let have_ : Int := (m : Int) * 2 ^ (e - tq.2).toNat
    let bound : Int := (ulps : Int) * 2 ^ (tq.2 - e).toNat
    if m ≠ 0 ∧ 0 ≤ t' ∧ cand - have_ ≤ bound ∧ have_ - cand < bound then
      result strict f (.fin n t'.toNat tq.2) false
    else result strict f v sticky
  | _ => result strict f v sticky

/-! ### Packing (R40) and block scaling (R42–R45) -/

/-- The `n` fields of `w` bits of a number, from its low end (R40). -/
def unpack (w : Nat) : Nat → Nat → List Nat
  | 0, _ => []
  | n + 1, x => x % 2 ^ w :: unpack w n (x / 2 ^ w)

/-- Fields of `w` bits packed from the low end (R40). -/
def pack (w : Nat) : List Nat → Nat
  | [] => 0
  | v :: vs => v % 2 ^ w + 2 ^ w * pack w vs

/-- Bytes that the 32 elements of a block take (Table 2.4). -/
def Fmt.blockBytes (f : Fmt) : Nat := 4 * f.width

/-- Whole blocks in a row of `len` bytes (R43). -/
def Fmt.blocks (f : Fmt) (len : Nat) : Nat := len / (f.blockBytes + 1)

/-- Is `len` a valid row length for the format (R41, R43)? -/
def Fmt.validLen (f : Fmt) (len : Nat) : Bool :=
  decide (16 ≤ len) && decide (len ≤ 512) && len % 16 == 0 &&
  (if f.isMx then
    decide (1 ≤ f.blocks len) && len == 16 * ((f.blocks len * (f.blockBytes + 1) + 15) / 16)
   else if f = .e3m2 then len % 48 == 0
   else true)

/-- Elements in a row of `len` bytes (Tables 2.3 and 2.4). -/
def Fmt.elements (f : Fmt) (len : Nat) : Nat :=
  if f.isMx then 32 * f.blocks len else len * 8 / f.width

/-- The row length of a format in a vector register (Table 3.7a). -/
def Fmt.regLen : Fmt → Nat
  | .mxe4m3 => 240
  | .mxe5m2 => 240
  | _ => 256

/-- Elements of a vector register in a format (Table 3.7b). -/
def Fmt.regCount (f : Fmt) : Nat := f.elements f.regLen

/-- An element of a scaled block (R44). -/
def scaledElement (f : Fmt) (scale : Nat) (w : Nat) : FVal :=
  if scale = 0xFF then .canonical
  else match decodeFloat f.element w with
    | .nan n p => .nan n p
    | .inf n => .inf n
    | .fin n m e => .fin n m (e + (scale : Int) - 127)

/-- The elements of a row image of `len` bytes, exactly (R40, R43, R44). -/
def decodeRow (f : Fmt) (len : Nat) (x : Nat) : List FVal :=
  let els := unpack f.width (f.elements len) x
  if f.isMx then
    let sc := x / 2 ^ (8 * (f.blocks len * f.blockBytes))
    els.zipIdx.map fun p => scaledElement f (bits (8 * (p.2 / 32) + 7) (8 * (p.2 / 32)) sc) p.1
  else els.map (decodeElement f)

/-- The largest finite magnitude of a block, as an exponent: floor(log2 amax); none where amax is zero. -/
def blockLog (vs : List FVal) : Option Int :=
  vs.foldl (fun acc v =>
    match v with
    | .fin _ m e =>
      if m = 0 then acc
      else
        let l : Int := (Nat.log2 m : Int) + e
        match acc with
        | none => some l
        | some k => some (max k l)
    | _ => acc) none

/-- emax of R45. -/
def Fmt.mxEmax (f : Fmt) : Int :=
  match f.element with
  | .e4m3 => 8
  | .e5m2 => 15
  | .e3m2 => 4
  | _ => 2

/-- An element of a block, already divided by its scale, converted with saturation (R45 step 4). -/
def mxElement (c : Ctl) (f : Fmt) (v : FVal) : Elt :=
  match v with
  | .inf n => ⟨signBit f.element n + 0x7C, true⟩
  | .fin n m e =>
    let w := encodeMag f.element (roundMag f.fbits f.emin c.rmode m e false)
    ⟨signBit f.element n + min w f.maxPat, false⟩
  | .nan _ _ => ⟨0, true⟩

/-- A block encoded: its 32 elements, its scale byte and its count of non-finite events (R45, R58). The rounding
mode of element `j` is given, since each stochastic rounding draws afresh. -/
def encodeBlock (c : Ctl) (f : Fmt) (mode : Nat → RMode) (vs : List FVal) : List Nat × Nat × Nat :=
  if vs.any (fun v => v.isNan || (v.isInf && f.element != .e5m2)) then
    (List.replicate 32 0, 0xFF, 32)
  else
    let x : Int := match blockLog vs with
      | none => -127
      | some l => max (-127) (min 127 (l - f.mxEmax))
    let es := vs.zipIdx.map fun p =>
      let v := match p.1 with
        | .fin n m e => .fin n m (e - x)
        | y => y
      mxElement { c with rmode := mode p.2 } f v
    (es.map Elt.bits, (x + 127).toNat, (es.filter Elt.nf).length)

end Sys2Proof
end

