-- ==== Sys2Proof/Machine/Shards.lean ====
section
/-! DEFINITION. The tables in device memory that instructions and engines read directly: the shard map (R207, R208),
the group descriptors (R149, R150) and the ranges of groups (R152). -/

namespace Sys2Proof.Machine

/-! ### The shard map -/

/-- A shard-map entry as read (Table 8.2). -/
structure Shard where
  pa : Nat
  bz : Bool
  base : Nat
  elements : Nat
  rowLen : Nat
  version : Nat
  group : Nat
  fmtCode : Nat
  ten : Nat
  clean : Bool
  deriving DecidableEq, Repr

/-- The entry of shard `j` (R207). -/
def State.shard (s : State) (j : Nat) : Shard :=
  let pa := bits 38 21 (s.reg 0x4C0) * 2 ^ 21 + 32 * j
  let x := s.memNat pa 32
  let b := bits 183 176 x
  { pa := pa, bz := s.memMark pa 32, base := bits 38 8 x * 256, elements := bits 95 64 x, rowLen := bits 127 96 x,
    version := bits 159 128 x, group := bits 171 160 x, fmtCode := bits 3 0 b, ten := bits 5 4 b,
    clean := bit 6 b && !bit 7 b && decide (bits 7 0 x = 0) && decide (bits 63 39 x = 0) &&
      decide (bits 175 172 x = 0) && decide (bits 255 184 x = 0) }

/-- The stack of the shard's first byte. -/
def Shard.stack (e : Shard) : Nat := stackOf e.base

/-- The extent of a shard in bytes (R208). -/
def Shard.extent (e : Shard) : Nat :=
  match Fmt.ofCode e.fmtCode with
  | some f =>
    if f.isMx then (e.elements + 31) / 32 * (f.blockBytes + 1) else (e.elements * f.width + 7) / 8
  | none => 0

/-- Is the entry usable (R208)? -/
def Shard.usable (e : Shard) : Bool :=
  e.clean && !e.bz && decide (1 ≤ e.elements) && decide (1 ≤ e.rowLen) &&
  (match Fmt.ofCode e.fmtCode with
   | some f => f != .int32
   | none => false) &&
  decide (stackOf (e.base + e.extent - 1) = e.stack)

/-- Is the entry valid for a tenancy (R208)? -/
def Shard.validFor (e : Shard) (t : Nat) : Bool := e.usable && e.ten == t

/-- The rows of a shard (R163). -/
def Shard.rows (e : Shard) : Nat := (e.elements + e.rowLen - 1) / e.rowLen

/-- The update blocks of a shard (R156). -/
def Shard.blocks (e : Shard) : Nat := (e.elements + 31) / 32

/-- Is a group within the tenancy's range (R152)? -/
def State.groupOk (s : State) (t g : Nat) : Bool :=
  let w := s.reg (0x488 + 8 * t)
  decide (bits 11 0 w ≤ g) && decide (g < bits 11 0 w + bits 28 16 w)

/-- A shard that a tenancy's instruction may use: a valid entry whose group is in the tenancy's range (R152,
R208). -/
def State.shardOk (s : State) (t : Nat) (e : Shard) : Bool := e.validFor t && s.groupOk t e.group

/-- The version of a shard advanced by one, modulo 2^32, as one action at its entry (R160, R210). -/
def State.advanceVersion (s : State) (e : Shard) : State :=
  s.memWrite (e.pa + 16) (bytesOf 4 ((e.version + 1) % 2 ^ 32)) false

/-! ### Group descriptors -/

/-- The physical address of a group's descriptor (R149). -/
def State.gdescPa (s : State) (g : Nat) : Nat := bits 38 19 (s.reg 0x480) * 2 ^ 19 + 128 * g

/-- A group descriptor as read (Table 6.1). -/
structure Gdesc where
  pa : Nat
  words : List Nat
  blazedAt : Option Nat
  deriving DecidableEq, Repr

/-- The descriptor of a group, with the address of its first marked line. -/
def State.gdesc (s : State) (g : Nat) : Gdesc :=
  let pa := s.gdescPa g
  { pa := pa, words := unpack 32 32 (s.memNat pa 128),
    blazedAt := (unitsOf 64 pa 128).map (64 * ·) |>.find? fun a => s.memMark a 1 }

/-- A word of a descriptor. -/
def Gdesc.word (d : Gdesc) (n : Nat) : Nat := d.words.getD n 0

/-- Bits of the control word (Table 6.2). -/
def Gdesc.ctrl (d : Gdesc) (hi lo : Nat) : Nat := bits hi lo (d.word 11)

/-- An offset word, in bytes. -/
def Gdesc.off (d : Gdesc) (n : Nat) : Int := 256 * signedOf 32 (d.word n)

/-- Formats of the fields of the control word. -/
def Gdesc.wFmt (d : Gdesc) : Option Fmt :=
  match Fmt.ofCode (d.ctrl 7 4) with
  | some .fp32 => some .fp32
  | some .bf16 => some .bf16
  | some .fp16 => some .fp16
  | _ => none

/-- A moment format from its code. -/
def momentFmt (code : Nat) : Option Fmt :=
  match Fmt.ofCode code with
  | some .fp32 => some .fp32
  | some .bf16 => some .bf16
  | some .mxe4m3 => some .mxe4m3
  | some .mxe5m2 => some .mxe5m2
  | _ => none

/-- The working-copy format from its code. -/
def copyFmt (code : Nat) : Option Fmt :=
  match Fmt.ofCode code with
  | some .fp32 => some .fp32
  | some .bf16 => some .bf16
  | some .fp16 => some .fp16
  | some .e4m3 => some .e4m3
  | some .e5m2 => some .e5m2
  | _ => none

/-- Is the frozen flag set (R137)? -/
def Gdesc.frozen (d : Gdesc) : Bool := bit 24 (d.word 11)

/-- Are the descriptor's codes permitted and its reserved parts zero (R150, Table 6.7 case 5)? -/
def Gdesc.valid (d : Gdesc) : Bool :=
  decide (d.ctrl 1 0 ≠ 3) && decide (d.ctrl 3 2 ≠ 3) && d.wFmt.isSome && (momentFmt (d.ctrl 11 8)).isSome &&
  (momentFmt (d.ctrl 15 12)).isSome && (copyFmt (d.ctrl 19 16)).isSome && decide (d.ctrl 31 30 = 0) &&
  (d.words.drop 18).all (· == 0) && (bit 20 (d.word 11) || decide (d.word 12 = 0))

/-- Bytes of an element of a format. -/
def elemBytes (f : Fmt) : Nat := f.width / 8

/-! ### Accumulate windows (R195) -/

/-- Does a valid window of a stack hold the block at a physical address? Its BUF_FMT, if so. -/
def State.accWindow (s : State) (pa : Nat) : Option Bool :=
  let m := memBase (stackOf pa)
  let mib := pa % 2 ^ 36 / 2 ^ 20
  ((List.range 8).map fun w => s.reg (m + 0x300 + 8 * w)).findSome? fun v =>
    if bit 28 v && decide (bits 15 0 v ≤ mib) && decide (mib < bits 15 0 v + bits 27 16 v) then some (bit 29 v)
    else none

/-- Is the stored count of a block uncorrectable? -/
def State.countBad (s : State) (blk : Nat) : Bool := NSet.has s.mem.badCounts blk

/-- The contributor count of a 256-byte block. That of a FAILED stack, which the manual does not give, reads as 0, as its
bytes do (DESIGN CHOICE, log entry 120); what an uncorrectable one reads as is open. -/
def State.accCount (s : State) (blk : Nat) : Nat :=
  if (s.stack (stackOf (256 * blk))).state = stFailed then 0
  else if s.countBad blk then Config.badCount blk % 65536
  else SMap.get 0 s.mem.counts blk

/-- A contributor count set. -/
def State.setCount (s : State) (blk n : Nat) : State :=
  { s with mem := { s.mem with
      counts := if n = 0 then SMap.del s.mem.counts blk else SMap.put s.mem.counts blk n
      badCounts := NSet.sub s.mem.badCounts blk } }

/-- A block cleared with its count, as one action (R159, R200). -/
def State.clearBlock (s : State) (blk : Nat) : State :=
  if (s.stack (stackOf (256 * blk))).state = stFailed then s.count (memBase (stackOf (256 * blk)) + 0x30) 55 40 4
  else (s.memWrite (256 * blk) (List.replicate 256 0) false).setCount blk 0

end Sys2Proof.Machine
end

