-- ==== Sys2Proof/Machine/SeqOps.lean ====
section
/-! DEFINITION. What reaches a sequencer from outside its issue path: faults (R432), and the messages between a
waiting stream and its bank (R262–R265). A tenancy's streams stand in its resident or its saved image. -/

namespace Sys2Proof.Machine

/-! ### Images (R328, R330) -/

/-- The image of tenancy `t` on a core: the core itself while `t` is resident, else its saved image. -/
def State.imageOf (s : State) (c t : Nat) : CoreImage :=
  if (s.core c).res = some t then (s.core c).img else SMap.get {} s.images (4 * c + t)

/-- An image changed. -/
def State.modImageOf (s : State) (c t : Nat) (g : CoreImage → CoreImage) : State :=
  if (s.core c).res = some t then s.modImg c g
  else { s with images := SMap.put s.images (4 * c + t) (g (SMap.get {} s.images (4 * c + t))) }

/-- A stream of a tenancy. -/
def State.tenStream (s : State) (t : Nat) (i : At) : Stream := (s.imageOf i.core t).stream i.stream

/-- A stream of a tenancy changed. -/
def State.modTenStream (s : State) (t : Nat) (i : At) (g : Stream → Stream) : State :=
  s.modImageOf i.core t fun m => m.setStream i.stream (g (m.stream i.stream))

/-! ### Sync ranges and messages (R261, R262, R270) -/

/-- Does an object lie in a range of the tenancy (R270)? -/
def State.inRange (s : State) (t obj : Nat) : Bool :=
  (List.range 4).any fun r =>
    let w := s.reg (syncBase + 8 * (4 * t + r))
    decide (64 * bits 11 0 w ≤ obj) && decide (obj < 64 * bits 11 0 w + 64 * bits 24 12 w)

/-- An operation sent to its bank, as a message of its own. -/
def State.sendSync (s : State) (o : SyncOp) : State :=
  { s with sync := { s.sync with ops := s.sync.ops ++ [{ o with id := s.noc.nextId }] },
           noc := { s.noc with nextId := s.noc.nextId + 1 } }

/-- A counter add for a tenancy. -/
def State.addFrom (s : State) (src : SyncFrom) (ten obj n : Nat) : State :=
  s.sendSync { src := src, ten := ten, op := 1, obj := obj, x := BitVec.ofNat 64 n }

/-- A counter add by an engine: kind and number as R261 reports them. -/
def State.signal (s : State) (ten kind id obj n : Nat) : State := s.addFrom (.engine kind id) ten obj n

/-- The core's cancel of a stream's wait on its way to the bank (R265); that of a `sy.rd` only drops its answer. -/
def State.cancelWait (s : State) (t : Nat) (i : At) : State :=
  match (s.tenStream t i).wait with
  | some w =>
    if w.phase = .sent then
      (s.modTenStream t i fun x => { x with wait := some { w with phase := .cancelling } }).sendSync
        { src := .waiter (.stream i), ten := t, op := w.op, obj := w.obj, x := w.x, gen := w.gen, cancel := true }
    else s
  | none => s

/-! ### Faults from outside the issue path (R432) -/

/-- The tile of a `tld` or `tst` that stands part-way, and whether it writes the tile. -/
def Stream.partTile (t : Stream) : Option Nat := t.part.map fun p => p.1.tile.toNat
def Stream.partWrites (t : Stream) : Bool := t.part.any Prod.snd

/-- Is the stream inside an instruction that has begun: a `tld` or `tst` part-way? A held `tcfg` has not begun. -/
def Stream.midInstr (t : Stream) : Bool := t.part.isSome

/-- A fault record for a stream that is not stopped by the fault (R432). -/
def State.strayFault (s : State) (t : Nat) (i : At) (f : ExtFault) : State :=
  s.sendFault ⟨0, f.code.toNat, t, engineOf i, f.addr.toNat, 0, false, 0, 0, 0⟩

/-- A stream stops with the fault that it holds: its wait is cancelled and a held RESUME discarded. -/
def State.takeFault (s : State) (t : Nat) (i : At) (f : ExtFault) : State :=
  (s.cancelWait t i).modTenStream t i fun x => { x.stop f.code.toNat f.addr.toNat with pendingFault := none }

/-- A stopped stream's fault sent as a record. -/
def State.dropFault (s : State) (t : Nat) (i : At) (f : ExtFault) : State :=
  (s.modTenStream t i fun x => { x with pendingFault := none }).strayFault t i f

/-- A pending fault is taken, kept or sent as a record, by the stream's state (R432). -/
def State.settle (s : State) (t : Nat) (i : At) : State :=
  let x := s.tenStream t i
  match x.pendingFault with
  | none => s
  | some f =>
    match x.state with
    | .running => if x.midInstr then s else s.takeFault t i f
    | .paused => s.takeFault t i f
    | .suspended => s.takeFault t i f
    | .sliced => s
    | .idle => s.dropFault t i f
    | .faulted => s.dropFault t i f
    | .illegal => s.dropFault t i f

/-- A restored stream takes the fault that was saved with it before it issues, part-way or not (R432). -/
def State.settleRestored (s : State) (t : Nat) (i : At) : State :=
  match (s.tenStream t i).pendingFault, (s.tenStream t i).state with
  | some f, .running => s.takeFault t i f
  | _, _ => s.settle t i

/-- A fault from outside the issue path reaches a stream of a tenancy (R432): a stream that holds one already sends
a record instead. -/
def State.externalFault (s : State) (t : Nat) (i : At) (code addr : Nat) : State :=
  let f : ExtFault := ⟨BitVec.ofNat 8 code, BitVec.ofNat 48 addr⟩
  if (s.tenStream t i).pendingFault.isSome then s.strayFault t i f
  else (s.modTenStream t i fun x => { x with pendingFault := some f }).settle t i

/-- The key of a tenancy's stream among those whose `sy.rmt` a peer may have refused. -/
def remoteKey (t : Nat) (i : At) : Nat := 12 * i.core + 4 * i.stream.idx + t

/-- A `sy.rmt` of a stream has gone (R268). -/
def State.sentRemote (s : State) (i : At) : State :=
  { s with fab := { s.fab with remote := NSet.add s.fab.remote (remoteKey (s.tenOf i.core) i) } }

/-- The tenancies that a fault for a stream of a core may be meant for: the resident one and, of a code with which a peer
refuses and without an address, those saved there that have sent a `sy.rmt` from it (R261, R268). -/
def State.faultTens (s : State) (i : At) (code addr : Nat) : List Nat :=
  (s.core i.core).res.toList ++
  if [codeAccess, codeSyncOverflow, codeBlazeBite].contains code && decide (addr = 0) then
    (List.range 4).filter fun t => (s.core i.core).res != some t && NSet.has s.fab.remote (remoteKey t i)
  else []

/-! ### Pauses (R69, R70) -/

/-- Is the stream at a sync object's wait, and not only waiting for the answer of a `sy.rd`? -/
def Stream.waiting (t : Stream) : Bool :=
  match t.wait with
  | some w => w.op != 11
  | none => false

/-- A requested pause takes effect at once: on a suspended stream, or on one that waits (R69, R70). -/
def State.pauseNow (s : State) (i : At) : State :=
  let t := s.stream i
  if t.state = .suspended then s.modStream i fun t => { t with state := .paused, fromSuspended := true }
  else if t.state = .running ∧ t.waiting = true then
    (s.cancelWait (s.tenOf i.core) i).modStream i fun t => { t with state := .paused }
  else s

/-- A pause that was requested before takes effect on a stream that has just suspended or begun to wait. -/
def State.pauseAsked (s : State) (i : At) : State := if (s.stream i).pauseReq then s.pauseNow i else s

/-! ### The end of a wait (R264–R266) -/

/-- A waiting instruction retires: its destination is written with the value and the stream moves on. -/
def State.retireWait (s : State) (t : Nat) (i : At) (w : WaitOp) (v : Word) (bz : Bool) : State :=
  let s := s.modTenStream t i fun x => { (x.setSreg w.sd v bz) with wait := none, pc := x.pc + 8, held := none }
  if (s.core i.core).res = some t then s.blazeWritten i (bz && decide (w.sd ≠ 0)) else s

/-- A running stream whose wait was answered while it was stopped goes on: a grant retires the instruction, a
cancelled wait is sent again (R265). -/
def State.resumeWait (s : State) (t : Nat) (i : At) : State :=
  let x := s.tenStream t i
  match x.state, x.wait with
  | .running, some w =>
    match w.phase with
    | .granted v bz => s.retireWait t i w v bz
    | .cancelled =>
      (s.modTenStream t i fun x => { x with wait := some { w with phase := .sent } }).sendSync
        { src := .waiter (.stream i), ten := t, op := w.op, obj := w.obj, x := w.x, gen := w.gen }
    | .sent => s
    | .cancelling => s
  | _, _ => s

/-- CANCELLED reaches a stream: its wait has had no effect on the object, and for a `sy.arrw` it keeps the generation that
it recorded (R265). -/
def State.waitCancelled (s : State) (t : Nat) (i : At) (gen : Option (BitVec 32)) : State :=
  let answered (x : Stream) : Stream := match x.wait with
    | some y => if y.phase = .cancelling then { x with wait := some { y with phase := .cancelled, gen := gen } } else x
    | none => x
  (s.modTenStream t i answered).resumeWait t i

/-- A wake, grant or answer reaches a stream (R265, R266): it ends a wait that goes on, and is kept by one that is
stopped; any other stream discards it. -/
def State.wakeStream (s : State) (t : Nat) (i : At) (v : Word) (bz : Bool) : State :=
  let x := s.tenStream t i
  match x.wait with
  | some w =>
    if w.phase = .sent ∧ x.state = .running then s.retireWait t i w v bz
    else if w.phase = .sent ∨ w.phase = .cancelling then
      (s.modTenStream t i fun x => { x with wait := some { w with phase := .granted v bz } }).resumeWait t i
    else s
  | none => s

end Sys2Proof.Machine
end

