-- ==== Sys2Proof/Machine/Clock.lean ====
section
/-! DEFINITION. How the cycles of a core pass: its cycle counter, the stall cycles of its streams by the precedence of
Table 17.3, and the array's time with its gaps and its activity cap (R108, R115–R118, R125–R127, R389–R395). Cycles pass
with a tick, with each cycle in which an instruction at issue is held back, and with the events that end a slot, a
horizon or a ramp period (log entry 7). -/

namespace Sys2Proof.Machine

/-! ### SHIM_CTRL (Table 4.11) -/

def State.shimLevel (s : State) (c : Nat) : Nat := s.field (coreBase c + 0x600) 7 0
def State.shimOn (s : State) (c : Nat) : Bool := bit 40 (s.reg (coreBase c + 0x600))

/-- HORIZON in array cycles. -/
def State.shimHorizon (s : State) (c : Nat) : Nat := 64 * s.field (coreBase c + 0x600) 23 8

/-! ### The array's time (R108, R116, R125, R126) -/

/-- The slot length in array cycles: 0 is read as 1 (Table 5.2). -/
def CoreImage.slotCycles (m : CoreImage) : Nat := 8 * max 1 m.ilvLen.toNat

/-- The owner code of the slot in progress (Table 5.1). -/
def CoreState.slotOwner (k : CoreState) : Nat := bits (2 * k.arr.slot + 1) (2 * k.arr.slot) k.img.ilvPattern.toNat

/-- The stream that owns the slot in progress. -/
def CoreState.slotStream (k : CoreState) : Option StreamId :=
  match k.slotOwner with
  | 0 => none
  | n + 1 => StreamId.ofNat? n

/-- The array as a gap begins: with the cap at or above LEVEL, it becomes LEVEL (R116). DESIGN CHOICE (log entry 136): a cap
that a gap finds below LEVEL stays where it is until the horizon has passed; with ENABLE = 0 a gap leaves it as it is. -/
def ArrayState.openGap (a : ArrayState) (level : Nat) (on : Bool) : ArrayState :=
  if a.gap then { a with prev := none }
  else { a with prev := none, gap := true, gapUsed := 0, horizonPassed := false, rising := false,
                cap := if on && decide (level ≤ a.cap) then level else a.cap }

/-- Array cycles, at full rate, of the instructions that have issued and are not at their end. -/
def ArrayState.left (a : ArrayState) : Nat := (a.work.map Prod.snd).foldl (· + ·) 0

/-- The share of the array's cycles, in 256ths, that an instruction receives (R116). -/
def ArrayState.share (a : ArrayState) (level : Nat) (on : Bool) : Nat := if on && decide (a.cap < level) then a.cap else 256

/-- The cycles that the work still to come takes, with those that the ramp withholds (R116). -/
def ArrayState.needs (a : ArrayState) (level : Nat) (on : Bool) : Nat :=
  let c := a.share level on
  if c = 0 then a.left else (256 * a.left + (c - 1)) / c

/-- Work after `n` of its cycles, with those of them that only load. -/
def takeWork : List (Bool × Nat) → Nat → List (Bool × Nat) × Nat
  | [], _ => ([], 0)
  | (b, m) :: ws, n =>
    if n < m then ((b, m - n) :: ws, if b then n else 0)
    else
      let (r, k) := takeWork ws (n - m)
      (r, (if b then m else 0) + k)

/-- How cycles of the array went: with an instruction loading or computing, of those only loading, in a gap, of those
with shims, and withheld from an instruction by the ramp. -/
structure ArrayTime where
  busy : Nat := 0
  load : Nat := 0
  gap : Nat := 0
  shim : Nat := 0
  held : Nat := 0
  deriving DecidableEq, Repr

/-- `n` array cycles: the work in progress takes its share, and what is left is a gap, or, with an instruction `ready`
that the ramp holds back, is withheld from it (R116, R126). -/
def ArrayState.pass (a : ArrayState) (n level : Nat) (on ready : Bool) : ArrayState × ArrayTime :=
  let spent := min n (a.needs level on)
  let busy := if spent = a.needs level on then a.left else spent * a.share level on / 256
  let (work, load) := takeWork a.work busy
  let idle := n - spent
  let a := { a with work := work, slotUsed := a.slotUsed + n, rampUsed := a.rampUsed + n }
  if ready then
    (a, { busy := busy, load := load, held := spent - busy + (idle - idle * a.share level on / 256) })
  else if idle = 0 then (a, { busy := busy, load := load, held := spent - busy })
  else
    let a := a.openGap level on
    ({ a with gapUsed := a.gapUsed + idle },
      { busy := busy, load := load, gap := idle, held := spent - busy,
        shim := if on && decide (0 < a.cap) && !a.rising then idle else 0 })

/-! ### Stall cycles (R393, R394) -/

/-- `n` stall cycles of a stream under one cause. -/
def State.stallN (s : State) (i : At) (c : Cause) (n : Nat) : State :=
  if n = 0 then s else s.count (coreBase i.core + 0xC00 + 0x80 * i.stream.idx + 8 * c.code) 47 0 n

/-- The cause under which a stream of a core that issues nothing counts as it stands: a suspension, a held `tcfg`, a wait,
or the cause that held back the instruction at issue when it was last sent (log entry 10). An array instruction that
waits for a slot counts under SLOT_IDLE in a slot that is not its stream's, and under OTHER in one that it no longer
fits (R125, R127); an instruction that waits for the vector engine under OTHER as long as that is occupied (R121). -/
def CoreState.standing (k : CoreState) (x : StreamId) : Option Cause :=
  let t := k.img.stream x
  if t.state = .suspended then some .page
  else if t.heldTcfg.isSome then some .tcfgHold
  else if t.wait.isSome then some .sync
  else match t.held with
    | some .slotIdle | some .other =>
      if t.held = some .other ∧ t.slotWait = none then (if 0 < k.vectorLeft then some .other else none)
      else if k.slotStream ≠ some x then some .slotIdle else if k.arr.slotRun then some .other else none
    | c => c

/-- Does the power manager gate issue (Tables 17.3 and 18.4)? -/
def State.gating (s : State) : Bool := s.power.thermalGate || s.power.powerGate

/-- The cause of a gated cycle. -/
def State.gateCause (s : State) : Cause := if s.power.thermalGate then .thermal else .power

/-- Of `n` cycles of its core, the stall cycles of a stream: under SLICE while it is saved; or else `g` of them gated,
`p` under POWER, and the rest under the cause that holds it back, if one does (Table 17.3). -/
def State.countStalls (s : State) (i : At) (own : Option Cause) (n g p : Nat) : State :=
  let t := s.stream i
  match t.state with
  | .sliced => s.stallN i .slice n
  | .running | .suspended =>
    let p := min p n
    match if t.state = .suspended then some .page else own.or ((s.core i.core).standing i.stream) with
    | some c =>
      let p := min p (n - g)
      ((s.stallN i s.gateCause g).stallN i .power p).stallN i c (n - g - p)
    | none => s.stallN i .power p
  | _ => s

/-- `n` cycles of a core in the counters of its streams: the stream that `own` names has an instruction at issue that a
cause holds back; `held` of the cycles were withheld from the stream `x`. How many of them are gated, while issue is, is
open. -/
def State.coreStalls (s : State) (c n : Nat) (own : Option (StreamId × Cause)) (x : Option StreamId) (held : Nat) : State :=
  let g := if s.gating then Config.number s.free % (n + 1) else 0
  let s' := if s.gating then s.draw 1 else s
  let one (s : State) (y : StreamId) : State :=
    s.countStalls ⟨c, y⟩ ((own.filter fun p => p.1 == y).map Prod.snd) n g (if x = some y then held else 0)
  one (one (one s' .f) .b) .u

/-- A counter that never wraps moved up (R389, R391). -/
def State.bump (s : State) (off n : Nat) : State := s.setReg off (min (s.reg off + n) (2 ^ 64 - 1))

/-- `n` cycles of a core in CYCLES and its event. -/
def State.coreCycles (s : State) (c n : Nat) : State := (s.bump (coreBase c + 0xF00) n).event c none evCycles n

/-- Array time in the events of a core. -/
def State.arrayEvents (s : State) (c : Nat) (t : ArrayTime) : State :=
  (((s.event c none evArrayBusy t.busy).event c none evArrayLoad t.load).event c none evArrayGap t.gap).event c none
    evShim t.shim

/-- A core after `n` cycles that leave its array as given: with the first of them its units can accept instructions again,
but for a vector engine that is still occupied (R121, R135). -/
def CoreState.passed (k : CoreState) (n : Nat) (a : ArrayState) : CoreState :=
  { k with arr := a
           scalarBy := if n = 0 then k.scalarBy else none
           vectorBy := if n = 0 then k.vectorBy else none
           vectorLeft := k.vectorLeft - (if k.vectorBy.isSome then n - 1 else n) }

/-- `n` cycles of a core pass (R390, R393). -/
def State.corePass (s : State) (c n : Nat) (own : Option (StreamId × Cause)) (ready : Bool) : State :=
  let k := s.core c
  let (a, t) := k.arr.pass n (s.shimLevel c) (s.shimOn c) ready
  let s := (s.coreCycles c n).setCore c (k.passed n a)
  (s.arrayEvents c t).coreStalls c n own k.slotStream t.held

/-- `n` cycles of a core in which its arithmetic pauses (R33): under POWER, but for those in which issue is gated to hold
the junction limit, which come first in Table 17.3; how many those are is open. -/
def State.corePause (s : State) (c n : Nat) : State :=
  let g := if s.power.thermalGate then Config.number s.free % (n + 1) else 0
  let s := (if s.power.thermalGate then s.draw 1 else s).coreCycles c n
  let one (s : State) (y : StreamId) : State :=
    match (s.stream ⟨c, y⟩).state with
    | .sliced => s.stallN ⟨c, y⟩ .slice n
    | .running | .suspended => (s.stallN ⟨c, y⟩ .thermal g).stallN ⟨c, y⟩ .power (n - g)
    | _ => s
  one (one (one s .f) .b) .u

/-- One cycle of a core, which counts for a stream under a cause (R393). -/
def State.stallCycle (s : State) (i : At) (c : Cause) : State := s.corePass i.core 1 (some (i.stream, c)) false

/-- One cycle in which a stream's instruction at issue is held back (R393); it stands at issue until it is sent again. -/
def State.stall (s : State) (i : At) (c : Cause) : State :=
  (s.modStream i fun t => { t with held := some c }).stallCycle i c

/-- The cycles that a stream's instruction loses in the banks of the core store, under STORE_BANK (R90): at most `own` where
its own granules alone meet there, any number where deliveries take the banks too, and none where neither is so. How many
they are is open (DESIGN CHOICE, log entry 139). -/
def State.bankWait (s : State) (i : At) (own : Nat) : State :=
  let port := s.portBusy i.core
  if own = 0 ∧ port = false then s
  else
    let n := if port then Config.number s.free else Config.number s.free % (own + 1)
    ((s.draw 1).event i.core none evStoreConflict n).corePass i.core n (some (i.stream, .storeBank)) false

/-- The cycles that a stream waits on a translation walk, which the manual leaves open, under XLATE (R95). -/
def State.walkWait (s : State) (c : Nat) (x : Option StreamId) : State :=
  match x with
  | some y => (s.draw 1).corePass c (1 + Config.number s.free) (some (y, .xlate)) false
  | none => s

end Sys2Proof.Machine
end

