-- ==== Sys2Proof/Machine/Xlate.lean ====
section
/-! DEFINITION. Translation, the translation cache, the near cache and the accesses of a core to device virtual
memory (R91–R96, R226–R231, R435). An access is one action: its walks and fills happen inside it. -/

namespace Sys2Proof.Machine

/-- How an access ends: with a value; with a page fault at an address, the level and cause of R231; with a
denial at an address (Table 13.7); or held, to be tried again, under a stall cause. -/
inductive Res (α : Type) where
  | ok (a : α) (s : State)
  | page (s : State) (va level cause : Nat)
  | denied (s : State) (va : Nat)
  | held (s : State) (c : Cause)

/-! ### The walk (R226, R227) -/

/-- Causes of a page fault, as CAUSE of a fault record has them (Table 12.7). -/
def pfNotValid : Nat := 0
def pfMalformed : Nat := 1
def pfBlazed : Nat := 2
def pfReadOnly : Nat := 3

/-- The outcome of a walk. -/
inductive Walk where
  | ok (e : TlbEntry)
  | fail (level cause : Nat)
  deriving DecidableEq, Repr

/-- The lowest index bit of a level (Table 8.10), which is also log2 of the page a leaf there maps. -/
def levelShift : Nat → Nat
  | 1 => 39
  | 2 => 30
  | 3 => 21
  | _ => 16

/-- The entry index of a level. -/
def levelIndex (level va : Nat) : Nat := va / 2 ^ levelShift level % (if level = 4 then 32 else 512)

/-- Is an entry malformed at its level (R227)? -/
def malformed (level e : Nat) : Bool :=
  let leaf := bit 1 e
  let pa := bits 38 8 e * 256
  (leaf && level == 1) || (!leaf && level == 4) || decide (bits 7 4 e ≠ 0) || decide (bits 63 39 e ≠ 0) ||
  (if leaf then decide (pa % 2 ^ levelShift level ≠ 0)
   else decide (pa % (if level = 3 then 256 else 4096) ≠ 0))

/-- A walk from the table at `tab`, with the addresses of the entries it read; `k` bounds the levels left. The replies of
the lines in `bad` were marked on their way (R236). -/
def State.walkFrom (s : State) (bad : NSet) (va : Nat) (write : Bool) : Nat → Nat → Nat → Walk × List Nat
  | 0, level, _ => (.fail level pfMalformed, [])
  | k + 1, level, tab =>
    let a := tab + 8 * levelIndex level va
    let e := s.memNat a 8
    if s.memMark a 8 || NSet.has bad (a / 64) then (.fail level pfBlazed, [a])
    else if !bit 0 e then (.fail level pfNotValid, [a])
    else if malformed level e then (.fail level pfMalformed, [a])
    else
      let pa := bits 38 8 e * 256
      if bit 1 e then
        let n := levelShift level
        if write && !bit 2 e then (.fail level pfReadOnly, [a])
        else (.ok ⟨va / 2 ^ n, n, pa / 2 ^ n, bit 2 e, bit 3 e⟩, [a])
      else
        let (w, as) := s.walkFrom bad va write k (level + 1) pa
        (w, a :: as)

/-- A walk of tenancy `t`'s page tables (R226, R227). -/
def State.walk (s : State) (t va : Nat) (write : Bool) (bad : NSet := []) : Walk × List Nat :=
  let root := s.reg (0x500 + 8 * t)
  if !bit 0 root then (.fail 0 pfNotValid, []) else s.walkFrom bad va write 4 1 (bits 38 12 root * 4096)

/-- A walk that a core makes: an entry whose reply was marked on its way was read blazed (R227, R236). -/
def State.walkBy (s : State) (c va : Nat) (write : Bool) : Walk × List Nat :=
  s.walk (s.tenOf c) va write (s.core c).replyBz

/-- Was the reply of a line to the core marked on its way (R236)? -/
def State.readBad (s : State) (c l : Nat) : Bool := NSet.has (s.core c).replyBz l

/-- The replies of lines have come to the core, with the marks they got on their way. -/
def State.replied (s : State) (c : Nat) (ls : List Nat) : State :=
  s.modCore c fun k => { k with replyBz := ls.foldl NSet.sub k.replyBz }

/-- The reads of a walk's entries (R226). -/
def State.touchEntries (s : State) (as : List Nat) : State := as.foldl (fun s a => s.touch a 8) s

/-! ### The translation cache (R95) -/

/-- Does an entry map the address? -/
def TlbEntry.maps (e : TlbEntry) (va : Nat) : Bool := va / 2 ^ e.size == e.vbase

/-- The physical address an entry gives. -/
def TlbEntry.pa (e : TlbEntry) (va : Nat) : Nat := e.pbase * 2 ^ e.size + va % 2 ^ e.size

/-- The cached entry that serves an access; one without WRITE does not serve a write (log entry 14). -/
def CoreState.lookup (k : CoreState) (va : Nat) (write : Bool) : Option TlbEntry :=
  k.tlb.find? fun e => e.maps va && (e.write || !write)

/-- An entry put into the cache, replacing one that maps the same page; of 64, a free choice gives way (R95). -/
def State.tlbAdd (s : State) (c : Nat) (e : TlbEntry) : State :=
  let old := (s.core c).tlb.filter fun x => !(x.size == e.size && x.vbase == e.vbase)
  if old.length < 64 then s.modCore c fun k => { k with tlb := e :: old }
  else (s.modCore c fun k => { k with tlb := e :: old.eraseIdx (Config.victim s.free 64 % 64) }).draw 1

/-- The translation of an address for a unit of a core (R95, R226): from the cache, or by a walk that fills it. The
stream waits on the walk under XLATE, unless it is its DMA that walks; entries in a stack whose accesses are held cannot be
read yet (R176), nor without a credit at the local port (R238). The reads of a walk take no entry of the tracker (DESIGN
CHOICE, log entry 52). -/
def State.translate (s : State) (c : Nat) (x : Option StreamId) (va : Nat) (write : Bool) (waits : Bool := true) : Res Nat :=
  match (s.core c).lookup va write with
  | some e => .ok (e.pa va) s
  | none =>
    let (w, as) := s.walkBy c va write
    if (as.any fun a => s.memHeld a || s.cutOff c a) || (!as.isEmpty && !s.canInject c 1) then .held s .xlate
    else
      let s := (((s.event c x evXlateMiss 1).touchEntries as).walkWait c (if waits then x else none)).replied c
        (as.map (· / 64))
      match w with
      | .fail level cause => .page s va level cause
      | .ok e => .ok (e.pa va) (s.tlbAdd c e)

/-- May run-ahead read at an address: through a cached translation, with RA unless the page is the one in which row or
line at `va0` is in progress (R229)? -/
def State.mayRunAhead (s : State) (c va0 va : Nat) (demand : Bool) : Option Nat :=
  match (s.core c).lookup va false with
  | some e => if e.ra || (demand && e.maps va0) then some (e.pa va / 64) else none
  | none => none

/-! ### The near cache (R91, R435) -/

/-- The line of a core's near cache at a line number. -/
def State.ncLine (s : State) (c l : Nat) : Option NcLine := SMap.get? (s.core c).nc l

/-- A line of the near cache put or replaced. -/
def State.ncPut (s : State) (c l : Nat) (v : NcLine) : State :=
  s.modCore c fun k => { k with nc := SMap.put k.nc l v }

/-- A line of the near cache dropped. -/
def State.ncDrop (s : State) (c l : Nat) : State := s.modCore c fun k => { k with nc := SMap.del k.nc l }

/-- Is a line of the near cache dirty? -/
def State.ncDirty (s : State) (c l : Nat) : Bool := (s.ncLine c l).any fun v => v.dirty

/-- Would a write-back of the line be held: it is dirty, and its stack holds accesses or a halted node cuts it off (R176,
R187, R236)? -/
def State.dirtyHeld (s : State) (c l : Nat) : Bool := s.ncDirty c l && (s.memHeld (64 * l) || s.cutOff c (64 * l))

/-- Can a line that no stream's instruction writes back not be written back now: it is held, no common entry of the tracker
is free, or the local port has no credit (R96, R238)? -/
def State.writeWaits (s : State) (c l : Nat) : Bool :=
  s.dirtyHeld c l || (s.ncDirty c l && (!s.poolFree c || !s.canInject c 1))

/-- Was the core's write of a line marked on its way (R236)? -/
def State.wroteBad (s : State) (c l : Nat) : Bool := NSet.has (s.core c).wbBz l

/-- The mark that a core's write packet got on its way falls on the line that it wrote (R236), unless its stack discards the
write (R177). -/
def State.writeMark (s : State) (c l : Nat) : State :=
  if s.wroteBad c l then
    let s := s.modCore c fun k => { k with wbBz := NSet.sub k.wbBz l }
    if (s.stack (stackOfLine l)).state = stFailed then s else { s with mem := { s.mem with blz := NSet.add s.mem.blz l } }
  else s

/-- A write-back of one dirty line, checked as W; a denial discards it and sends a fault record (R435, Table
13.7). The line stays, clean. The request takes an entry of the tracker (R96), and its packet may have got a mark on its
way (R236). -/
def State.writeBack (s : State) (c l : Nat) : State :=
  match s.ncLine c l with
  | none => s
  | some v =>
    if !v.dirty then s
    else
      let m := masterTen (s.tenOf c)
      let s := (s.request c 1).event c none evNcWriteback 1
      let bz := v.bz || s.wroteBad c l
      let s := s.modCore c fun k => { k with wbBz := NSet.sub k.wbBz l }
      if s.memOk m (64 * l) 64 true then
        (s.memWrite (64 * l) (bytesOf 64 v.data.toNat) bz).ncPut c l { v with dirty := false }
      else
        ((s.memDenied m (64 * l) true).sendFault
          ⟨0, codeAccess, s.tenOf c, c + 0x1000, 64 * l, 0, true, 0, 0, 0⟩).ncDrop c l

/-- The lines of the near cache in the set of line `l` (R91: 512 sets). -/
def State.ncSet (s : State) (c l : Nat) : List Nat :=
  ((s.core c).nc.filter fun p => p.1 % 512 == l % 512).map Prod.fst

/-- The line of a full set that gives way to line `l`: a free choice of its four. -/
def State.ncVictim (s : State) (c l : Nat) : Option Nat :=
  let ls := s.ncSet c l
  if ls.length < 4 then none else some (ls.getD (Config.victim s.free 4 % 4) 0)

/-- Room made in the set of line `l`: the line that gives way is written back and leaves. -/
def State.ncRoom (s : State) (c l : Nat) : State :=
  match s.ncVictim c l with
  | none => s
  | some v => ((s.writeBack c v).ncDrop c v).draw 1

/-- Can no room be made for line `l` yet, since the write-back of the line that gives way is held? -/
def State.roomHeld (s : State) (c l : Nat) : Bool := (s.ncVictim c l).any (s.dirtyHeld c)

/-- A permitted fill: the line arrives with its mark, which the reply may also get on its way (R236), and both
grants as the windows give them (R435). -/
def State.ncFill (s : State) (c l : Nat) (write : Bool) : State :=
  let m := masterTen (s.tenOf c)
  let other := s.memOk m (64 * l) 64 (!write)
  let v := s.lineView l
  let bz := v.2 || s.readBad c l
  let s := (((s.request c 1).touchLine l).ncRoom c l).replied c [l]
  let s := s.ncPut c l
    ⟨BitVec.ofNat 512 (packBytes v.1), false, bz, if write then other else true, if write then true else other⟩
  if bz then s.event c none evBlazeArrived 1 else s

/-- A stream's access demands a line (R229): the run that it ascends grows, or a new one begins. -/
def State.demand (s : State) (i : At) (va : Nat) (na : Bool) : State :=
  if na then s
  else s.modCore i.core fun k =>
    let r := SMap.get (0, 0) k.runs i.stream.idx
    let n := if 0 < r.2 ∧ r.1 + 1 = va / 64 then r.2 + 1 else if 0 < r.2 ∧ r.1 = va / 64 then r.2 else 1
    { k with runs := SMap.put k.runs i.stream.idx (va / 64, n) }

/-- A near-cache event of a line that a stream's access makes ready: one that it made ready before, for a part of the access
that was then held, counts nothing again; one that was suspended begins anew (R395; DESIGN CHOICE, log entry 160). -/
def State.countLine (s : State) (i : At) (va e : Nat) : State :=
  if NSet.has (s.stream i).prepared (va / 64) then s else s.event i.core (some i.stream) e 1

/-- A line of a stream's access is ready. -/
def State.prepare (s : State) (i : At) (va : Nat) : State :=
  s.modStream i fun t => { t with prepared := NSet.add t.prepared (va / 64) }

/-- A line made ready for an access at address `va` by a stream: a hit with its grant, or a checked fill; with
NA, a missing line is only checked (R83, R435). Its request takes an entry of the tracker whether its stack permits it or not
(R96). The value is the line number. -/
def State.prepLine (s : State) (i : At) (va : Nat) (write na : Bool) : Res Nat :=
  match s.translate i.core (some i.stream) va write with
  | .page s va l c => .page s va l c
  | .denied s va => .denied s va
  | .held s c => .held s c
  | .ok pa s =>
    let l := pa / 64
    match s.ncLine i.core l with
    | some v =>
      let s := s.countLine i va evNcHit
      if (if write then v.w else v.r) then .ok l ((s.prepare i va).demand i va na)
      else .denied (s.memDenied (masterTen (s.tenOf i.core)) (64 * l) write) va
    | none =>
      match s.requestHeld i pa with
      | some c => .held s c
      | none =>
        if !na && s.roomHeld i.core l then .held (s.draw 1) .memLimit
        else
          let s := s.countLine i va evNcMiss
          let m := masterTen (s.tenOf i.core)
          if !s.memOk m (64 * l) 64 write then .denied ((s.request i.core 1).memDenied m (64 * l) write) va
          else if na then .ok l ((s.request i.core 1).prepare i va)
          else .ok l (((s.ncFill i.core l write).prepare i va).demand i va na)

/-- Every line of a run of bytes made ready, in order of address; the access that has them all is whole. -/
def State.prepLines (s : State) (i : At) (write na : Bool) : List Nat → Res (List Nat)
  | [] => .ok [] (s.modStream i fun t => { t with prepared := [] })
  | va :: vas =>
    match s.prepLine i va write na with
    | .page s va l c => .page s va l c
    | .denied s va => .denied s va
    | .held s c => .held s c
    | .ok l s =>
      match s.prepLines i write na vas with
      | .page s va l c => .page s va l c
      | .denied s va => .denied s va
      | .held s c => .held s c
      | .ok ls s => .ok (l :: ls) s

/-- The first address of each line that `n` bytes from `va` touch. -/
def lineStarts (va n : Nat) : List Nat := (unitsOf 64 va n).map fun l => if 64 * l < va then va else 64 * l

/-- A ready line as an access reads it: from the near cache, or from the stack. -/
def State.readyLine (s : State) (c l : Nat) : List Byte × Bool :=
  match s.ncLine c l with
  | some v => (bytesOf 64 v.data.toNat, v.bz)
  | none => s.lineView l

/-- Ready lines that are not in the near cache are read at the stack. -/
def State.touchReady (s : State) (c : Nat) (ls : List Nat) : State :=
  ls.foldl (fun s l => if (s.ncLine c l).isSome then s else s.touchLine l) s

/-- A write into a ready line (R84): into the near cache, or at the stack. -/
def State.writeReady (s : State) (c : Nat) (bz : Bool) (l : Nat) (p : Nat × Nat × List Byte) : State :=
  let (_, off, bs) := p
  match s.ncLine c l with
  | some v =>
    let old := bytesOf 64 v.data.toNat
    let new := old.take off ++ bs ++ old.drop (off + bs.length)
    s.ncPut c l { v with
      data := BitVec.ofNat 512 (packBytes new), dirty := true,
      bz := if bz then true else if bs.length = 64 then false else v.bz }
  | none => (s.writePiece bz (l, off, bs)).writeMark c l

/-- A read of `n` bytes of device virtual memory by a stream: the bytes and whether any line was marked. -/
def State.vmRead (s : State) (i : At) (va n : Nat) (na : Bool) : Res (List Byte × Bool) :=
  match s.prepLines i false na (lineStarts va n) with
  | .page s va l c => .page s va l c
  | .denied s va => .denied s va
  | .held s c => .held s c
  | .ok ls s =>
    let vs := ls.map (s.readyLine i.core)
    let far := ls.filter fun l => (s.ncLine i.core l).isNone
    .ok (((vs.map Prod.fst).flatten.drop (va % 64)).take n, vs.any Prod.snd || far.any (s.readBad i.core))
      ((s.touchReady i.core ls).replied i.core far)

/-- The bytes of one run, at offset `r.1` from `va`, written into the ready lines `ls` of the access. -/
def State.writeRun (s : State) (c va : Nat) (bz : Bool) (ls : List Nat) (r : Nat × List Byte) : State :=
  (piecesOf 64 (va + r.1) r.2).foldl
    (fun s p => s.writeReady c bz (ls.getD (p.1 - va / 64) 0) p) s

/-- A write of runs of bytes within the `n` bytes from `va` of device virtual memory by a stream: every line is
made ready for a write first. -/
def State.vmWrite (s : State) (i : At) (va n : Nat) (runs : List (Nat × List Byte)) (bz na : Bool) : Res Unit :=
  match s.prepLines i true na (lineStarts va n) with
  | .page s va l c => .page s va l c
  | .denied s va => .denied s va
  | .held s c => .held s c
  | .ok ls s => .ok () (runs.foldl (fun s r => s.writeRun i.core va bz ls r) s)

end Sys2Proof.Machine
end

