-- ==== Sys2Proof/Machine/Issue.lean ====
section
/-! DEFINITION. The issue of an instruction: when a stream can issue, and what each way of ending does to it
(R62–R69, R341, R342, R393). -/

namespace Sys2Proof.Machine

/-- How an instruction at issue ends. -/
inductive Eff where
  /-- It issues with this effect and the stream goes on with the next instruction. -/
  | done (s : State)
  /-- It issues with this effect and the stream goes on at an address. -/
  | goto (s : State) (pc : BitVec 21)
  /-- It issues, and the stream stays at it: it waits, or is held. -/
  | stay (s : State)
  /-- It faults at issue, with no effect (R65). -/
  | fault (code addr : Nat)
  /-- It stops in FAULTED after the effects in this state (Table 13.7). -/
  | faultAfter (s : State) (code addr : Nat)
  /-- A page fault suspends the stream (R231). -/
  | page (s : State) (va : Nat) (write : Bool) (level cause : Nat)
  /-- It has begun and stands part-way, at a boundary where a pause or a switch may stop it (R87). -/
  | part (s : State)
  /-- It cannot issue in this cycle, which counts under a cause (R393). -/
  | stall (s : State) (c : Cause)
  /-- It carries a reserved value (R63). -/
  | illegal

/-- Does the stream stand at an instruction: a core of a resident tenancy outside a switch and a reset, that has passed
its self-test (R387), the stream RUNNING, and no instruction of it waiting or held? -/
def State.atIssue (s : State) (i : At) : Bool :=
  decide (i.core < s.coreCount) && (s.core i.core).res.isSome && !(s.core i.core).switching &&
  !(s.core i.core).resetBusy && !NSet.has s.boot.selftest i.core && decide ((s.stream i).state = .running) && (s.stream i).wait.isNone &&
  (s.stream i).heldTcfg.isNone

/-- Can the stream issue in every cycle: it stands at an instruction and issue is not gated? -/
def State.canIssue (s : State) (i : At) : Bool := s.atIssue i && !s.gating

/-- Is the instruction at the program counter in a marked granule (R341)? -/
def State.fetchBites (s : State) (i : At) : Bool :=
  NSet.has (s.core i.core).img.storeBlz ((s.stream i).pc.toNat / 64)

/-- The stream moved to the next instruction; after 0x1F_FFF8 comes 0 (R436). -/
def State.advance (s : State) (i : At) : State := s.modStream i fun t => { t with pc := t.pc + 8, slotWait := none, held := none, prepared := [] }

/-- An instruction counted as issued (Table 17.5). -/
def State.issued (s : State) (i : At) : State := s.event i.core (some i.stream) evInstr 1

/-- The stream suspended by a page fault, with its one fault record (R231); a pause asked for before moves it on to
PAUSED (R69). -/
def State.suspend (s : State) (i : At) (va : Nat) (write : Bool) (level cause : Nat) : State :=
  let s := s.modStream i fun t =>
    { t with state := .suspended, faultCode := 0x10, faddr := BitVec.ofNat 48 va, page := some ⟨va, write⟩, held := none, prepared := [] }
  (s.sendFault ⟨0, codePageFault, s.tenOf i.core, engineOf i, va, 0, write, level, cause, 0⟩).pauseAsked i

/-- The state after an instruction ends; at the boundary a fault from outside that has arrived is taken (R432). -/
def State.finish (s : State) (i : At) : Eff → State
  | .done t => ((t.advance i).issued i).settle (s.tenOf i.core) i
  | .goto t pc => ((t.modStream i fun x => { x with pc := pc }).issued i).settle (s.tenOf i.core) i
  | .stay t => t.issued i
  | .fault code addr => (s.faultStream i code addr).settle (s.tenOf i.core) i
  | .faultAfter t code addr => (t.faultStream i code addr).settle (s.tenOf i.core) i
  | .page t va w l c => (t.suspend i va w l c).settle (s.tenOf i.core) i
  | .part t => t
  | .stall t c => t.stall i c
  | .illegal => (s.modStream i fun x => { x with state := .illegal }).settle (s.tenOf i.core) i

/-- A stream's instruction in a cycle that is not gated: one in a marked granule bites (R341, R342). -/
def State.issueNow (s : State) (i : At) (body : State → Eff) : State :=
  if s.fetchBites i then s.finish i (.fault codeBlazeBite 0) else s.finish i (body s)

/-- A stream issues an instruction with the given effect. A stream that cannot issue leaves all as it is. While the power
manager gates issue, whether this cycle is gated is open: a gated one counts under THERMAL or POWER (R394, R422, R423). -/
def issue (i : At) (s : State) (body : State → Eff) : Out :=
  if s.canIssue i then .next (s.issueNow i body)
  else if s.atIssue i then
    (if Config.coin s.free then .next ((s.draw 1).stallCycle i s.gateCause) else .next ((s.draw 1).issueNow i body))
  else .next s

/-! ### The scalar unit and the vector engine (R121) -/

/-- The units of a core that accept one instruction in a cycle. -/
inductive ExecUnit where
  | scalar | vector
  deriving DecidableEq, Repr

/-- The stream whose instruction the unit has accepted in the present cycle. -/
def CoreState.takenBy (k : CoreState) : ExecUnit → Option StreamId
  | .scalar => k.scalarBy
  | .vector => k.vectorBy

/-- The unit accepts an instruction of a stream. -/
def CoreState.take (k : CoreState) (u : ExecUnit) (x : StreamId) : CoreState :=
  match u with
  | .scalar => { k with scalarBy := some x }
  | .vector => { k with vectorBy := some x }

/-- The unit of a core accepts a stream's instruction. -/
def State.takeUnit (s : State) (i : At) (u : ExecUnit) : State := s.modCore i.core (·.take u i.stream)

/-- Does stream `y` go before stream `x` at a unit: it owns the slot, or `x` does not and `y` comes first in F, B, U? -/
def CoreState.goesFirst (k : CoreState) (y x : StreamId) : Bool :=
  k.slotStream != some x && (k.slotStream == some y || decide (y.idx < x.idx))

/-- Is the vector engine still occupied by an instruction that it accepted in an earlier cycle (R135)? -/
def CoreState.unitBusy (k : CoreState) : ExecUnit → Bool
  | .scalar => false
  | .vector => decide (0 < k.vectorLeft)

/-- An instruction that the unit does not take in this cycle: it counts under what else holds it back, or else under OTHER,
the last cause of Table 17.3. -/
def Eff.unitTaken (s : State) : Eff → Eff
  | .stall t c => .stall t c
  | _ => .stall s .other

/-- An instruction for a unit: accepted, unless the unit is still occupied. -/
def forUnit (u : ExecUnit) (i : At) (body : State → Eff) (s : State) : Eff :=
  if (s.core i.core).unitBusy u then (body s).unitTaken s else body (s.takeUnit i u)

/-- The issue of an instruction for a unit. Where the unit has accepted another stream's instruction in this cycle, and that
stream goes first, this one loses the cycle; where the unit has accepted one of this stream, or of a stream that this one
would have gone before, the next cycle begins (R121; log entry 137). -/
def issueOn (u : ExecUnit) (i : At) (s : State) (body : State → Eff) : Out :=
  match (s.core i.core).takenBy u with
  | none => issue i s (forUnit u i body)
  | some y =>
    if !s.canIssue i then issue i s (forUnit u i body)
    else if y ≠ i.stream ∧ (s.core i.core).goesFirst y i.stream = true then issue i s fun s => (body s).unitTaken s
    else issue i (s.corePass i.core 1 none false) (forUnit u i body)

/-- The vector engine is occupied for `n` cycles from the present one on (R135). -/
def State.occupyVector (s : State) (c n : Nat) : State := s.modCore c fun k => { k with vectorLeft := n - 1 }

/-- An instruction's `n` cycles of the vector engine: counted for its stream (Table 17.5), and beyond the present one the
engine stays occupied (R135). -/
def State.vectorCycles (s : State) (i : At) (n : Nat) : State :=
  let s := s.event i.core (some i.stream) evVector n
  if n ≤ 1 then s else s.occupyVector i.core n

/-- A completed instruction with its cycles of the vector engine. -/
def Eff.vectorBusy (i : At) (n : Nat) : Eff → Eff
  | .done s => .done (s.vectorCycles i n)
  | e => e

/-- The issue of a vector instruction: the engine accepts one in a core cycle (R121). -/
def issueVector (i : At) (s : State) (body : State → Eff) : Out :=
  issueOn .vector i s fun s => (body s).vectorBusy i 1

/-- The issue of an instruction of the scalar unit. -/
def issueScalar (i : At) (s : State) (body : State → Eff) : Out := issueOn .scalar i s body

/-- An access's result carried on, or the end it forces on its instruction. -/
def Res.bind {α : Type} (r : Res α) (write : Bool) (f : α → State → Eff) : Eff :=
  match r with
  | .ok a s => f a s
  | .page s va l c => .page s va write l c
  | .denied s va => .faultAfter s codeAccess (va % 2 ^ 48)
  | .held s c => .stall s c

end Sys2Proof.Machine
end

