-- ==== Sys2Proof/Machine/Operands.lean ====
section
/-! DEFINITION. The operand forms that the instruction classes share: sign-extended immediates, the V form's
predicate and format, address ranges, and the reads and writes of either address space (Tables 3.5, R61, R433). -/

namespace Sys2Proof.Machine

/-- IMM32, sign-extended to 64 bits. -/
def sext (imm : Imm) : Word := imm.signExtend 64

/-- Is a run of `n` bytes from `a` within the range of a space: the core store or device virtual memory (R433)? -/
def inSpace (space : Bool) (a n : Nat) : Bool := decide (a + n ≤ if space then 2 ^ 48 else 2 ^ 21)

/-- The low 48 bits of an address, as SEQ_FADDR holds them. -/
def low48 (a : Nat) : Nat := a % 2 ^ 48

/-- The address of row `r` of a `tld` or `tst` (R83): row 0 modulo 2^64, the stride added without wrapping. -/
def Stream.rowAddr (t : Stream) (o : TileMemOp) (r : Nat) : Int :=
  ((t.sreg o.sBase).val + sext o.imm).toNat + r * (t.sreg o.sStride).val.toInt

/-- An access of a stream to the core store meets what deliveries from Flume and DMA take of its banks (R90). -/
def State.meet (s : State) (i : At) (space : Bool) : State := if space then s else s.bankWait i 0

/-- A read of `n` bytes of either space: the bytes and the mark. -/
def State.load (s : State) (i : At) (space : Bool) (a n : Nat) (na : Bool) : Res (List Byte × Bool) :=
  if space then s.vmRead i a n na
  else
    let m := (s.core i.core).img
    .ok (m.storeRead a n, m.storeMark a n) s

/-- A write to either space (R84) of runs of bytes, at offsets from `a`, within `n` bytes. -/
def State.storeRuns (s : State) (i : At) (space : Bool) (a n : Nat) (runs : List (Nat × List Byte))
    (bz na : Bool) : Res Unit :=
  if space then s.vmWrite i a n runs bz na
  else .ok () (s.modImg i.core fun m => runs.foldl (fun m r => m.storeWrite (a + r.1) r.2 bz) m)

/-- A write of bytes to either space (R84). -/
def State.storeTo (s : State) (i : At) (space : Bool) (a : Nat) (bs : List Byte) (bz na : Bool) : Res Unit :=
  s.storeRuns i space a bs.length [(0, bs)] bz na

/-- The maximal runs of active bytes, with their offsets. -/
def activeRuns : Nat → List (Byte × Bool) → List (Nat × List Byte)
  | _, [] => []
  | k, (b, true) :: bs =>
    match activeRuns (k + 1) bs with
    | (j, r) :: rs => if j = k + 1 then (k, b :: r) :: rs else (k, [b]) :: (j, r) :: rs
    | [] => [(k, [b])]
  | k, (_, false) :: bs => activeRuns (k + 1) bs

/-- The predicate byte mask of the V form: all ones when unpredicated; none for a reserved value (R72). -/
def predMask (t : Stream) (pred : BitVec 4) (pneg : Bool) : Option (BitVec 256) :=
  if pred = 0 then (if pneg then none else some (BitVec.allOnes 256))
  else if pred.toNat < 8 then none
  else
    let p := t.preg (pred.toNat % 8)
    some (if pneg then ~~~p else p)

/-- Is the lane with lowest byte `j` active (R61)? -/
def laneOn (mask : BitVec 256) (j : Nat) : Bool := mask.getLsbD j

/-- The arithmetic formats of the vector engine (R76). -/
def arithFmt (code : Nat) : Option Fmt :=
  match Fmt.ofCode code with
  | some .fp32 => some .fp32
  | some .bf16 => some .bf16
  | some .fp16 => some .fp16
  | some .int32 => some .int32
  | some .int8 => some .int8
  | _ => none

/-- The formats that `vcvt`, `vld` and `vst` name (R76). -/
def moveFmt (code : Nat) : Option Fmt :=
  match Fmt.ofCode code with
  | some .e3m2 => none
  | some .e2m1 => none
  | x => x

/-- The lanes of a register, as bit patterns. -/
def lanesOf (f : Fmt) (v : VData) : List Nat := unpack f.width f.lanes v.toNat

/-- A register packed from lanes. -/
def ofLanes (f : Fmt) (ls : List Nat) : VData := BitVec.ofNat 2048 (pack f.width ls)

/-- The place of a format in the counts of Table 14.3 (R347). -/
def nfPlace (f : Fmt) : Nat :=
  match f.element with
  | .fp32 => 0
  | .bf16 => 1
  | .fp16 => 2
  | .e4m3 => 3
  | .e5m2 => 4
  | .e3m2 => 5
  | .e2m1 => 6
  | _ => 7

/-- The captured arithmetic control of a stream (Table 2.6). -/
def Stream.strict (t : Stream) : Bool := t.arith.getLsbD 0

/-- The rounding mode that RMODE names for free draw `n` (Table 2.6, R55). -/
def Stream.rmodeAt (t : Stream) (n : Nat) : RMode :=
  match bits 2 1 t.arith.toNat with
  | 0 => .rne
  | 1 => .rtz
  | _ => .sr (Config.rho n % 65536)

/-- The narrowing control of a stream for free draw `n`. -/
def Stream.ctl (t : Stream) (n : Nat) : Ctl :=
  ⟨t.strict, t.rmodeAt n, t.arith.getLsbD 3, t.arith.getLsbD 4⟩

/-- The arithmetic control as a write leaves it: RMODE 0b11 leaves that field unchanged (Table 2.6). -/
def arithWrite (old new : BitVec 5) : BitVec 5 :=
  if bits 2 1 new.toNat = 3 then BitVec.ofNat 5 (setBits 2 1 new.toNat (bits 2 1 old.toNat)) else new

end Sys2Proof.Machine
end

