-- ==== Sys2Proof/Machine/Detector.lean ====
section
/-! DEFINITION. The loss-spike detector (R351, R352). Every step of its arithmetic is one FP32 operation, rounded to
nearest even with subnormals kept (DESIGN CHOICE, log entry 30). -/

namespace Sys2Proof.Machine

/-- An FP32 value from its bits. -/
def f32 (w : Nat) : FVal := readElement true .fp32 w

/-- An exact value rounded to FP32. -/
def rn32 (v : FVal) : FVal := f32 (result true .fp32 v).bits

/-- The bits of an FP32 value. -/
def f32Bits (v : FVal) : Nat := (result true .fp32 v).bits

/-- FP32 sum, difference and product. -/
def add32 (a b : FVal) : FVal := rn32 (addVal true a b)
def sub32 (a b : FVal) : FVal := add32 a b.negate
def mul32 (a b : FVal) : FVal := rn32 (mulVal true a b)

/-- LOSS_CFG, LOSS_EST and LOSS_STAT of a tenancy (Table 14.9). -/
def lossCfg (t : Nat) : Nat := lookBase + 0x240 + 8 * t
def lossEst (t : Nat) : Nat := lookBase + 0x280 + 8 * t
def lossStat (t : Nat) : Nat := lookBase + 0x2A0 + 8 * t

/-- A spike or a non-finite sample counted, with its event of input 7. -/
def State.spike (s : State) (t : Nat) : State := (s.count (lossStat t) 47 32 1).lookout 7 1

/-- Is a sample a spike (R352, case 2)? -/
def State.isSpike (s : State) (t : Nat) (d : FVal) : Bool :=
  let c := s.reg (lossCfg t)
  let z := f32 (bits 31 0 c)
  let var := f32 (s.field (lossEst t) 63 32)
  decide (bits 47 40 c ≤ s.field (lossStat t) 31 0) &&
  (bit 48 c || ltVal (.zero false) d) && !(mul32 (mul32 z z) var).isNan && ltVal (mul32 (mul32 z z) var) (mul32 d d)

/-- A sample folded in (R352, case 3). -/
def State.foldLoss (s : State) (t : Nat) (x d : FVal) : State :=
  let first := decide (s.field (lossStat t) 31 0 = 0)
  let k := max 1 (bits 35 32 (s.reg (lossCfg t)))
  let a : FVal := .fin false 1 (-(k : Int))
  let rest : FVal := .fin false (2 ^ k - 1) (-(k : Int))
  let mean := f32 (s.field (lossEst t) 31 0)
  let var := f32 (s.field (lossEst t) 63 32)
  let mean' := if first then x else add32 mean (mul32 a d)
  let var' := if first then .zero false else mul32 rest (add32 var (mul32 a (mul32 d d)))
  (s.setReg (lossEst t) (f32Bits mean' + 2 ^ 32 * f32Bits var')).count (lossStat t) 31 0 1

/-- A loss sample of a tenancy is judged and folded in (R352). -/
def State.lossSample (s : State) (t x : Nat) : State :=
  let v := f32 x
  if v.isNan || v.isInf then (s.spike t).count (lossStat t) 63 48 1
  else
    let d := sub32 v (f32 (s.field (lossEst t) 31 0))
    if s.isSpike t d then s.spike t else s.foldLoss t v d

/-- A `sy.set` that a tenancy's operation performs on its LOSS_OBJ gives a sample (R351). -/
def State.lossSet (s : State) (ten obj x : Nat) : State :=
  let c := s.reg (lookBase + 0x220 + 8 * ten)
  if bit 50 c && decide (bits 49 32 c = obj) then s.lossSample ten (x % 2 ^ 32) else s

end Sys2Proof.Machine
end

