-- ==== Sys2Proof/Machine/SyncBank.lean ====
section
/-! DEFINITION. The sync banks: objects, operations, refusals and registrations (R255–R263, R270–R273). -/

namespace Sys2Proof.Machine

/-- The object at an index. -/
def State.obj (s : State) (j : Nat) : SyncObj := SMap.get {} s.sync.objs j

/-- An object replaced. -/
def State.setObj (s : State) (j : Nat) (o : SyncObj) : State :=
  { s with sync := { s.sync with objs := SMap.put s.sync.objs j o } }

/-- The bank of an object (R255). -/
def bankOf (j : Nat) : Nat := j / 8192

/-- The registrations on an object, in order of arrival. -/
def State.regsOn (s : State) (j : Nat) : List SyncReg := s.sync.regs.filter fun r => r.obj == j

/-- The arrivals and the generation of a barrier (Table 10.3). -/
def SyncObj.arrivals (o : SyncObj) : Nat := bits 15 0 o.value.toNat
def SyncObj.gen (o : SyncObj) : Nat := bits 47 16 o.value.toNat

/-- A barrier with these arrivals and generation. -/
def SyncObj.setBarrier (o : SyncObj) (a g : Nat) : SyncObj :=
  { o with value := BitVec.ofNat 64 (a % 2 ^ 16 + 2 ^ 16 * (g % 2 ^ 32)) }

/-- Object types (Table 10.1). -/
def tyCounter : Nat := 0
def tySemaphore : Nat := 1
def tyBarrier : Nat := 2
def tyEvent : Nat := 3

/-- Does an operation apply to a type (Table 10.2)? -/
def opApplies (op ty : Nat) : Bool :=
  match op with
  | 0 => true
  | 1 => ty == tyCounter
  | 2 => ty == tyCounter || ty == tySemaphore
  | 3 => ty == tyCounter
  | 4 => ty == tySemaphore
  | 5 => ty == tySemaphore
  | 6 => ty == tyBarrier
  | 7 => ty == tyBarrier
  | 8 => ty == tyEvent
  | 9 => ty == tyEvent
  | 10 => ty == tyEvent
  | 11 => true
  | _ => false

/-- Is the operand of `sy.cfg` a configuration (R260 case 4, Table 10.3)? Bits of the read-only field are ignored. -/
def cfgValid (x : Nat) : Bool :=
  let ty := bits 1 0 x
  let p := bits 47 16 x
  decide (bits 15 2 x = 0) &&
  (if ty = tySemaphore then decide (1 ≤ p)
   else if ty = tyBarrier then decide (1 ≤ p) && decide (p ≤ 65535)
   else decide (p = 0))

/-- The master code under which the access tables check an operation; streams and engines are not checked there
(Table 13.5). -/
def SyncFrom.master? (src : SyncFrom) (ten : Nat) : Option Nat :=
  match src with
  | .session n => some (masterSession n)
  | .peer _ _ _ => some (masterPeer ten)
  | .waiter _ => none
  | .engine _ _ => none
  | .flume _ _ => none

/-- Do the access tables deny an operation at its bank? -/
def State.syncDenied (s : State) (o : SyncOp) : Bool :=
  match o.src.master? o.ten with
  | some m => !s.aclOk (8 + bankOf o.obj) m (o.obj % 8192) (o.op != 11)
  | none => false

/-- The refusal of an operation, by the first case of Table 10.3a that holds; 0 where none does. -/
def State.refusal (s : State) (o : SyncOp) (blazed : Bool) : Nat :=
  let j := s.obj o.obj
  let ty := j.type.toNat
  let x := o.x.toNat
  let mx := j.param.toNat
  if blazed then codeBlazeBite
  else if decide (262144 ≤ o.obj) || !s.inRange o.ten o.obj || s.syncDenied o then codeAccess
  else if !opApplies o.op ty then codeAccess
  else if o.op = 0 ∧ (cfgValid x = false ∨ s.regsOn o.obj ≠ []) then codeAccess
  else if o.op = 1 ∧ 2 ^ 64 ≤ j.value.toNat + x then codeSyncOverflow
  else if o.op = 4 ∧ mx < j.value.toNat + x then codeSyncOverflow
  else if o.op = 2 ∧ ty = tySemaphore ∧ mx < x then codeSyncOverflow
  else if o.op = 5 ∧ (x = 0 ∨ mx < x) then codeSyncOverflow
  else 0

/-- A refusal counted in its bank (Table 10.5), and in the log of denials where an access table denied it. -/
def State.countRefusal (s : State) (o : SyncOp) (code : Nat) : State :=
  let off := syncBase + 0x100 + 8 * bankOf (o.obj % 262144)
  let s := if code = codeSyncOverflow then s.count off 31 16 1
    else if code = codeAccess then s.count off 47 32 1
    else s.count off 63 48 1
  match o.src.master? o.ten with
  | some m =>
    if code = codeAccess && s.syncDenied o then s.denied (8 + bankOf (o.obj % 262144)) m (o.obj % 8192) (o.op != 11)
    else s
  | none => s

/-- An answer sent to a waiter; `State.numberWakes` makes it a message. -/
def State.wake (s : State) (w : Waiter) (ten obj : Nat) (v : Word) (kind : WakeKind := .value) : State :=
  { s with sync := { s.sync with wakes := s.sync.wakes ++
      [({ waiter := w, ten := ten, obj := obj, value := v, kind := kind } : SyncWakeMsg)] } }

/-- A registration removed. -/
def State.unregister (s : State) (r : SyncReg) : State :=
  { s with sync := { s.sync with regs := s.sync.regs.filter (· ≠ r) } }

/-- Waiters of a semaphore served in order while the value covers them (R259). -/
def State.serveSem (s : State) (j : Nat) : List SyncReg → State
  | [] => s
  | r :: rs =>
    let o := s.obj j
    if r.x.toNat ≤ o.value.toNat then
      let v := o.value - r.x
      (((s.setObj j { o with value := v }).unregister r).wake r.waiter r.ten j v).serveSem j rs
    else s

/-- The waiters whose condition holds are woken with the value they write (R258, R259, Table 10.2). -/
def State.serve (s : State) (j : Nat) : State :=
  let o := s.obj j
  let ty := o.type.toNat
  let rs := s.regsOn j
  if ty = tySemaphore then s.serveSem j rs
  else
    let go (r : SyncReg) : Option Word :=
      if ty = tyCounter then (if r.x.toNat ≤ o.value.toNat then some o.value else none)
      else if ty = tyBarrier then
        (if BitVec.ofNat 32 o.gen ≠ r.gen then some (BitVec.ofNat 64 (r.gen + 1).toNat) else none)
      else (if o.value = 1 then some 1 else none)
    rs.foldl (fun s r => match go r with
      | some v => (s.unregister r).wake r.waiter r.ten j v
      | none => s) s

/-- One arrival at a barrier (R258). -/
def State.arrive (s : State) (j : Nat) : State :=
  let o := s.obj j
  if o.param.toNat ≤ o.arrivals + 1 then s.setObj j (o.setBarrier 0 (o.gen + 1))
  else s.setObj j (o.setBarrier (o.arrivals + 1) o.gen)

/-- The waiter of an operation, if its sender is one. -/
def SyncFrom.waiter? : SyncFrom → Option Waiter
  | .waiter w => some w
  | .session _ => none
  | .peer _ _ _ => none
  | .engine _ _ => none
  | .flume _ _ => none

/-- A waiting operation: registered, and answered at once where its condition holds and no earlier waiter of a
semaphore stands before it (R259, R262). -/
def State.await (s : State) (o : SyncOp) (gen : BitVec 32) : State :=
  match o.src.waiter? with
  | some w =>
    ({ s with sync := { s.sync with regs := s.sync.regs ++ [(⟨w, o.ten, o.obj, o.op, o.x, gen⟩ : SyncReg)] } }).serve o.obj
  | none => s

/-- An operation that its bank does not refuse (Table 10.2). -/
def State.perform (s : State) (o : SyncOp) : State :=
  let j := s.obj o.obj
  match o.op with
  | 0 => s.setObj o.obj ⟨BitVec.ofNat 2 o.x.toNat, BitVec.ofNat 32 (bits 47 16 o.x.toNat), 0⟩
  | 1 => (s.setObj o.obj { j with value := j.value + o.x }).serve o.obj
  | 2 => ((s.setObj o.obj { j with value := o.x }).serve o.obj).lossSet o.ten o.obj o.x.toNat
  | 3 => s.await o 0
  | 4 => (s.setObj o.obj { j with value := j.value + o.x }).serve o.obj
  | 5 => s.await o 0
  | 6 => (s.arrive o.obj).serve o.obj
  | 7 =>
    match o.gen with
    | some g => s.await o g
    | none => ((s.await o (BitVec.ofNat 32 j.gen)).arrive o.obj).serve o.obj
  | 8 => (s.setObj o.obj { j with value := 1 }).serve o.obj
  | 9 => s.setObj o.obj { j with value := 0 }
  | 10 => s.await o 0
  | 11 =>
    match o.src.waiter? with
    | some w => s.wake w o.ten o.obj j.value
    | none => s
  | _ => s

/-- The mesh column or the ring stop of a waiter: its wakes of one operation travel as one message (R263). -/
def State.wakeGroup (s : State) (w : Waiter) : Nat :=
  match s.waiterNode w with
  | .site n => n / 20
  | .stop t => 32 + t

/-- The wakes of an operation made messages: one for each column and for each stop (R263). -/
def State.numberWakes (s : State) : State :=
  let gs := ((s.sync.wakes.filter fun w => w.id == 0).map fun w => s.wakeGroup w.waiter).eraseDups
  { s with
    sync := { s.sync with wakes := s.sync.wakes.map fun w =>
      if w.id = 0 then { w with id := s.noc.nextId + gs.idxOf (s.wakeGroup w.waiter) } else w }
    noc := { s.noc with nextId := s.noc.nextId + gs.length } }

/-- An operation at its bank: performed with code 0, or refused with a code and counted (R260). -/
def State.atBank (s : State) (o : SyncOp) (blazed : Bool) : State × Nat :=
  let code := s.refusal o blazed
  if code = 0 then ((s.perform o).numberWakes, 0) else (s.countRefusal o code, code)

/-- The kind and number by which a fault record names a refused engine (R261). -/
def Waiter.engine : Waiter → Nat × Nat
  | .stream i => (0, engineOf i)
  | .dma c => (1, c + 0xC00)
  | .flume e _ => (2, e)
  | .coll e _ _ => (3, e)

/-- A refusal reported to the engine's tenancy (R261). -/
def State.engineRefused (s : State) (o : SyncOp) (kind id code : Nat) (wait : Bool) : State :=
  s.sendFault ⟨5, code, o.ten, id, o.obj, kind + 256 * b2n wait, false, 0, 0, 0⟩

/-- A refusal on the path of its issuer (R261): an answer to the stream, a fault record for an
engine, or a refusal that goes back to a peer. -/
def State.reportRefusal (s : State) (o : SyncOp) (code : Nat) : State :=
  match o.src with
  | .waiter (.stream i) => (s.wake (.stream i) o.ten o.obj 0 (.refused code)).numberWakes
  | .waiter w => s.engineRefused o w.engine.1 w.engine.2 code true
  | .engine kind id => s.engineRefused o kind id code false
  | .flume eng _ => s.engineRefused o 2 eng code false
  | .session _ => s
  | .peer dev seq _ => { s with fab := { s.fab with refusals := s.fab.refusals ++ [(dev, seq, code)] } }

end Sys2Proof.Machine
end

