-- ==== Sys2Proof/Machine/SyncOps.lean ====
section
/-! DEFINITION. The Y class but `sy.rmt`, and the messages at a bank (R257–R267). -/

namespace Sys2Proof.Machine

/-- Does a stream wait for the acknowledgement of a `sy.rmt` (R267, R269)? -/
def State.rmtOut (s : State) (i : At) : Bool :=
  (s.fab.express.any fun x => x.src == some i) || s.fab.paths.any fun q => q.2.unacked.any fun f => f.srcs.contains i

/-- Does an earlier access of the stream stand between its sending and its performance: a sync operation, here or at
a peer, or a mark on its way to a Tally unit (R158, R267)? -/
def State.memBusy (s : State) (i : At) : Bool :=
  s.sync.ops.any (fun o => o.src == .waiter (.stream i)) || s.tally.msgs.any (fun m => m.src == i) || s.rmtOut i

/-- Must an instruction that fences wait: an earlier access is not complete, or a notice is not acknowledged (R267,
R349)? -/
def State.fenceBusy (s : State) (i : At) : Bool := s.memBusy i || s.notice i

/-- A Y-class instruction at issue (R241, R257, R261, R267): its reserved field, its bites, its fence and its admission
to the control plane; `k` receives the object and the operand. -/
def syIssue (i : At) (o : SyOp) (k : State → Nat → Word → Eff) (s : State) : Out :=
  issue i s fun s =>
    let t := s.stream i
    let obj := t.sreg o.sObj
    let v := t.sreg o.sVal
    if o.rop ≠ 0 then .illegal
    else if obj.bz || v.bz then .fault codeBlazeBite 0
    else if (o.rel && s.fenceBusy i) || s.planeFull i.core then .stall s .sync
    else k s (obj.val.toNat % 2 ^ 18) (v.val + sext o.imm)

/-- A Y-class instruction that retires once sent. -/
def sySend (i : At) (o : SyOp) (op : Nat) (s : State) : Out :=
  syIssue i o (fun s obj x => .done (s.sendSync
    { src := .waiter (.stream i), ten := s.tenOf i.core, op := op, obj := obj, x := x })) s

/-- A Y-class instruction that waits for an answer (R262, R264); a pause asked for before takes effect as it begins to
wait (R69). -/
def syAwait (i : At) (o : SyOp) (op : Nat) (s : State) : Out :=
  syIssue i o (fun s obj x =>
    .stay (((s.modStream i fun t => { t with wait := some ⟨op, obj, x, o.sd, none, .sent⟩ }).sendSync
      { src := .waiter (.stream i), ten := s.tenOf i.core, op := op, obj := obj, x := x }).pauseAsked i)) s

/-- `sy.cfg`. -/
def execSyCfg (i : At) (o : SyOp) (s : State) : Out := sySend i o 0 s
/-- `sy.add`. -/
def execSyAdd (i : At) (o : SyOp) (s : State) : Out := sySend i o 1 s
/-- `sy.set`. -/
def execSySet (i : At) (o : SyOp) (s : State) : Out := sySend i o 2 s
/-- `sy.wait`. -/
def execSyWait (i : At) (o : SyOp) (s : State) : Out := syAwait i o 3 s
/-- `sy.post`. -/
def execSyPost (i : At) (o : SyOp) (s : State) : Out := sySend i o 4 s
/-- `sy.acq`. -/
def execSyAcq (i : At) (o : SyOp) (s : State) : Out := syAwait i o 5 s
/-- `sy.arrive`. -/
def execSyArrive (i : At) (o : SyOp) (s : State) : Out := sySend i o 6 s
/-- `sy.arrw`. -/
def execSyArrw (i : At) (o : SyOp) (s : State) : Out := syAwait i o 7 s
/-- `sy.evset`. -/
def execSyEvset (i : At) (o : SyOp) (s : State) : Out := sySend i o 8 s
/-- `sy.evclr`. -/
def execSyEvclr (i : At) (o : SyOp) (s : State) : Out := sySend i o 9 s
/-- `sy.evwait`. -/
def execSyEvwait (i : At) (o : SyOp) (s : State) : Out := syAwait i o 10 s
/-- `sy.rd`: the answer brings word 0. -/
def execSyRd (i : At) (o : SyOp) (s : State) : Out := syAwait i o 11 s

/-! ### At the bank -/

/-- Do two operations come from one node, or from one peer, and go to one bank (R32, R282)? -/
def State.samePath (s : State) (o p : SyncOp) : Bool :=
  bankOf p.obj == bankOf o.obj && (s.senderNode p.src == s.senderNode o.src || (match o.src, p.src with
    | .peer d _ _, .peer e _ _ => d == e
    | _, _ => false))

/-- Is an earlier message of the same path still on its way, or is this one not yet accepted by the control plane (R32,
R241, R267)? -/
def State.earlierOp (s : State) (n : Nat) (o : SyncOp) : Bool :=
  (s.sync.ops.take n).any (s.samePath o) || !s.accepted (.sync o.id)

/-- Can a message not be at its bank: it is a later one, it still travels, or a halted node cuts it off (R236)? -/
def State.opWaits (s : State) (n : Nat) (o : SyncOp) : Bool :=
  s.earlierOp n o || s.onWay (.control (.sync o.id)) none || s.cut (s.msgEntry (.sync o.id))

/-- A message taken from those on their way. -/
def State.takeOp (s : State) (n : Nat) (o : SyncOp) : State :=
  { s with sync := { s.sync with ops := s.sync.ops.eraseIdx n } }.takeOut (.control (.sync o.id))

/-- A wake taken from those on their way; its message leaves the network with the last wake that it carries. -/
def State.takeWake (s : State) (n : Nat) (m : SyncWakeMsg) : State :=
  let s := { s with sync := { s.sync with wakes := s.sync.wakes.eraseIdx n } }
  if s.sync.wakes.any fun w => w.id == m.id then s else s.takeOut (.control (.wake m.id))

/-- The registration that a cancel names. -/
def State.registration (s : State) (o : SyncOp) (w : Waiter) : Option SyncReg :=
  s.sync.regs.find? fun r => r.waiter == w && r.ten == o.ten && r.obj == o.obj

/-- SYNC_CANCEL: message `n`, a cancel, arrives at its bank (R265). A registration that is still held is dropped, and a
stream is answered CANCELLED; else the answer that is on its way already is the one. Later waiters of a semaphore stay until
its next post or set (DESIGN CHOICE, log entry 159). -/
def execSyncCancel (n : Nat) (s : State) : Out :=
  match s.sync.ops[n]? with
  | none => .next s
  | some o =>
    match o.cancel && !s.opWaits n o, o.src with
    | true, .waiter w =>
      let s := s.takeOp n o
      match s.registration o w, w with
      | some r, .stream _ =>
        .next (((s.unregister r).wake w o.ten o.obj 0 (.cancelled (if r.op = 7 then some r.gen else none))).numberWakes)
      | some r, _ => .next (s.unregister r)
      | none, _ => .next s
    | _, _ => .next s

end Sys2Proof.Machine
end

