-- ==== Sys2Proof/Machine/Transfer.lean ====
section
/-! DEFINITION. Rows of transfers and the D class: DMA descriptors, Flume requests as posted and accumulate
deliveries as sent (R213, R220–R225, R232). -/

namespace Sys2Proof.Machine

/-! ### Allocation of cores (R326) -/

/-- The number of phases (R327). -/
def State.phases (s : State) : Nat := s.field 0x600 1 0 + 1

/-- The tenancy that an allocation word names for phase `p` (R326). One that does not exist (VALID 0) is
not left out (DESIGN CHOICE, log entry 145). -/
def State.allocIn (s : State) (w p : Nat) : Option Nat :=
  if p < s.phases ∧ bit (4 * p + 2) w = true then some (bits (4 * p + 1) (4 * p) w) else none

/-- Is a core enabled and allocated to the tenancy: does it name it in some phase? -/
def State.allocated (s : State) (t c : Nat) : Bool :=
  decide (c < s.coreCount) &&
  (List.range 4).any fun p => s.allocIn (s.core c).alloc.toNat p == some t

/-- Is a tenancy resident on a core, outside a switch (R217, R329)? -/
def State.resident (s : State) (t c : Nat) : Bool :=
  decide ((s.core c).res = some t) && !(s.core c).switching

/-! ### Rows (R216, R223, R232) -/

/-- Where the bytes of a row stand: at an address of a core's store, or at a virtual address whose lines are these. -/
inductive RowPlace where
  | store (core a : Nat)
  | lines (a : Nat) (ls : List Nat)
  deriving DecidableEq, Repr

/-- The mark of `n` bytes from offset `k` of a row at `a`, from the marks of its 64-byte units: the OR of the units
that supply them (R232). -/
def unitsMark (a : Nat) (marks : List Bool) (k n : Nat) : Bool :=
  (unitsOf 64 (a + k) n).any fun u => marks.getD (u - a / 64) false

/-- The bytes of a row and the marks of its units; `t` is the tenancy whose image of a core is meant. -/
def State.rowRead (s : State) (t n : Nat) : RowPlace → List Byte × List Bool
  | .store c a =>
    let m := s.imageOf c t
    (m.storeRead a n, (unitsOf 64 a n).map (NSet.has m.storeBlz))
  | .lines a ls =>
    let vs := ls.map s.lineView
    (((vs.map Prod.fst).flatten.drop (a % 64)).take n, vs.map Prod.snd)

/-- A row written to a core's store: each granule takes the mark that `mark` gives its bytes, by offset and number
(R84, R232). -/
def CoreImage.rowWrite (m : CoreImage) (a : Nat) (bs : List Byte) (mark : Nat → Nat → Bool) : CoreImage :=
  (piecesOf 64 a bs).foldl
    (fun m q => m.storeWrite (64 * q.1 + q.2.1) q.2.2 (mark (64 * q.1 + q.2.1 - a) q.2.2.length)) m

/-- How many granules of `n` bytes from `a` take a mark. -/
def markedGranules (a : Nat) (bs : List Byte) (mark : Nat → Nat → Bool) : Nat :=
  ((piecesOf 64 a bs).filter fun q => mark (64 * q.1 + q.2.1 - a) q.2.2.length).length

/-- Granules accepted at a core's delivery port, and how many of them marked, counted; how many bank cycles are lost where
they meet accesses of the core's own instructions is open (R90, Table 17.5; log entry 139). -/
def State.portTakes (s : State) (c n bad : Nat) : State :=
  (((s.event c none evDelivery n).event c none evBlazeArrived bad).event c none evStoreConflict
    (Config.number s.free % (n + 1))).draw 1

/-- Bytes accepted at a core's delivery port and the marked granules among them. -/
def State.delivered (s : State) (c a : Nat) (bs : List Byte) (mark : Nat → Nat → Bool) : State :=
  s.portTakes c ((bs.length + 63) / 64) (markedGranules a bs mark)

/-- Bytes put at a place, with the marks of their granules or lines. -/
def State.rowPut (s : State) (t : Nat) (bs : List Byte) (mark : Nat → Nat → Bool) : RowPlace → State
  | .store c a => s.modImageOf c t fun m => m.rowWrite a bs mark
  | .lines a ls =>
    (piecesOf 64 a bs).foldl
      (fun s q => s.writePiece (mark (64 * q.1 + q.2.1 - a) q.2.2.length) (ls.getD (q.1 - a / 64) 0, q.2.1, q.2.2)) s

/-- A row written at its destination; a core store takes it through the core's delivery port. -/
def State.rowStore (s : State) (t : Nat) (bs : List Byte) (mark : Nat → Nat → Bool) (p : RowPlace) : State :=
  let s := s.rowPut t bs mark p
  match p with
  | .store c a => s.delivered c a bs mark
  | .lines _ _ => s

/-! ### `dma` (R220, R222) -/

/-- The reserved parts of a descriptor are zero (Table 8.8). -/
def dmaReservedOk (x : Nat) : Bool :=
  decide (bits 63 60 x = 0) && decide (bits 127 124 x = 0) && decide (bits 159 144 x = 0) &&
  decide (bits 191 185 x = 0) && decide (bits 350 338 x = 0) && decide (bits 382 370 x = 0) &&
  decide (bits 511 448 x = 0)

/-- A descriptor from its 64 bytes (Table 8.8). -/
def readDesc (i : At) (x : Nat) : DmaDesc :=
  { stream := i.stream
    srcAddr := bits 47 0 x, srcCore := bits 57 48 x, srcSpace := bits 59 58 x
    dstAddr := bits 111 64 x, dstCore := bits 121 112 x, dstSpace := bits 123 122 x
    rows := bits 143 128 x + 1, rowBytes := bits 184 160 x
    srcStride := signedOf 64 (bits 255 192 x), dstStride := signedOf 64 (bits 319 256 x)
    waitObj := bits 337 320 x, waitEn := bit 351 x, waitValue := BitVec.ofNat 64 (bits 447 384 x)
    sigObj := bits 369 352 x, sigEn := bit 383 x }

/-- Does every row lie in its space? The first and the last row decide it. -/
def rowsWithin (space base : Nat) (stride : Int) (rows n : Nat) : Bool :=
  [0, rows - 1].all fun r =>
    decide (0 ≤ rowAt base stride r) && inSpace (space == spVirtual) (rowAt base stride r).toNat n

/-- The shape of a descriptor is legal (R222). A ROW_BYTES above 16,777,216, which no case of R222 names, is accepted (DESIGN
CHOICE, log entry 155). -/
def DmaDesc.shapeOk (d : DmaDesc) : Bool :=
  decide (d.srcSpace ≠ 3) && decide (d.dstSpace ≠ 3) && decide (d.rowBytes ≠ 0) && decide (d.rowBytes % 16 = 0) &&
  decide (d.srcAddr % 16 = 0) && decide (d.dstAddr % 16 = 0) && decide (d.srcStride % 16 = 0) &&
  decide (d.dstStride % 16 = 0) && rowsWithin d.srcSpace d.srcAddr d.srcStride d.rows d.rowBytes &&
  rowsWithin d.dstSpace d.dstAddr d.dstStride d.rows d.rowBytes

/-- The cores and objects of a descriptor are the tenancy's (R222). -/
def State.descAllowed (s : State) (t : Nat) (d : DmaDesc) : Bool :=
  (d.srcSpace != spCore || s.allocated t d.srcCore) && (d.dstSpace != spCore || s.allocated t d.dstCore) &&
  (!d.waitEn || s.inRange t d.waitObj) && (!d.sigEn || s.inRange t d.sigObj)

/-- The 64 bytes that `dma` or `flm` copies at issue (R213, R222). -/
def State.copy64 (s : State) (c a : Nat) : Nat := packBytes ((s.core c).img.storeRead a 64)

/-- The checks that `dma` and `flm` share: a marked address or granule bites; 64-byte alignment and range fault. -/
def withCopy (i : At) (r : SReg) (s : State) (k : Nat → Eff) : Eff :=
  let a := (s.stream i).sreg r
  let n := a.val.toNat
  if a.bz || (s.core i.core).img.storeMark n 64 then .fault codeBlazeBite 0
  else if decide (n % 64 ≠ 0) || !inSpace false n 64 then .fault codeTileBounds 0
  else k n

/-- `dma`. -/
def execDma (i : At) (sDesc : SReg) (s : State) : Out :=
  issue i s fun s => withCopy i sDesc s fun a =>
    let x := s.copy64 i.core a
    let d := readDesc i x
    if !dmaReservedOk x || !d.shapeOk then .fault codeTileBounds 0
    else if !s.descAllowed (s.tenOf i.core) d then .fault codeAccess 0
    else if 8 ≤ (s.core i.core).img.dma.descs.length then .stall s .memLimit
    else .done ((s.meet i false).modImg i.core fun m => { m with dma := { m.dma with descs := m.dma.descs ++ [d] } })

/-- `dmaw`: it retires once every earlier `dma` of its stream is complete. -/
def execDmaw (i : At) (s : State) : Out :=
  issue i s fun s =>
    if (s.core i.core).img.dma.descs.any (fun d => d.stream == i.stream) then .stall s .sync else .done s

/-! ### The DMA unit (R223–R225) -/

/-- The DMA unit of tenancy `t` on a core. -/
def State.dmaOf (s : State) (c t : Nat) : DmaUnit := (s.imageOf c t).dma

/-- The DMA unit changed. -/
def State.modDma (s : State) (c t : Nat) (g : DmaUnit → DmaUnit) : State :=
  s.modImageOf c t fun m => { m with dma := g m.dma }

/-- A descriptor of a unit changed. -/
def State.modDesc (s : State) (c t k : Nat) (g : DmaDesc → DmaDesc) : State :=
  s.modDma c t fun u => { u with descs := u.descs.zipIdx.map fun p => if p.2 = k then g p.1 else p.1 }

/-- ENGINE_ID of a DMA unit (R230). -/
def dmaEngine (c : Nat) : Nat := c + 0xC00

/-- The unit suspends with one fault record (R225, R231); while it is suspended no second record is sent. -/
def State.dmaSuspend (s : State) (c t k va : Nat) (write : Bool) (level cause : Nat) : State :=
  let s' := s.modDesc c t k fun d => { d with suspended := true }
  let u := s.dmaOf c t
  if u.suspended then s'
  else
    let r := ((u.descs[k]?).map DmaDesc.row).getD 0
    (s'.modDma c t fun u =>
      { u with suspended := true, restartRow := r, restartValid := true, faddr := va, page := some ⟨va, write⟩ }).sendFault
      ⟨1, codePageFault, t, dmaEngine c, va, 0, write, level, cause, 0⟩

/-- The descriptor leaves the unit. -/
def State.dmaEnd (s : State) (c t k : Nat) : State := s.modDma c t fun u => { u with descs := u.descs.eraseIdx k }

/-- DMA_DESCRIPTOR_START: the next descriptor starts; one with WAIT_EN first sends its wait and then waits for it
(R223). At most two run, and none starts while the unit is suspended (R225). -/
def execDmaDescriptorStart (core : Nat) (s : State) : Out :=
  let t := s.tenOf core
  let u := (s.core core).img.dma
  match u.descs.zipIdx.find? (fun p => !p.1.started) with
  | none => .next s
  | some (d, k) =>
    if !s.resident t core || u.suspended || decide (2 ≤ k) then .next s
    else if !d.waitEn || d.waitMet then .next (s.modDesc core t k fun d => { d with started := true })
    else if d.waitSent then .next s
    else .next ((s.modDesc core t k fun d => { d with waitSent := true }).sendSync
      { src := .waiter (.dma core), ten := t, op := 3, obj := d.waitObj, x := d.waitValue })

/-- The requests of a row for `n` lines: of them at most 64, and no more than the tracker has entries for the stream, are out
at a time (R96, R224). -/
def State.rowRequest (s : State) (i : At) (n : Nat) : State := s.request i.core (min (min 64 (s.trackRoom i)) n)

/-- The lines of a row of device virtual memory made ready, of which `n` are already: translated, not held, permitted, and
with a tracker entry of the issuing stream (R96, R224, R226, R334). -/
def State.dmaLines (s : State) (i : At) (write : Bool) (n : Nat) : List Nat → Res (List Nat)
  | [] => .ok [] (s.rowRequest i n)
  | va :: vas =>
    match s.translate i.core (some i.stream) va write false with
    | .page s va l c => .page s va l c
    | .denied s va => .denied s va
    | .held s c => .held s c
    | .ok pa s =>
      let m := masterTen (s.tenOf i.core)
      if s.memHeld pa || s.cutOff i.core pa || !s.trackFree i then .held s .memLimit
      else if !s.canInject i.core 4 then .held s .nocBp
      else if !s.memOk m (pa / 64 * 64) 64 write then .denied ((s.rowRequest i (n + 1)).memDenied m pa write) va
      else match s.dmaLines i write (n + 1) vas with
        | .page s va l c => .page s va l c
        | .denied s va => .denied s va
        | .held s c => .held s c
        | .ok ls s => .ok (pa / 64 :: ls) s

/-- A row between a core and another core's store made ready: it waits while the tenancy is not resident there, a halted
node cuts it off, or the local port of the core that sends it has no credit (R206, R236, R238). -/
def State.coreRowReady (s : State) (i : At) (other a : Nat) (out : Bool) : Res RowPlace :=
  if !s.resident (s.tenOf i.core) other || s.cut (some (s.coreRow i.core other out)) then .held s .memLimit
  else if !s.canInject (if out then i.core else other) 4 then .held s .nocBp
  else .ok (.store other a) s

/-- One end of a row made ready. -/
def State.dmaPlace (s : State) (i : At) (space other a n : Nat) (write : Bool) : Res RowPlace :=
  if space = spOwn then .ok (.store i.core a) s
  else if space = spCore then s.coreRowReady i other a write
  else match s.dmaLines i write 0 (lineStarts a n) with
    | .page s va l c => .page s va l c
    | .denied s va => .denied s va
    | .held s c => .held s c
    | .ok ls s => .ok (.lines a ls) s

/-- A read of a row leaves what reads of its lines leave. -/
def State.rowTouch (s : State) : RowPlace → State
  | .store _ _ => s
  | .lines _ ls => s.touchLines ls

/-- The keys of the packets of a row at one end, on the way from core `c` or to it, among the marks of its rows. -/
def rowKeys (c : Nat) (out : Bool) : RowPlace → List Nat
  | .store o _ => if o = c then [] else [dmaCoreKey o out]
  | .lines _ ls => ls.map fun l => dmaKey l !out

/-- Was the packet of unit `k` of a row marked on its way at one end (R236)? -/
def State.netMark (s : State) (c : Nat) (out : Bool) (p : RowPlace) (k : Nat) : Bool :=
  let keys := rowKeys c out p
  let at_ (j : Nat) : Bool := (keys[j]?).any (NSet.has (s.core c).dmaBz)
  match p with
  | .store _ _ => at_ 0
  | .lines _ _ => at_ k

/-- A row has come, with the marks that its packets got on their way. -/
def State.rowCame (s : State) (c : Nat) (src dst : RowPlace) : State :=
  s.modCore c fun k => { k with dmaBz := (rowKeys c false src ++ rowKeys c true dst).foldl NSet.sub k.dmaBz }

/-- Row `r` of a descriptor moved, with the marks that its packets may have got on their way (R236); the value says
whether its access was a write. -/
def State.dmaRow (s : State) (c : Nat) (d : DmaDesc) (r : Nat) : Bool × Res Unit :=
  let a := (rowAt d.srcAddr d.srcStride r).toNat
  let b := (rowAt d.dstAddr d.dstStride r).toNat
  match s.dmaPlace ⟨c, d.stream⟩ d.srcSpace d.srcCore a d.rowBytes false with
  | .page s va l c => (false, .page s va l c)
  | .denied s va => (false, .denied s va)
  | .held s c => (false, .held s c)
  | .ok src s =>
    match s.dmaPlace ⟨c, d.stream⟩ d.dstSpace d.dstCore b d.rowBytes true with
    | .page s va l c => (true, .page s va l c)
    | .denied s va => (true, .denied s va)
    | .held s c => (true, .held s c)
    | .ok dst s =>
      let t := s.tenOf c
      let v := s.rowRead t d.rowBytes src
      let read := v.2.zipIdx.map fun p => p.1 || s.netMark c false src p.2
      let mark (k n : Nat) : Bool :=
        unitsMark a read k n || (unitsOf 64 (b + k) n).any fun u => s.netMark c true dst (u - b / 64)
      (true, .ok () (((s.rowTouch src).rowCame c src dst).rowStore t v.1 mark dst))

/-- The place of one byte of a space, where it can be reached without a walk: in a store, or through a cached
translation, a window and an entry of the tracker; a read goes into another page than that of `a0` only with RA (R87, R96,
R229). -/
def State.bytePlace (s : State) (c : Nat) (x : StreamId) (space other a0 a : Nat) (write : Bool) : Option RowPlace :=
  if space = spOwn then some (.store c a)
  else if space = spCore then
    (if s.resident (s.tenOf c) other && !s.cut (some (s.coreRow c other write)) then some (.store other a) else none)
  else match (s.core c).lookup a write with
    | some e =>
      if (write || e.ra || e.maps a0) && s.memOk (masterTen (s.tenOf c)) (e.pa a / 64 * 64) 64 write &&
          !s.memHeld (e.pa a) && !s.cutOff c (e.pa a) && s.trackFree ⟨c, x⟩ && s.canInject c 4 then
        some (.lines a [e.pa a / 64])
      else none
    | none => none

/-- One byte of a row of a stopped descriptor: written already or not, which the manual leaves open (R87, R225). The value
says whether it was written, and with a mark. -/
def State.mixByte (s : State) (c : Nat) (d : DmaDesc) (r0 r k : Nat) : State × Option Bool :=
  let a0 := (rowAt d.srcAddr d.srcStride r0).toNat
  let a := (rowAt d.srcAddr d.srcStride r).toNat + k
  let b := (rowAt d.dstAddr d.dstStride r).toNat + k
  let t := s.tenOf c
  match s.bytePlace c d.stream d.srcSpace d.srcCore a0 a false, s.bytePlace c d.stream d.dstSpace d.dstCore b b true with
  | some src, some dst =>
    if Config.coin s.free then
      let v := s.rowRead t 1 src
      let s := if d.srcSpace = spVirtual ∨ d.dstSpace = spVirtual then s.rowRequest ⟨c, d.stream⟩ 1 else s
      ((s.rowPut t v.1 (unitsMark a v.2) dst).draw 1, some (unitsMark a v.2 0 1))
    else (s.draw 1, none)
  | _, _ => (s, none)

/-- A row of a stopped descriptor, byte by byte; what came to a core store of it counts as granules of the delivery port. -/
def State.dmaMixRow (s : State) (c : Nat) (d : DmaDesc) (r0 r : Nat) : State :=
  let b := (rowAt d.dstAddr d.dstStride r).toNat
  let (s, got, bad) := (List.range d.rowBytes).foldl
    (fun (q : State × NSet × NSet) k =>
      match q.1.mixByte c d r0 r k with
      | (s, some m) => (s, NSet.add q.2.1 ((b + k) / 64), if m then NSet.add q.2.2 ((b + k) / 64) else q.2.2)
      | (s, none) => (s, q.2)) (s, [], [])
  if got.isEmpty then s
  else if d.dstSpace = spOwn then s.portTakes c got.length bad.length
  else if d.dstSpace = spCore then s.portTakes d.dstCore got.length bad.length
  else s

/-- The rows from `r0` on of a descriptor that stopped: each destination byte old or already written. -/
def State.mixRows (s : State) (c : Nat) (d : DmaDesc) (r0 : Nat) : State :=
  ((List.range (d.rows - r0)).map (· + r0)).foldl (fun s r => s.dmaMixRow c d r0 r) s

/-- Up to `n` further rows of descriptor `k`, in order; the last one completes it (R223, Table 13.7). -/
def State.dmaRows (s : State) (c t k : Nat) : Nat → State
  | 0 => s
  | n + 1 =>
    match (s.dmaOf c t).descs[k]? with
    | none => s
    | some d =>
      match s.dmaRow c d d.row with
      | (_, .held s _) => s
      | (w, .page s va l cs) => (s.mixRows c d d.row).dmaSuspend c t k va w l cs
      | (w, .denied s va) =>
        (s.dmaEnd c t k).sendFault ⟨1, codeAccess, t, dmaEngine c, va, 0, w, 0, 0, 0⟩
      | (_, .ok _ s) =>
        if d.rows ≤ d.row + 1 then
          let s := s.dmaEnd c t k
          if d.sigEn then s.signal t 1 (dmaEngine c) d.sigObj 1 else s
        else (s.modDesc c t k fun d => { d with row := d.row + 1 }).dmaRows c t k n

/-- DMA_DESCRIPTOR_COMPLETE: up to `rows` further rows of the started descriptor in place `k` are moved; with the
last one its writes are performed, it completes and signals (R223). -/
def execDmaDescriptorComplete (core k rows : Nat) (s : State) : Out :=
  let t := s.tenOf core
  match (s.core core).img.dma.descs[k]? with
  | none => .next s
  | some d =>
    if d.started && !d.suspended && s.resident t core then .next (s.dmaRows core t k (min rows (d.rows - d.row)))
    else .next s

/-- A suspended unit walks its faulting address again: it goes on, or suspends with a new record (R231). While the walk is
held, the RESUME stands. -/
def State.dmaRewalk (s : State) (c t : Nat) : State :=
  let u := s.dmaOf c t
  match u.page with
  | none => s
  | some p =>
    match s.translate c ((u.descs.find? DmaDesc.suspended).map DmaDesc.stream) p.va p.write false with
    | .ok _ s => s.modDma c t fun u =>
        { u with suspended := false, resume := false, restartRow := 0, restartValid := false, faddr := 0, page := none,
                 descs := u.descs.map fun d => { d with suspended := false } }
    | .page s va l cs =>
      (s.modDma c t fun u => { u with resume := false }).sendFault
        ⟨1, codePageFault, t, dmaEngine c, va, 0, p.write, l, cs, 0⟩
    | .denied s _ => s
    | .held s _ => s.modDma c t fun u => { u with resume := true }

/-- DMA_RESUME: in SUSPENDED the faulting address is walked again (R225, R231). -/
def execDmaResume (core : Nat) (s : State) : Out :=
  let t := s.tenOf core
  .next (if (s.core core).img.dma.suspended && s.resident t core then s.dmaRewalk core t else s)

/-- The cancel of a unit's outstanding wait. -/
def State.dmaCancel (s : State) (c t : Nat) : State :=
  match (s.dmaOf c t).descs.find? (fun d => d.waitSent && !d.waitMet) with
  | some d => s.sendSync
      { src := .waiter (.dma c), ten := t, op := 3, obj := d.waitObj, x := d.waitValue, cancel := true }
  | none => s

/-- DMA_ABORT: in SUSPENDED every descriptor is discarded unsignalled and the unit is IDLE (R225); in any other state the
write is ignored (R231). -/
def execDmaAbort (core : Nat) (s : State) : Out :=
  let t := s.tenOf core
  .next (if (s.core core).img.dma.suspended && s.resident t core then (s.dmaCancel core t).modDma core t fun _ => {} else s)

/-! ### `flm` (R213) -/

/-- A Flume request from its 64 bytes (Table 8.4). -/
def readReq (x : Nat) : FlumeReq :=
  { shard := bits 15 0 x, group := bits 27 16 x, rows := bits 47 32 x + 1, rowBytes := 16 * (bits 59 48 x + 1)
    srcOff := bits 102 64 x, srcStride := signedOf 32 (bits 159 128 x)
    dstAddr := bits 180 160 x, dstStride := signedOf 32 (bits 223 192 x)
    capMode := bits 225 224 x, capStream := bits 227 226 x, capIndex := bits 239 232 x
    waitObj := bits 273 256 x, waitEn := bit 287 x
    sigObj := bits 305 288 x, sigPerCore := bit 318 x, sigEn := bit 319 x
    waitValue := BitVec.ofNat 64 (bits 383 320 x)
    badField := decide (bits 31 28 x ≠ 0) || decide (bits 63 60 x ≠ 0) || decide (bits 127 103 x ≠ 0) ||
      decide (bits 191 181 x ≠ 0) || decide (bits 231 228 x ≠ 0) || decide (bits 255 240 x ≠ 0) ||
      decide (bits 286 274 x ≠ 0) || decide (bits 317 306 x ≠ 0) || decide (bits 511 384 x ≠ 0) }

/-- The queue of an engine (stack × 2 + engine) for a tenancy. -/
def State.flq (s : State) (eng t : Nat) : FlumeQueue := SMap.get {} s.flume.queues (4 * eng + t)

/-- A queue changed. -/
def State.modFlq (s : State) (eng t : Nat) (g : FlumeQueue → FlumeQueue) : State :=
  { s with flume := { s.flume with queues := SMap.put s.flume.queues (4 * eng + t) (g (s.flq eng t)) } }

/-- `flm`. -/
def execFlm (i : At) (sReq : SReg) (eng : BitVec 4) (s : State) : Out :=
  issue i s fun s => withCopy i sReq s fun a =>
    let t := s.tenOf i.core
    if 64 ≤ (s.flq eng.toNat t).reqs.length || s.cut (some (s.flmEntry i.core eng.toNat)) then .stall s .memLimit
    else if !s.canInject i.core 1 then .stall s .nocBp
    else .done ((s.meet i false).modFlq eng.toNat t fun q => { q with reqs := q.reqs ++ [readReq (s.copy64 i.core a)] })

/-! ### `dacc` (R221) -/

/-- Does a delivery that waits at the core's own router for a context leave the core's local port no room (R247, R250)? -/
def State.boomHeld (s : State) (c : Nat) : Bool :=
  !s.canInject c 3 && s.accMsgs.any fun d => d.heldAt == some (s.siteOf c) &&
    (s.noc.carrier (.data (.acc d.id))).any fun p =>
      s.noc.branches.any fun b => b.id == p.id && b.node == s.siteOf c && b.port == 0

/-- `dacc`: one delivery of a vector register. -/
def execDacc (i : At) (va : VReg) (sAddr sMeta sSig : SReg) (bf16 : Bool) (s : State) : Out :=
  issue i s fun s =>
    let t := s.stream i
    let ten := s.tenOf i.core
    let a := t.sreg sAddr
    let m := (t.sreg sMeta).val.toNat
    let g := t.sreg sSig
    let sig := g.val.toNat
    if a.bz || g.bz then .fault codeBlazeBite 0
    else if decide (a.val.toNat % 256 ≠ 0) || decide (bits 31 16 m = 0) || !inSpace true a.val.toNat 256 then
      .fault codeTileBounds 0
    else if bit 63 sig && !s.inRange ten (bits 17 0 sig) then .fault codeAccess 0
    else if !s.trackFree i then .stall s .memLimit
    else if s.boomHeld i.core then .stall s .boomBp
    else if !s.canInject i.core 3 then .stall s .nocBp
    else (s.translate i.core (some i.stream) a.val.toNat true).bind true fun pa s =>
      let v := t.vreg va
      let d : AccDelivery :=
        { ten := ten, block := pa / 256, data := v.val, bf16 := bf16, k := bits 31 16 m, bz := v.bz,
          shard := bits 15 0 m, ctx := BitVec.ofNat 32 (bits 63 32 m), n := 1, src := i, named := true,
          va := a.val.toNat, sig := bits 17 0 sig, sigEn := bit 63 sig, origin := s.siteOf i.core }
      .done (((s.sendAcc d).setTrack i (s.track i + 1)).event i.core (some i.stream) evDacc 1)

/-! ### Walks (R227) -/

/-- The suspended access is walked again (R70, R231): the stream goes on, or suspends with a new record. While the walk is
held, the RESUME stands. -/
def State.rewalk (s : State) (i : At) : State :=
  match (s.stream i).page with
  | none => s
  | some p =>
    match s.translate i.core (some i.stream) p.va p.write with
    | .ok _ s => s.modStream i fun t =>
        { t with state := .running, faultCode := 0, page := none, fromSuspended := false, heldResume := false }
    | .page s va l c =>
      (s.modStream i fun t => { t with fromSuspended := false, heldResume := false }).suspend i va p.write l c
    | .denied s _ => s
    | .held s _ => s.modStream i fun t => { t with heldResume := true }

/-- TRANSLATION_WALK: the walk of an access that a stream (unit 0–2) or the DMA unit (3) makes. A success fills the
translation cache; a failure suspends the unit (R225, R227, R231). Where a suspended one has a RESUME whose walk was held,
that walk is made. -/
def execTranslationWalk (core unit va : Nat) (write : Bool) (s : State) : Out :=
  let va := va % 2 ^ 48
  match StreamId.ofNat? unit with
  | some x =>
    let i : At := ⟨core, x⟩
    let t := s.stream i
    if t.state = .suspended ∧ t.heldResume = true ∧ s.resident (s.tenOf core) core = true then .next (s.rewalk i)
    else if !s.canIssue i then .next s
    else match s.translate core (some x) va write with
      | .ok _ s => .next s
      | .page s va l c => .next (s.finish i (.page s va write l c))
      | .denied s _ => .next s
      | .held s _ => .next s
  | none =>
    let t := s.tenOf core
    let u := (s.core core).img.dma
    if unit ≠ 3 ∨ s.resident t core = false then .next s
    else if u.suspended && u.resume then .next (s.dmaRewalk core t)
    else match u.descs.zipIdx.find? (fun p => p.1.started && !p.1.suspended) with
    | none => .next s
    | some (d, k) =>
      match s.translate core (some d.stream) va write false with
        | .ok _ s => .next s
        | .page s va l c => .next (s.dmaSuspend core t k va write l c)
        | .denied s _ => .next s
        | .held s _ => .next s

end Sys2Proof.Machine
end

