-- ==== Sys2Proof/Machine/Flume.lean ====
section
/-! DEFINITION. The Flume engines (R212–R219), the capture table (R139–R143) and sequence slots (R331, R332). -/

namespace Sys2Proof.Machine

/-! ### Group entries (R211) -/

/-- A multicast group entry as read (Table 8.3). -/
structure Mcast where
  pa : Nat
  mask : Nat
  ten : Nat
  valid : Bool
  bz : Bool
  deriving DecidableEq, Repr

/-- The entry of group `g`. -/
def State.mcast (s : State) (g : Nat) : Mcast :=
  let pa := bits 38 19 (s.reg 0x4C8) * 2 ^ 19 + 128 * g
  let x := s.memNat pa 128
  let bz := s.memMark pa 128
  { pa := pa, mask := bits 639 0 x, ten := bits 641 640 x, bz := bz,
    valid := bit 647 x && !bz && decide (bits 646 642 x = 0) && decide (bits 1023 648 x = 0) }

/-- The cores of a mask, in increasing order. -/
def maskCores (mask : Nat) : List Nat := (List.range 640).filter fun c => bit c mask

/-! ### The start of a request (R214, R215) -/

/-- The 64 KiB positions of a byte range that an access table is asked for, and the first that it denies (Table
13.5). -/
def State.firstDenied (s : State) (x master pa n : Nat) (write : Bool) : Option Nat :=
  let a := pa % 2 ^ 36 / 65536
  let b := (pa + n - 1) % 2 ^ 36 / 65536
  ((List.range (b + 1 - a)).map (· + a)).find? fun p => !s.aclOk x master p write

/-- Does a source row or a destination row leave its extent (case 7)? The first and the last row decide it. -/
def FlumeReq.outside (q : FlumeReq) (extent : Nat) : Bool :=
  [0, q.rows - 1].any fun r =>
    let a := rowAt q.srcOff q.srcStride r
    let b := rowAt q.dstAddr q.dstStride r
    decide (a < 0) || decide (extent < a + q.rowBytes) || decide (b < 0) || decide (2 ^ 21 < b + q.rowBytes)

/-- Case 6 of Table 8.5. -/
def FlumeReq.badShape (q : FlumeReq) : Bool :=
  q.badField || decide (q.srcOff % 16 ≠ 0) || decide (q.srcStride % 16 ≠ 0) || decide (q.dstStride % 16 ≠ 0) ||
  decide (q.dstAddr % 16 ≠ 0) || (if q.capMode = 2 then q.capStream == 0 else q.capStream != 0)

/-- Case 5 of Table 8.5. -/
def State.reqObjectsBad (s : State) (t : Nat) (q : FlumeReq) (cores : Nat) : Bool :=
  (q.waitEn && !s.inRange t q.waitObj) ||
  (q.sigEn && (!s.inRange t q.sigObj || (q.sigPerCore && !s.inRange t (q.sigObj + (cores - 1)))))

/-- The first case of Table 8.5 that holds, with its code; 0 where none does. A denial by the engine's access table
is case 2 (Table 13.7). -/
def State.startCase (s : State) (eng t : Nat) (q : FlumeReq) : Nat × Nat :=
  let e := s.shard q.shard
  let g := s.mcast q.group
  let cores := maskCores g.mask
  if e.bz || g.bz then (1, codeAccess)
  else if !e.validFor t || (s.firstDenied (40 + eng) (masterTen t) e.base e.extent false).isSome then (2, codeAccess)
  else if e.stack ≠ eng / 2 then (3, codeAccess)
  else if !g.valid || g.ten != t || !cores.all (s.allocated t) then (4, codeAccess)
  else if s.reqObjectsBad t q cores.length then (5, codeAccess)
  else if q.badShape then (6, codeTileBounds)
  else if q.outside e.extent then (7, codeTileBounds)
  else (0, 0)

/-- The 256-byte units that a request's rows name, each once, in order of address (R212, R216). -/
def FlumeReq.unitList (q : FlumeReq) (base : Nat) : List Nat :=
  let us : NSet := (List.range q.rows).foldl
    (fun m r => (unitsOf 256 (base + (rowAt q.srcOff q.srcStride r).toNat) q.rowBytes).foldl NSet.add m) []
  us.map Prod.fst

/-- Reads that an engine has in flight: at most 4,096 of those its started requests still need (R212). -/
def State.flOutstanding (s : State) (eng : Nat) : Nat :=
  min 4096 (((s.flume.runs.filter fun r => r.eng == eng).map fun r => r.left.length).foldl (· + ·) 0)

/-- The STATUS register of an engine (Table 8.6). -/
def flStatus (eng : Nat) : Nat := memBase (eng / 2) + 0x440 + 0x100 * (eng % 2)

/-- HIGH_WATER follows OUTSTANDING. -/
def State.flHigh (s : State) (eng : Nat) : State :=
  s.raiseField (flStatus eng) 28 16 (s.flOutstanding eng)

/-- A started request, with its shard's entry as read, and its deliveries to cores. -/
def State.flBegin (s : State) (eng t : Nat) (q : FlumeReq) (e : Shard) (cores : List Nat) : State :=
  let id := s.flume.nextId
  let run : FlumeRun :=
    { id := id, eng := eng, ten := t, req := q, base := e.base, version := BitVec.ofNat 32 e.version,
      cores := cores, left := q.unitList e.base, units := [], marks := [], doneCores := 0 }
  let ds : List FlumeDelivery := cores.zipIdx.map fun p => { run := id, core := p.1, rank := p.2 }
  { s with flume := { s.flume with
      runs := s.flume.runs ++ [run], deliveries := s.flume.deliveries ++ ds, nextId := id + 1 } }

/-- A request that fails its start checks: its queue enters FAULTED (R215). -/
def State.flFault (s : State) (eng t : Nat) (q : FlumeReq) (case code : Nat) : State :=
  (s.modFlq eng t fun x => { x with faulted := true, faultCode := code, faultCase := case, faultShard := q.shard }).sendFault
    ⟨2, code, t, eng, 0, q.shard, false, 0, 0, 0⟩

/-- The start checks are made: the entry reads are performed, and the request starts or faults. -/
def State.flStart (s : State) (eng t : Nat) (q : FlumeReq) : State :=
  let e := s.shard q.shard
  let g := s.mcast q.group
  let c := s.startCase eng t q
  let s' := (s.touch e.pa 32).touch g.pa 128
  if c.1 ≠ 0 then
    let s' := if c.1 = 2 ∧ e.validFor t = true then
        match s.firstDenied (40 + eng) (masterTen t) e.base e.extent false with
        | some p => s'.denied (40 + eng) (masterTen t) p false
        | none => s'
      else s'
    s'.flFault eng t q c.1 c.2
  else
    let s' := s'.modFlq eng t fun x => { x with reqs := x.reqs.tail, waitSent := false, waitMet := false }
    (s'.flBegin eng t q e (maskCores g.mask)).flHigh eng

/-- Are the reads of the entries held at their stacks, or cut off from the engine (R176, R236)? -/
def State.flHeld (s : State) (eng : Nat) (q : FlumeReq) : Bool :=
  [(s.shard q.shard).pa, (s.mcast q.group).pa].any fun pa => s.memHeld pa || s.stopCut (engStop eng) pa

/-- A started request by its number. -/
def State.flRun (s : State) (id : Nat) : Option FlumeRun := s.flume.runs.find? fun r => r.id == id

/-- The source address of a row of a started request. -/
def FlumeRun.rowPa (r : FlumeRun) (row : Nat) : Nat := r.base + (rowAt r.req.srcOff r.req.srcStride row).toNat

/-- Have all units of a row been read? -/
def FlumeRun.rowReady (r : FlumeRun) (row : Nat) : Bool :=
  (unitsOf 256 (r.rowPa row) r.req.rowBytes).all fun u => (SMap.get? r.units u).isSome

/-- Does a packet of a row still travel to a core, or does a halted node cut it off (R236)? -/
def State.rowOnWay (s : State) (r : FlumeRun) (core row : Nat) : Bool :=
  let site := s.siteOf core
  let on (p : NetPacket) : Bool := match p.cargo with
    | .data (.flume run u k) =>
      run == r.id && (unitsOf 256 (r.rowPa row) r.req.rowBytes).contains u && !NSet.has p.done site &&
        ((multicastSets (r.cores.map s.siteOf))[k]?).any (·.contains site)
    | _ => false
  let set := ((multicastSets (r.cores.map s.siteOf)).find? (·.contains site)).getD [site]
  s.noc.packets.any on || s.cut (some { node := .stop (engStop r.eng), ch := 2, flits := 4, dsts := set }) (some site)

/-- Does the queue wait, since a delivery of it has come to a core that holds it for a tenancy saved there (R217)? -/
def State.flAway (s : State) (eng t : Nat) : Bool := s.flume.deliveries.any fun d => !s.resident t d.core &&
  (s.flRun d.run).any fun r => r.eng == eng && r.ten == t && (List.range r.req.rows).any fun k =>
    !NSet.has d.got k && r.rowReady k && !s.rowOnWay r d.core k

/-- FLUME_REQUEST_START: the first request of a queue sends its wait where it has one in the tenancy's range, and
starts once that is met (R214, R215). -/
def execFlumeRequestStart (eng t : Nat) (s : State) : Out :=
  if 16 ≤ eng ∨ 4 ≤ t then .next s
  else
    let x := s.flq eng t
    match x.reqs with
    | [] => .next s
    | q :: _ =>
      if x.faulted || s.flAway eng t then .next s
      else if q.waitEn && s.inRange t q.waitObj && !x.waitMet then
        if x.waitSent then .next s
        else .next ((s.modFlq eng t fun x => { x with waitSent := true }).sendSync
          { src := .waiter (.flume eng t), ten := t, op := 3, obj := q.waitObj, x := q.waitValue })
      else if s.flHeld eng q then .next s
      else .next (s.flStart eng t q)

/-! ### Unit reads and the end of a request (R218, R219) -/

/-- A started request replaced. -/
def State.setRun (s : State) (r : FlumeRun) : State :=
  { s with flume := { s.flume with runs := s.flume.runs.map fun x => if x.id = r.id then r else x } }

/-- The packets of a request taken from the network. -/
def State.dropUnits (s : State) (id : Nat) : State :=
  let of (c : Cargo) : Bool := match c with
    | .data (.flume run _ _) => run == id
    | _ => false
  s.noc.packets.foldl (fun s p => if of p.cargo then s.takeOut p.cargo else s) s

/-- A request with nothing left to read or deliver ends; REQUESTS counts it if it completed at every
destination (Table 8.6). -/
def State.flRetire (s : State) (id : Nat) : State :=
  match s.flRun id with
  | none => s
  | some r =>
    if r.left.isEmpty && !s.flume.deliveries.any (fun d => d.run == id) then
      let s := { s with flume := { s.flume with runs := s.flume.runs.filter fun x => x.id != id } }.dropUnits id
      if r.doneCores = r.cores.length then s.count (flStatus r.eng) 63 32 1 else s
    else s

/-- The oldest started request of a queue that still reads, and its next unit. -/
def State.flNext (s : State) (eng t : Nat) : Option (FlumeRun × Nat) :=
  match s.flume.runs.find? fun r => r.eng == eng && r.ten == t && !r.left.isEmpty with
  | some r => r.left.head?.map fun u => (r, u)
  | none => none

/-- Has a queue a unit that its stack would read now? -/
def State.flReady (s : State) (eng t : Nat) : Bool :=
  !s.flAway eng t && (s.flNext eng t).any fun p => !s.memHeld (256 * p.2)

/-- NOC_WEIGHT of a tenancy; 0 is read as 1 (R333). -/
def State.nocWeight (s : State) (t : Nat) : Nat := max 1 (s.field (0x620 + 8 * t) 23 16)

/-- A turn of a round among four tenancies: after the one served last, the next that is ready and has had fewer turns
than its weight; where none has any left, a new round begins (R333; log entry 112). The value is that tenancy with the
turns of the round as they then stand. -/
def nextTurn (last : Nat) (used : List Nat) (ready : Nat → Bool) (weight : Nat → Nat) : Option (Nat × List Nat) :=
  let order := [1, 2, 3, 4].map fun k => (last + k) % 4
  let take (used : List Nat) (t : Nat) : Nat × List Nat := (t, used.set t (used.getD t 0 + 1))
  match order.find? fun t => ready t && decide (used.getD t 0 < weight t) with
  | some t => some (take used t)
  | none => (order.find? ready).map (take [0, 0, 0, 0])

/-- The tenancy whose queue an engine reads next: one unit at a time, its queues in rotation, by their weights (R214,
R333). -/
def State.flTurn (s : State) (eng : Nat) : Option (Nat × List Nat) :=
  let (last, used) := SMap.get (3, [0, 0, 0, 0]) s.flume.turns eng
  nextTurn last used (s.flReady eng) s.nocWeight

/-- FLUME_UNIT_READ: the next unit of the oldest started request of a queue that still reads is read, once, as one
read (R174, R218), when it is the queue's turn (R214, R333). -/
def execFlumeUnitRead (eng t : Nat) (s : State) : Out :=
  match s.flNext eng t, s.flTurn eng with
  | some (r, u), some (v, used) =>
    if v ≠ t then .next s
    else
      let ls := unitsOf 64 (256 * u) 256
      let r' := { r with left := r.left.tail, units := SMap.put r.units u (s.memBytes (256 * u) 256),
                         marks := ls.foldl (fun m l => NSet.mark m l (s.lineView l).2) r.marks,
                         order := SMap.put r.order u s.noc.nextId }
      let s := { (s.touch (256 * u) 256).setRun r' with noc := { s.noc with nextId := s.noc.nextId + 1 } }
      .next ({ s with flume := { s.flume with turns := SMap.put s.flume.turns eng (v, used) } }.flRetire r.id)
  | _, _ => .next s

/-! ### The capture table (R139–R143) -/

/-- A capture entry. -/
def CoreImage.cap (m : CoreImage) (c : Nat) : CapEntry := SMap.get {} m.caps c

/-- A mismatch recorded in VCAP_STATUS (Table 5.8). -/
def vcapMismatch (w : Word) (index shard : Nat) : Word :=
  BitVec.ofNat 64 (min (bits 15 0 w.toNat + 1) 65535 + 2 ^ 16 * (index % 256) + 2 ^ 24 * (shard % 65536))

/-- A mismatch at a core counted (R140): in its entry, in VCAP_STATUS and in the tenancy's SHARD_POLICY. -/
def State.capMismatch (s : State) (t core index shard : Nat) : State :=
  let s := s.modImageOf core t fun m =>
    { m with caps := SMap.put m.caps index { m.cap index with stale := true },
             vcapStatus := vcapMismatch m.vcapStatus index shard }
  let off := 0x400 + 8 * t
  (s.setField off 1 1 1).count off 47 16 1

/-- Does the capture entry agree with a delivery (R139)? -/
def capAgrees (e : CapEntry) (shard : Nat) (version : BitVec 32) : Bool :=
  e.valid && e.shard == BitVec.ofNat 16 shard && e.version == version

/-! ### Deliveries (R217) -/

/-- A delivery leaves the list; `ok` where it completed at its core. -/
def State.flDone (s : State) (n : Nat) (r : FlumeRun) (ok : Bool) : State :=
  let s := { s with flume := { s.flume with deliveries := s.flume.deliveries.eraseIdx n } }
  (s.setRun { r with doneCores := r.doneCores + b2n ok }).flRetire r.id

/-- A delivery replaced. -/
def State.setDelivery (s : State) (n : Nat) (d : FlumeDelivery) : State :=
  { s with flume := { s.flume with deliveries := s.flume.deliveries.set n d } }

/-- The completion counter of a request at a destination (R217). -/
def FlumeReq.sigAt (q : FlumeReq) (rank : Nat) : Nat := if q.sigPerCore then q.sigObj + rank else q.sigObj

/-- The capture action and the signal after the last row (R139, R217, R332). -/
def State.flCapture (s : State) (r : FlumeRun) (d : FlumeDelivery) : State :=
  let q := r.req
  let sig (s : State) : State := if q.sigEn then s.addFrom (.flume r.eng d.core) r.ten (q.sigAt d.rank) 1 else s
  if q.capMode = 1 then
    sig (s.modImageOf d.core r.ten fun m =>
      { m with caps := SMap.put m.caps q.capIndex ⟨BitVec.ofNat 16 q.shard, r.version, true, false⟩ })
  else if q.capMode = 3 then
    { s with flume := { s.flume with slots := s.flume.slots ++
        [(⟨r.ten, q.capIndex, BitVec.ofNat 16 q.shard, r.version, d.core, r.eng,
           if q.sigEn then some (q.sigAt d.rank) else none⟩ : SlotRec)] } }
  else sig s

/-- The bytes of a row and the marks of its 64-byte units: of the lines read, and of the packets on their way. -/
def FlumeRun.rowData (r : FlumeRun) (bad : NSet) (row : Nat) : List Byte × List Bool :=
  let a := r.rowPa row
  let n := r.req.rowBytes
  let bs := ((unitsOf 256 a n).map fun u => SMap.get (List.replicate 256 0) r.units u).flatten
  ((bs.drop (a % 256)).take n, (unitsOf 64 a n).map fun l => NSet.has r.marks l || NSet.has bad (l / 4))

/-- A row of a delivery is written in the core store; with the last one the delivery completes. -/
def State.flRow (s : State) (n : Nat) (r : FlumeRun) (d : FlumeDelivery) (row : Nat) : State :=
  let v := r.rowData d.bad row
  let b := (rowAt r.req.dstAddr r.req.dstStride row).toNat
  let mark := unitsMark (r.rowPa row) v.2
  let s := (s.modImageOf d.core r.ten fun m => m.rowWrite b v.1 mark).delivered d.core b v.1 mark
  let d := { d with got := NSet.add d.got row, checked := true }
  if d.got.length = r.req.rows then (s.flCapture r d).flDone n r true else s.setDelivery n d

/-- The destination sites of the packet of a unit that goes to a site (R244). -/
def State.packetSites (s : State) (r : FlumeRun) (site : Nat) : List Nat :=
  ((multicastSets (r.cores.map s.siteOf)).find? fun ds => ds.contains site).getD []

/-- The spur by which a request's packets for a core enter the mesh, as a stop and its spur: the one that the engine's stop,
or in legacy edge mode the stop at its corner, names for the lowest site of their destinations (R243, R252). -/
def State.entrySpur (s : State) (r : FlumeRun) (core : Nat) : Nat × Option Nat :=
  let ds := s.packetSites r (s.siteOf core)
  let t := engStop r.eng
  let t := if s.legacy && !(legacyCorner t).2.contains t then nearestStop t (legacyCorner t).2 else t
  (t, s.stopSpur t (ds.foldl min (ds.headD 0)))

/-- When the last unit of a row was sent. -/
def FlumeRun.sentAt (r : FlumeRun) (row : Nat) : Nat :=
  ((unitsOf 256 (r.rowPa row) r.req.rowBytes).map (SMap.get 0 r.order)).foldl max 0

/-- Does an earlier row for the core that came by the same spur still travel (R239)? -/
def State.earlierRow (s : State) (r : FlumeRun) (core row : Nat) : Bool :=
  s.flume.deliveries.any fun e => e.core == core && (match s.flRun e.run with
    | none => false
    | some q => (q.id == r.id || s.entrySpur q core == s.entrySpur r core) &&
        (List.range q.req.rows).any fun k =>
          !NSet.has e.got k && q.rowReady k && decide (q.sentAt k < r.sentAt row))

/-- FLUME_DELIVERY_ARRIVAL: row `row` of delivery `n` arrives at its core (R139, R140, R216, R217). A CHECK is made
before the first row; under ACTION = FAULT a mismatch drops the delivery and faults the consuming stream. -/
def execFlumeDeliveryArrival (n row : Nat) (s : State) : Out :=
  match s.flume.deliveries[n]? with
  | none => .next s
  | some d =>
    match s.flRun d.run with
    | none => .next s
    | some r =>
      let q := r.req
      if !s.resident r.ten d.core || decide (q.rows ≤ row) || NSet.has d.got row || !r.rowReady row ||
          s.earlierRow r d.core row || s.rowOnWay r d.core row then .next s
      else if q.capMode = 2 ∧ d.checked = false ∧
          capAgrees ((s.imageOf d.core r.ten).cap q.capIndex) q.shard r.version = false then
        let s := s.capMismatch r.ten d.core q.capIndex q.shard
        if bit 0 (s.reg (0x400 + 8 * r.ten)) then .next (s.flRow n r d row)
        else
          let x := ((StreamId.ofNat? (q.capStream - 1))).getD .f
          .next ((s.externalFault r.ten ⟨d.core, x⟩ codeStaleShard 0).flDone n r false)
      else .next (s.flRow n r d row)

/-! ### Queue control (R219) -/

/-- The cancel of a queue's outstanding wait. -/
def State.flCancel (s : State) (eng t : Nat) : State :=
  let x := s.flq eng t
  match x.reqs with
  | q :: _ =>
    if x.waitSent && !x.waitMet then s.sendSync
      { src := .waiter (.flume eng t), ten := t, op := 3, obj := q.waitObj, x := q.waitValue, cancel := true }
    else s
  | [] => s

/-- FLUME_QUEUE_SKIP: in FAULTED, the faulted request is discarded. -/
def execFlumeQueueSkip (eng t : Nat) (s : State) : Out :=
  if (s.flq eng t).faulted then
    .next (s.modFlq eng t fun x => { reqs := x.reqs.tail })
  else .next s

/-- FLUME_QUEUE_CLEAR: every request that has not started is discarded. -/
def execFlumeQueueClear (eng t : Nat) (s : State) : Out :=
  if 16 ≤ eng ∨ 4 ≤ t then .next s else .next ((s.flCancel eng t).modFlq eng t fun _ => {})

/-! ### Sequence slots (R331, R332) -/

/-- The physical address of a slot. -/
def State.slotPa (s : State) (n : Nat) : Nat := bits 38 20 (s.reg 0x660) * 2 ^ 20 + 4096 * n

/-- Is a slot's entry valid, unmarked and the tenancy's, within its range? -/
def State.slotOk (s : State) (t n : Nat) : Bool :=
  let w := s.reg (0x668 + 8 * t)
  let x := s.memNat (s.slotPa n) 8
  !s.memMark (s.slotPa n) 8 && bit 0 x && bits 2 1 x == t &&
  decide (bits 7 0 w ≤ n) && decide (n < bits 7 0 w + bits 16 8 w)

/-- The entries of a leader's list. -/
def State.slotList (s : State) (l count : Nat) : List Nat :=
  (List.range count).map fun k => s.memNat (s.slotPa l + 32 + 8 * k) 8

/-- A drop counted (Table 13.8). -/
def State.slotDrop (s : State) (t : Nat) : State := s.count (0x668 + 8 * t) 47 32 1

/-- The reads that a record makes. -/
def State.slotTouch (s : State) (n l count : Nat) : State :=
  ((s.touch (s.slotPa n) 8).touch (s.slotPa l) 8).touch (s.slotPa l + 32) (8 * count)

/-- A record performed at the stack (R332). -/
def State.slotRecord (s : State) (r : SlotRec) : State :=
  let l := bits 15 8 (s.memNat (s.slotPa r.slot) 8)
  let head := s.memNat (s.slotPa l) 8
  let n := min (bits 47 32 head) 508
  if !s.slotOk r.ten r.slot || !s.slotOk r.ten l || s.memMark (s.slotPa l + 32) (8 * n) then
    (s.slotTouch r.slot l n).slotDrop r.ten
  else
    let e := r.shard.toNat + 2 ^ 32 * r.version.toNat
    let here := (s.slotList l n).any fun x => bits 15 0 x == r.shard.toNat && bits 63 32 x == r.version.toNat
    let s := s.slotTouch r.slot l n
    if here then s
    else if n < 508 then
      (s.memWrite (s.slotPa l + 32 + 8 * n) (bytesOf 8 e) false).memWrite (s.slotPa l)
        (bytesOf 8 (setBits 47 32 head (n + 1))) false
    else (s.memWrite (s.slotPa l) (bytesOf 8 (setBits 3 3 head 1)) false).slotDrop r.ten

/-- Can a capture not be at its stack: its core's tenancy is saved, an earlier one of its core is on its way, a stack holds
it, or a halted node cuts it off (R32, R176, R236)? -/
def State.recordWaits (s : State) (n : Nat) (r : SlotRec) : Bool :=
  let pa := s.slotPa r.slot
  !s.resident r.ten r.core || (s.flume.slots.take n).any (fun x => x.core == r.core) || s.memHeld pa ||
  s.memHeld (s.slotPa (bits 15 8 (s.memNat pa 8))) || s.cutOff r.core pa

/-- SLOT_RECORD: capture `n` of those on their way is performed at its stack; then its completion is signalled. -/
def execSlotRecord (n : Nat) (s : State) : Out :=
  match s.flume.slots[n]? with
  | none => .next s
  | some r =>
    if s.recordWaits n r then .next s
    else
      let s := { s with flume := { s.flume with slots := s.flume.slots.eraseIdx n } }
      let s := s.slotRecord r
      match r.sig with
      | some o => .next (s.addFrom (.flume r.eng r.core) r.ten o 1)
      | none => .next s

end Sys2Proof.Machine
end

