-- ==== Sys2Proof/Machine/Noc.lean ====
section
/-! DEFINITION. The rows of the mesh and the ring: hops and their errors (R236, R238, R241, R396), and Boom
(R246–R250). -/

namespace Sys2Proof.Machine

/-! ### Hops -/

/-- Does UTIL_SEL select an output of a node and a channel, 0–5 or 7 (R396)? -/
def State.utilSelects (s : State) (d : Node) (o : OutPort) (ch : Nat) : Bool :=
  let sel := s.reg (nocBase + 0x200)
  match d with
  | .site n =>
    bits 9 0 sel == n && bits 12 10 sel == outCode o && decide (outCode o < 7) &&
      (bits 15 13 sel == ch || (bits 15 13 sel == 6 && decide (ch < 6)))
  | .stop _ => false

/-- A flit or message that leaves an output counts in UTIL_FLITS where UTIL_SEL selects it (R396). -/
def State.countUtil (s : State) (d : Node) (o : OutPort) (ch : Nat) : State :=
  if s.utilSelects d o ch then s.count (nocBase + 0x208) 47 0 1 else s

/-- A cycle in which one is held for lack of credit counts in UTIL_BLOCKED (R396). -/
def State.countBlocked (s : State) (d : Node) (o : OutPort) (ch : Nat) : State :=
  if s.utilSelects d o ch then s.count (nocBase + 0x210) 47 0 1 else s

/-- The register of NOC.ERR_COUNT (Table 9.9). -/
def nocErr : Nat := nocBase + 0x18

/-- An error counted in NOC.ERR_COUNT, which Lookout counts too (R236, Table 14.4). -/
def State.nocError (s : State) (hi lo : Nat) : State := (s.count nocErr hi lo 1).lookout 5 1

/-- A node halted by an uncorrectable sideband error: it forwards nothing further, and the first halt is recorded
(R236). -/
def State.haltNode (s : State) (d : Node) : State :=
  let s := s.nocError 63 56
  let s := { s with noc := { s.noc with halted := NSet.add s.noc.halted (nodeKey d) } }
  if bit 1 (s.reg (nocBase + 8)) then s
  else
    let v := match d with
      | .site n => 2 + 4 * n
      | .stop n => 2 + 4 * n + 2 ^ 12
    s.setReg (nocBase + 8) v

/-- An uncorrectable payload error sets the mark of a packet, for the sites that it reaches that way (R236). -/
def State.markPkt (s : State) (dsts : List Nat) (p : Pkt) : State :=
  match p with
  | .acc id => { s with accMsgs := s.accMsgs.map fun d => if d.id = id then { d with bz := true } else d }
  | .flume run unit _ =>
    { s with flume := { s.flume with deliveries := s.flume.deliveries.map fun d =>
        (if d.run = run ∧ dsts.contains (s.siteOf d.core) = true then { d with bad := NSet.add d.bad unit } else d) } }
  | .reply c pa => s.modCore c fun k => { k with replyBz := NSet.add k.replyBz (pa / 64) }
  | .writeback c pa => s.modCore c fun k => { k with wbBz := NSet.add k.wbBz (pa / 64) }
  | .dma c pa toCore => s.modCore c fun k => { k with dmaBz := NSet.add k.dmaBz (dmaKey (pa / 64) toCore) }
  | .dmaCore c other out => s.modCore c fun k => { k with dmaBz := NSet.add k.dmaBz (dmaCoreKey other out) }
  | .image c unit restore => s.modCore c fun k => { k with imageBz := NSet.add k.imageBz (2 * unit + b2n restore) }
  | .hostData n q pa =>
    { s with host := { s.host with cmds := s.host.cmds.map fun c =>
        (if c.session = n ∧ c.seq = q then { c with bad := NSet.add c.bad (pa / 256) } else c) } }
  | .collData e pa _ => { s with fab := { s.fab with bad := NSet.add s.fab.bad (2 ^ 33 * e + pa / 64) } }
  | .other _ _ _ _ _ => s

/-- A configuration command whose access comes blazed, or a CFG_READ whose value does: that one is kept from the host
(R236, R314). -/
def HostCmd.marked (c : HostCmd) : HostCmd :=
  match c.phase with
  | .waiting => c
  | .atDispatch => { c with bz := true }
  | .started => { c with bz := true }
  | .done =>
    if leNat (c.bytes.take 1) = 1 ∧ c.status = 0 then { c with status := 1, code := codeBlazeBite, detail := 0, out := [] }
    else c
  | .completed => c

/-- An uncorrectable payload error sets the mark of a message (R236). That of a fault record or of a non-finite notice has no
effect: its chapter gives none to it (DEDUCED, log entry 138). -/
def State.markMsg (s : State) (dsts : List Nat) (m : Msg) : State :=
  match m with
  | .sync id =>
    { s with sync := { s.sync with ops := s.sync.ops.map fun o => if o.id = id then { o with bz := true } else o } }
  | .wake id =>
    { s with sync := { s.sync with wakes := s.sync.wakes.map fun w =>
        (if w.id = id ∧ (dsts = [] ∨ dsts.any (fun n => s.waiterNode w.waiter == .site n) = true) then
          { w with bz := true } else w) } }
  | .mark id =>
    { s with tally := { s.tally with msgs := s.tally.msgs.map fun x => if x.id = id then { x with bz := true } else x } }
  | .rmt c => s.modCore c fun k => { k with rmtBz := true }
  | .config n q =>
    { s with host := { s.host with cmds := s.host.cmds.map fun c =>
        (if c.session = n ∧ c.seq = q then c.marked else c) } }
  | .fault _ => s
  | .notice _ => s
  | .other _ _ _ => s

/-- The mark of an uncorrectable payload error. -/
def State.markCargo (s : State) (dsts : List Nat) : Cargo → State
  | .data p => s.markPkt dsts p
  | .control m => s.markMsg dsts m

/-- A flit or message leaves an output of a node (R236, R238): its turn and its credits decide whether it does; a payload
error is corrected or marks it, counted in `corr` or `ue` of ERR_COUNT, and a sideband error halts the node. -/
def State.forward (s : State) (d : Node) (o : OutPort) (c : Cargo) (err : HopError) (corr ue : Nat × Nat) : State :=
  match s.hop c d o with
  | .no => s
  | .blocked => s.countBlocked d o (((s.noc.carrier c).map NetPacket.ch).getD 0)
  | .go p b owner =>
    let dsts := ((b.legs.find? fun l => l.out == o).map Leg.dsts).getD []
    let go (s : State) : State :=
      let s := if p.ch = 7 then s else { s with noc := s.noc.useCycle (outKey (nodeKey d) o) owner }
      (s.countUtil d o p.ch).moveFlit p b d o
    match err with
    | .sideband => s.haltNode d
    | .none => go s
    | .corrected => go (s.nocError corr.1 corr.2)
    | .sidebandCorrected => go (s.nocError corr.1 corr.2)
    | .payload => go ((s.nocError ue.1 ue.2).markCargo dsts c)

/-- A hop of the data or the control plane: what moves enters at its source with its first hop. -/
def State.hopRow (s : State) (d : Node) (o : OutPort) (c : Cargo) (e : Option Entry) (err : HopError)
    (corr ue : Nat × Nat) : State :=
  if !s.nodeUp d || !s.hasOut d o || s.untreated d c then s
  else match s.entered c e d with
    | none => s
    | some s => s.forward d o c err corr ue

/-- DATA_PACKET_HOP: a flit leaves an output of a node (R235–R239, R242–R245). -/
def execDataPacketHop (node : Node) (out : OutPort) (pkt : Pkt) (err : HopError) (s : State) : Out :=
  .next (s.hopRow node out (.data pkt) (s.pktEntry pkt) err (15, 0) (31, 16))

/-- CONTROL_MESSAGE_HOP: as a flit's hop, on the control plane. -/
def execControlMessageHop (node : Node) (out : OutPort) (msg : Msg) (err : HopError) (s : State) : Out :=
  .next (s.hopRow node out (.control msg) (s.msgEntry msg) err (47, 32) (55, 48))

/-! ### Boom -/

/-- The contexts of a router. -/
def State.ctxs (s : State) (site : Nat) : SMap BoomCtx := SMap.get [] s.noc.ctxs site

/-- ROUTER_STATUS but CTX_IN_USE (Table 9.9). -/
def State.routerWord (s : State) (site : Nat) : Nat := (SMap.get 0 s.noc.status site).toNat

/-- A field of ROUTER_STATUS set. -/
def State.setRouter (s : State) (site hi lo v : Nat) : State :=
  { s with noc := { s.noc with
      status := SMap.put s.noc.status site (BitVec.ofNat 64 (setBits hi lo (s.routerWord site) v)) } }

/-- A counter of ROUTER_STATUS counted, saturating. -/
def State.countRouter (s : State) (site hi lo : Nat) : State :=
  s.setRouter site hi lo (min (bits hi lo (s.routerWord site) + 1) (2 ^ (hi + 1 - lo) - 1))

/-- The contexts of a router replaced; the high water follows. -/
def State.setCtxs (s : State) (site : Nat) (cs : SMap BoomCtx) : State :=
  let s := { s with noc := { s.noc with ctxs := SMap.put s.noc.ctxs site cs } }
  if bits 13 7 (s.routerWord site) < cs.length then s.setRouter site 13 7 cs.length else s

/-- Do two deliveries have the same key (R246)? -/
def sameKey (a b : AccDelivery) : Bool :=
  a.ten == b.ten && a.ctx == b.ctx && a.block == b.block && a.bf16 == b.bf16 && a.sigEn == b.sigEn &&
  (!a.sigEn || a.sig == b.sig)

/-- The format of a delivery's data. -/
def accFmt (bf16 : Bool) : Fmt := if bf16 then .bf16 else .fp32

/-- Two elements added as engines add them: in FP32 with subnormals kept, rounded to nearest even into the target
format; a NaN is canonical (R38, R197, R247). -/
def engineAdd (f : Fmt) (a b : FVal) : Elt :=
  result true f (readElement true .fp32 (result true .fp32 (addVal false a b)).bits)

/-- The merge of an arrival into a context (R247). -/
def mergeInto (c a : AccDelivery) : AccDelivery :=
  if a.bz then { c with n := c.n + a.n }
  else
    let f := accFmt c.bf16
    let es := ((lanesOf f c.data).zip (lanesOf f a.data)).map fun p =>
      engineAdd f (readElement true f p.1) (readElement true f p.2)
    { c with data := ofLanes f (es.map Elt.bits), k := c.k + a.k, n := c.n + a.n }

/-- The acknowledgement to a delivery's core, where it names one (R249). -/
def State.boomAck (s : State) (site : Nat) (d : AccDelivery) : State :=
  if d.named then
    { s with accAcks := s.accAcks ++ [{ src := d.src, ten := d.ten, va := d.va, n := d.n, denied := false, sender := site, block := d.block }] }
  else s

/-- A delivery removed from those on their way, and from the network. -/
def State.dropAcc (s : State) (n : Nat) : State :=
  match s.accMsgs[n]? with
  | some d => { s with accMsgs := s.accMsgs.eraseIdx n }.takeOut (.data (.acc d.id))
  | none => s

/-- A delivery on its way changed. -/
def State.modAcc (s : State) (n : Nat) (g : AccDelivery → AccDelivery) : State :=
  { s with accMsgs := s.accMsgs.zipIdx.map fun q => if q.2 = n then g q.1 else q.1 }

/-- The lowest free context of 64. -/
def freeCtx (cs : SMap BoomCtx) : Option Nat := (List.range 64).find? fun k => (SMap.get? cs k).isNone

/-- Cases 3 to 6 of Table 9.5. A delivery that stands for a context names no source and is no packet yet. -/
def boomRest (site n : Nat) (d : AccDelivery) (s : State) : State :=
  let pass (d : AccDelivery) : AccDelivery := { d with heldAt := none, passedAt := some site }
  if d.bz then s.modAcc n pass
  else match freeCtx (s.ctxs site) with
    | some k =>
      ((s.dropAcc n).boomAck site d).setCtxs site
        (SMap.put (s.ctxs site) k ⟨{ d with named := false, heldAt := none, passedAt := some site, origin := site, id := 0 }, false⟩)
    | none =>
      if bit 10 (s.reg (nocBase + 0x10)) then (s.modAcc n pass).countRouter site 63 48
      else s.modAcc n fun d => { d with heldAt := some site }

/-- Does a delivery stand at a router: with all its flits and none of them sent? -/
def State.accAt (s : State) (site : Nat) (d : AccDelivery) : Bool :=
  match s.noc.carrier (.data (.acc d.id)) with
  | none => false
  | some p => s.noc.branches.any fun b =>
      b.id == p.id && b.node == site && b.came == p.flits && b.legs.all fun l => l.sent == 0

/-- A router's context into which a delivery can be merged (case 1 of Table 9.5). -/
def State.mergeCtx (s : State) (site : Nat) (d : AccDelivery) : Option (Nat × BoomCtx) :=
  (s.ctxs site).find? fun p =>
    !p.2.d.bz && sameKey p.2.d d && decide ((if d.bz then p.2.d.k else p.2.d.k + d.k) ≤ 65535) &&
      decide (p.2.d.n + d.n ≤ 65535)

/-- A router's contexts with those of a key eligible to leave (case 2 of Table 9.5). -/
def freeKey (d : AccDelivery) (cs : SMap BoomCtx) : SMap BoomCtx :=
  cs.map fun p => (p.1, if !p.2.d.bz && sameKey p.2.d d then { p.2 with eligible := true } else p.2)

/-- A delivery that stands at a router, treated by the first case of Table 9.5 that applies. -/
def State.boomTreat (s : State) (site n : Nat) (d : AccDelivery) : State :=
  match s.mergeCtx site d with
  | none => boomRest site n d (s.setCtxs site (freeKey d (s.ctxs site)))
  | some (j, c) =>
    let s := ((s.dropAcc n).boomAck site d).setCtxs site (SMap.put (s.ctxs site) j { c with d := mergeInto c.d d })
    let s := s.countRouter site 31 16
    if d.bz then s.countRouter site 47 32 else s

/-- BOOM_ARRIVAL: delivery `n` of those on their way arrives at a router (Table 9.5): the one into which its core puts it
through the local port, or the one to which its flits have come. -/
def execBoomArrival (site n : Nat) (s : State) : Out :=
  match s.accMsgs[n]? with
  | none => .next s
  | some d =>
    if d.ctx = 0 || !s.nodeUp (.site site) then .next s
    else match s.entered (.data (.acc d.id)) (s.pktEntry (.acc d.id)) (.site site) with
      | none => .next s
      | some t => .next (if t.accAt site d then t.boomTreat site n d else s)

/-- A context changed. -/
def State.modCtx (s : State) (site ctx : Nat) (g : BoomCtx → BoomCtx) : State :=
  match SMap.get? (s.ctxs site) ctx with
  | some c => s.setCtxs site (SMap.put (s.ctxs site) ctx (g c))
  | none => s

/-- BOOM_HOLD_EXPIRY: HOLD cycles after its allocation a context may leave (R248). -/
def execBoomHoldExpiry (site ctx : Nat) (s : State) : Out :=
  .next (s.modCtx site ctx fun c => { c with eligible := true })

/-- BOOM_CONTEXT_STORAGE_ERROR: a context is marked, merges no more and may leave at once (R248). -/
def execBoomContextStorageError (site ctx : Nat) (s : State) : Out :=
  .next (s.modCtx site ctx fun c => { d := { c.d with bz := true }, eligible := true })

/-- A context's delivery as a packet: it stands in the contexts' storage, which takes no buffer of an input port (log
entry 138). -/
def State.ctxEntry (s : State) (site : Nat) (d : AccDelivery) : Entry :=
  { entryFor (.site site) 3 4 (s.stackDest (256 * d.block)) with port := 7 }

/-- A context taken out of its router as one delivery. -/
def State.leaving (s : State) (site ctx : Nat) (d : AccDelivery) : State :=
  ((s.setCtxs site (SMap.del (s.ctxs site) ctx)).sendAcc d).putPacket (.data (.acc s.noc.nextId)) (s.ctxEntry site d)

/-- BOOM_CONTEXT_LEAVE: the first flit of an eligible context leaves its router, at its turn and with a credit as any
packet's (R238, R248); until then the context stands, and arrivals merge into it. -/
def execBoomContextLeave (site ctx : Nat) (s : State) : Out :=
  match SMap.get? (s.ctxs site) ctx with
  | none => .next s
  | some c =>
    let d : Node := .site site
    if !c.eligible || !s.nodeUp d then .next s
    else
      let pkt : Cargo := .data (.acc s.noc.nextId)
      let out := s.firstOut (s.ctxEntry site c.d)
      let t := s.leaving site ctx c.d
      match t.hop pkt d out with
      | .no => .next s
      | .blocked => .next (s.countBlocked d out 3)
      | .go _ _ _ => .next (t.forward d out pkt .none (15, 0) (31, 16))

end Sys2Proof.Machine
end

