-- ==== Sys2Proof/Machine/AccEngine.lean ====
section
/-! DEFINITION. The accumulate engines (R195–R201, R249, R349) and the completions that return to the cores (R221). -/

namespace Sys2Proof.Machine

/-- The delivery's treatment by the accumulate engine (Table 7.11). -/
inductive Treat where
  | outside | frozen | excluded | reseed | add
  deriving DecidableEq, Repr

/-- Is the group of a delivery's shard frozen, as its engine reads it (R137, R138)? The engines' copies of word 11 are never
stale (R198); what reading a descriptor for one leaves behind is open (DESIGN CHOICE, log entry 161). -/
def State.accFrozen (s : State) (d : AccDelivery) : Bool :=
  let e := s.shard d.shard
  e.validFor d.ten && (s.gdesc e.group).frozen

/-- Is the shard's entry read at a delivery: does its stack take it, the windows permit it, and an accumulate window hold its
block (R197, R207)? -/
def State.accReads (s : State) (d : AccDelivery) : Bool :=
  let pa := 256 * d.block
  (s.stack (stackOf pa)).state != stFailed && s.memOk (masterTen d.ten) pa 256 true && (s.accWindow pa).isSome

/-- Is the entry of a delivery's shard, where it is read, held at its stack or cut off (R176, R236)? -/
def State.entryHeld (s : State) (d : AccDelivery) : Bool :=
  let pa := (s.shard d.shard).pa
  s.accReads d && (s.memHeld pa || s.stopCut ((stackStops (stackOf (256 * d.block))).headD 0) pa)

/-- The first case of Table 7.11 that applies. -/
def State.treatment (s : State) (d : AccDelivery) (countUe : Bool) : Treat :=
  if (s.accWindow (256 * d.block)).isNone then .outside
  else if s.accFrozen d then .frozen
  else if d.bz then .excluded
  else if countUe || s.countBad d.block || s.memMark (256 * d.block) 256 then .reseed
  else .add

/-- The elements of a delivery as the block of the buffer's format takes them: FP32 data of a BF16 buffer covers
elements 0 to 63, BF16 data of an FP32 buffer stands in the first 128 bytes (R196). -/
def accElements (bufBf16 : Bool) (d : AccDelivery) : List FVal :=
  let f := accFmt d.bf16
  ((lanesOf f d.data).take (if bufBf16 && d.bf16 then 128 else 64)).map (readElement true f)

/-- The elements of a block after an ADD (R197): the data's elements are added, any further ones stay. -/
def accAdd (f : Fmt) (old : List Nat) (new : List FVal) : List Elt × List Nat :=
  (((old.take new.length).zip new).map fun p => engineAdd f (readElement true f p.1) p.2, old.drop new.length)

/-- A value with a NaN made canonical (R38). -/
def quietNan (v : FVal) : FVal := if v.isNan then .canonical else v

/-- The elements of a block after a RESEED: the data converted, a NaN to the canonical one, any further ones +0 (R38,
R196). -/
def accSeed (f : Fmt) (new : List FVal) : List Elt × List Nat :=
  (new.map fun v => result true f (quietNan v), List.replicate (f.lanes - new.length) 0)

/-- MEM.ACC_STATUS of a stack. -/
def accStatus (st : Nat) : Nat := memBase st + 0x340

/-- Does the tenancy take notices of the engines (R348)? -/
def State.enginesNotice (s : State) (t : Nat) : Bool := bit 11 (s.reg (lookBase + 0x200 + 8 * t))

/-- A block written by an engine with its count; the number of non-finite elements written (Table 7.11). Elements 64 to 127
of a BF16 block, which FP32 data leaves as they were, are not counted (DESIGN CHOICE, log entry 153). -/
def State.accWrite (s : State) (d : AccDelivery) (bufBf16 : Bool) (r : List Elt × List Nat) (count : Nat) :
    State × Nat :=
  let f := accFmt bufBf16
  let st := stackOf (256 * d.block)
  let bad := (r.1.filter fun e => (readElement true f e.bits).isNan || (readElement true f e.bits).isInf).length
  let bs := bytesOf 256 (pack f.width (r.1.map Elt.bits ++ r.2))
  let old := s.accCount d.block
  let s := (s.memWrite (256 * d.block) bs false).setCount d.block count
  let s := if count = 65535 ∧ old < 65535 then s.count (accStatus st) 47 40 1 else s
  (s.count (accStatus st) 63 56 bad, bad)

/-- The completion of a delivery (R199, R221, R249): its counter, its source's acknowledgement, or the record of
one that names no source and is denied. -/
def State.accComplete (s : State) (d : AccDelivery) (denied : Bool) : State :=
  let s := if d.sigEn then s.signal d.ten 4 (stackOf (256 * d.block)) d.sig d.n else s
  if d.named then { s with accAcks := s.accAcks ++
    [({ src := d.src, ten := d.ten, va := d.va, n := d.n, denied := denied, sender := 640 + stackOf (256 * d.block),
        block := d.block } : DaccAck)] }
  else if denied then
    s.sendFault ⟨4, codeAccess, d.ten, 0, 256 * d.block, d.ctx.toNat, false, 0, 0, 0⟩
  else s

/-- A treatment's notice: a non-finite element raises one, unless one of the engine is unacknowledged; the
completion then waits (R348, R349). -/
def State.accNotice (s : State) (d : AccDelivery) (bad : Nat) : State :=
  let st := stackOf (256 * d.block)
  if bad ≠ 0 ∧ s.enginesNotice d.ten = true then
    let n := s.accNotices
    { s with accNotices :=
      { out := if (SMap.get? n.out st).isSome then n.out else SMap.put n.out st d.ten, held := n.held ++ [(st, d)] } }
  else s.accComplete d false

/-- A delivery treated at its engine (R197). A FAILED stack discards it, and whether its completion still comes is
not stated (R177). -/
def State.accTreat (s : State) (d : AccDelivery) (countUe : Bool) : State :=
  let pa := 256 * d.block
  let st := stackOf pa
  let m := masterTen d.ten
  if (s.stack st).state = stFailed then
    let s := (s.count (memBase st + 0x30) 55 40 1).draw 1
    if Config.coin (s.free - 1) then s.accComplete d false else s
  else if !s.memOk m pa 256 true then (s.memDenied m pa true).accComplete d true
  else
    let buf := (s.accWindow pa).getD false
    let f := accFmt buf
    let how := s.treatment d countUe
    let s := if s.accReads d then s.touch (s.shard d.shard).pa 32 else s
    match how with
    | .outside => (s.count (accStatus st) 55 48 1).accComplete d true
    | .frozen => (s.count (accStatus st) 15 0 1).accComplete d false
    | .excluded => (s.count (accStatus st) 31 16 1).accComplete d false
    | .reseed =>
      let (s, bad) := ((s.touch pa 256).count (accStatus st) 39 32 1).accWrite d buf (accSeed f (accElements buf d)) d.k
      s.accNotice d bad
    | .add =>
      let old := unpack f.width f.lanes (s.memNat pa 256)
      let (s, bad) := (s.touch pa 256).accWrite d buf (accAdd f old (accElements buf d))
        (min 65535 (s.accCount d.block + d.k))
      s.accNotice d bad

/-- Does an earlier delivery outside Boom of the same core to the same stack still travel (R32, R239)? -/
def earlierAcc (ds : List AccDelivery) (n : Nat) (d : AccDelivery) : Bool :=
  d.ctx == 0 && (ds.take n).any fun e =>
    e.ctx == 0 && e.src.core == d.src.core && e.block / 2 ^ 28 == d.block / 2 ^ 28

/-- Can a delivery not be at its stack: a later one of its path, held there with its shard's entry or at a router, still
travelling, or cut off by a halted node (R32, R176, R236, R247)? -/
def State.accWaits (s : State) (n : Nat) (d : AccDelivery) : Bool :=
  earlierAcc s.accMsgs n d || s.memHeld (256 * d.block) || s.entryHeld d || d.heldAt.isSome ||
  s.onWay (.data (.acc d.id)) none || s.cut (s.pktEntry (.acc d.id))

/-- ACC_DELIVERY_ARRIVAL: delivery `n` of those on their way arrives at its stack (Table 7.11); `countUe`: the
block's count is uncorrectable. -/
def execAccDeliveryArrival (n : Nat) (countUe : Bool) (s : State) : Out :=
  match s.accMsgs[n]? with
  | none => .next s
  | some d =>
    if s.accWaits n d then .next s
    else .next ((s.dropAcc n).accTreat d countUe)

/-- How a completion or acknowledgement travels to its core: from a router, or back from its stack (R243, R249). -/
def State.ackEntry (s : State) (a : DaccAck) : Entry :=
  if a.sender < 640 then entryFor (.site a.sender) 0 1 (.site (s.siteOf a.src.core))
  else s.fromStack a.src.core (256 * a.block) 0 1

/-- Can an acknowledgement not be at its core: an earlier one of its sender to that core is on its way, or a halted node
cuts it off (R32, R236)? -/
def State.ackWaits (s : State) (n : Nat) (a : DaccAck) : Bool :=
  (s.accAcks.take n).any (fun b => b.sender == a.sender && b.src.core == a.src.core) || s.cut (some (s.ackEntry a))

/-- DACC_ACK_ARRIVAL: completion or acknowledgement `n` reaches its core: a tracker entry is freed, and a denied
delivery faults its stream with ACCESS (R221, R249, R432). -/
def execDaccAckArrival (n : Nat) (s : State) : Out :=
  match s.accAcks[n]? with
  | none => .next s
  | some a =>
    if s.ackWaits n a then .next s
    else
      let s := { s with accAcks := s.accAcks.eraseIdx n }
      let s := s.setTrack a.src (s.track a.src - 1)
      .next (if a.denied then s.externalFault a.ten a.src codeAccess a.va else s)

end Sys2Proof.Machine
end

