-- ==== Sys2Proof/Machine/Flags.lean ====
section
/-! DEFINITION. The conditions of compares and branches (R74) and the marks of written destinations (R62). The
device keeps no arithmetic flags (R48). -/

namespace Sys2Proof.Machine

/-- COND of `cmp` and `br` (R74): none for the reserved code. -/
def condScalar (cond : BitVec 3) (a b : Word) : Option Bool :=
  match cond.toNat with
  | 0 => some (a == b)
  | 1 => some (a != b)
  | 2 => some (a.slt b)
  | 3 => some (!a.slt b)
  | 4 => some (a.ult b)
  | 5 => some (!a.ult b)
  | 6 => some true
  | _ => none

/-- Does the condition read its operands (R74)? -/
def condReads (cond : BitVec 3) : Bool := decide (cond.toNat ≠ 6)

/-- COND of `vcmp` on two values of a floating-point format (R74). -/
def condFloat (cond : BitVec 3) (a b : FVal) : Option Bool :=
  let un := a.isNan || b.isNan
  match cond.toNat with
  | 0 => some (!un && eqVal a b)
  | 1 => some (un || !eqVal a b)
  | 2 => some (!un && ltVal a b)
  | 3 => some (!un && !ltVal a b)
  | 4 => some (!un && !ltVal b a)
  | 5 => some un
  | 6 => some true
  | _ => none

/-- COND of `vcmp` on two lanes of an integer format (R74). -/
def condInt (cond : BitVec 3) (w : Nat) (a b : Nat) : Option Bool :=
  match cond.toNat with
  | 0 => some (a == b)
  | 1 => some (a != b)
  | 2 => some (decide (signedOf w a < signedOf w b))
  | 3 => some (decide (signedOf w b ≤ signedOf w a))
  | 4 => some (decide (a < b))
  | 5 => some (decide (b ≤ a))
  | 6 => some true
  | _ => none

/-- The mark of a vector destination: the sources' marks, with its own where a lane keeps its value (R62). -/
def destMark (partialWrite old src : Bool) : Bool := if partialWrite then old || src else src

end Sys2Proof.Machine
end

