-- ==== Sys2Proof/Machine/ArrayOps.lean ====
section
/-! DEFINITION. Instructions of the array in flight, and the orders between streams on tiles and accumulators
(R64, R66, R80, R108). -/

namespace Sys2Proof.Machine

/-- The result of an array instruction written to its accumulator (R64, R108). -/
def State.commit (s : State) (c : Nat) (f : InFlight) : State :=
  s.setAcc c f.acc ((((s.core c).img.acc f.acc).setWords f.words).setSegs f.segs)

/-- Results written in issue order. -/
def State.commitAll (s : State) (c : Nat) (fs : List InFlight) : State := fs.foldl (fun s f => s.commit c f) s

/-- Every array instruction of a stream retires. -/
def State.retireStream (s : State) (i : At) : State :=
  let (mine, rest) := (s.core i.core).inflight.partition fun f => f.stream == i.stream
  (s.modCore i.core fun k => { k with inflight := rest }).commitAll i.core mine

/-- Every array instruction of a core retires. -/
def State.retireAll (s : State) (c : Nat) : State :=
  let fs := (s.core c).inflight
  (s.modCore c fun k => { k with inflight := [] }).commitAll c fs

/-- Byte `j` of a destination of a dropped instruction: its old value or the one it would have been given (R66). -/
def mixByte (n j old new : Nat) : Nat := bits (8 * j + 7) (8 * j) (if Config.coin (n + j) then new else old)

/-- A word of a dropped instruction, byte by byte; it takes four draws from `n`. -/
def mixWord (n : Nat) (old new : W32) : W32 :=
  BitVec.ofNat 32 (pack 8 ((List.range 4).map fun j => mixByte n j old.toNat new.toNat))

/-- An array instruction dropped by ABORT: each byte of its words old or new, each segment's mark the new one,
kept also where it was set, since old bytes may remain (R62, R66). -/
def State.dropFlight (s : State) (c : Nat) (f : InFlight) : State :=
  let a := (s.core c).img.acc f.acc
  let ws := f.words.zipIdx.map fun p => (p.1.1, mixWord (s.free + 4 * p.2) (a.word p.1.1) p.1.2)
  let gs := f.segs.map fun p => (p.1, p.2 || a.seg p.1)
  (s.setAcc c f.acc ((a.setWords ws).setSegs gs)).draw (4 * f.words.length)

/-- The array instructions of a stream dropped by ABORT. -/
def State.dropStream (s : State) (i : At) : State :=
  let (mine, rest) := (s.core i.core).inflight.partition fun f => f.stream == i.stream
  mine.foldl (fun s f => s.dropFlight i.core f) (s.modCore i.core fun k => { k with inflight := rest })

/-- The streams of a core other than one. -/
def otherStreams : StreamId → List StreamId
  | .f => [.b, .u]
  | .b => [.f, .u]
  | .u => [.f, .b]

/-- Does a held `tcfg` of another stream target the tile (R80)? A `tld` or `tst` of this stream that was stopped
part-way is no new instruction: it goes on. -/
def State.tileHeld (s : State) (i : At) (t : Nat) : Bool :=
  (s.stream i).partTile != some t && (otherStreams i.stream).any fun x =>
    match (s.stream ⟨i.core, x⟩).heldTcfg with
    | some o => o.tile.toNat == t
    | none => false

/-- Is a `tld` or `tst` of another stream on the tile stopped part-way, and so still in flight (R80)? -/
def State.tilePart (s : State) (i : At) (t : Nat) (onlyWrites : Bool) : Bool :=
  (otherStreams i.stream).any fun x =>
    let y := s.stream ⟨i.core, x⟩
    y.partTile == some t && (y.partWrites || !onlyWrites)

/-- Must an instruction that writes the tile wait (R64)? -/
def State.tileWriteBusy (s : State) (i : At) (t : Nat) : Bool :=
  (s.core i.core).inflight.any (fun f => f.ta == t || f.tw == t) || s.tilePart i t false

/-- Must an instruction that reads the tile wait (R64)? -/
def State.tileReadBusy (s : State) (i : At) (t : Nat) : Bool := s.tilePart i t true

/-- Must an instruction that names the accumulator wait for an earlier one (R64)? -/
def State.accBusy (s : State) (c a : Nat) : Bool := (s.core c).inflight.any fun f => f.acc == a

/-- The waits of an instruction on tiles it reads and writes and on accumulators, before its effect (R64, R80). -/
def State.ordered (s : State) (i : At) (reads writes accs : List Nat) (k : State → Eff) : Eff :=
  if accs.any (s.accBusy i.core) then .stall s .accBusy
  else if reads.any (s.tileReadBusy i) || writes.any (s.tileWriteBusy i) then .stall s .operand
  else k s

/-- An instruction that names tiles waits behind a held `tcfg` of another stream on any of them (R80). -/
def State.unheld (s : State) (i : At) (tiles : List Nat) (k : State → Eff) : Eff :=
  if tiles.any (s.tileHeld i) then .stall s .tcfgHold else k s

end Sys2Proof.Machine
end

