-- ==== Sys2Proof/Machine/Vector.lean ====
section
/-! DEFINITION. The V class (R47, R48, R76, R430–R434, Tables 3.5 and 3.7). -/

namespace Sys2Proof.Machine

/-- Lanes written under a predicate: the new element where the lane is active, the old bits where not. -/
def maskLanes (mask : BitVec 256) (w : Nat) (old : List Nat) (new : Nat → Elt) : List Elt :=
  old.zipIdx.map fun p => if laneOn mask (p.2 * w) then new p.2 else ⟨p.1, false⟩

/-- Is every one of the first `n` lanes of `w` bytes active? -/
def allLanes (mask : BitVec 256) (w n : Nat) : Bool := (List.range n).all fun j => laneOn mask (j * w)

/-- A vector result and the non-finite events of the lanes written, none where the register is marked (R58). -/
def State.putLanes (s : State) (i : At) (vd : VReg) (f : Fmt) (es : List Elt) (bz : Bool) : State :=
  (s.putV i vd (ofLanes f (es.map Elt.bits)) bz).nonFinite i (nfPlace f)
    (if bz then 0 else (es.filter Elt.nf).length)

/-- What a vector instruction on lanes of an arithmetic format does: `fmtOk` says which formats it takes, `srcs` which
registers it reads, `lane` what it computes from the lanes of va, vb and vc. -/
def vectorWork (i : At) (o : VOp) (fmtOk : Fmt → Bool) (srcs : List VReg)
    (lane : Stream → Fmt → Nat → Nat → Nat → Elt) (s : State) : Eff :=
  let t := s.stream i
  match arithFmt o.fmt.toNat, predMask t o.pred o.pneg with
  | some f, some mask =>
    if !fmtOk f then .illegal
    else
      let a := lanesOf f (t.vreg o.va).val
      let b := lanesOf f (t.vreg o.vb).val
      let c := lanesOf f (t.vreg o.vc).val
      let old := t.vreg o.vd
      let es := maskLanes mask f.laneBytes (lanesOf f old.val) fun j =>
        lane t f (a.getD j 0) (b.getD j 0) (c.getD j 0)
      let bz := destMark (!allLanes mask f.laneBytes f.lanes) old.bz (srcs.any fun r => (t.vreg r).bz)
      .done (s.putLanes i o.vd f es bz)
  | _, _ => .illegal

/-- A vector instruction on lanes, in one cycle of the engine. -/
def vectorOp (i : At) (o : VOp) (fmtOk : Fmt → Bool) (srcs : List VReg)
    (lane : Stream → Fmt → Nat → Nat → Nat → Elt) (s : State) : Out :=
  issueVector i s (vectorWork i o fmtOk srcs lane)

/-- A vector instruction that strict mode issues at a quarter of the rate (Table 2.7). -/
def quarterOp (i : At) (o : VOp) (fmtOk : Fmt → Bool) (srcs : List VReg)
    (lane : Stream → Fmt → Nat → Nat → Nat → Elt) (s : State) : Out :=
  issueOn .vector i s fun s => (vectorWork i o fmtOk srcs lane s).vectorBusy i (if (s.stream i).strict then 4 else 1)

/-- An exact integer result, saturated once; saturations of INT32 count (R434). -/
def intElt (f : Fmt) (x : Int) : Elt :=
  let r := saturate f.width x
  ⟨r.1, r.2 && decide (f = .int32)⟩

/-- A lane operation: exact on integers, one rounding to nearest even on floating point (R48, R434). -/
def laneOp (fi : Int → Int → Int → Int) (ff : Bool → FVal → FVal → FVal → FVal) (t : Stream) (f : Fmt)
    (a b c : Nat) : Elt :=
  if f.isInt then intElt f (fi (signedOf f.width a) (signedOf f.width b) (signedOf f.width c))
  else result t.strict f
    (ff t.strict (readElement t.strict f a) (readElement t.strict f b) (readElement t.strict f c))

/-- Every arithmetic format. -/
def anyFmt (_ : Fmt) : Bool := true

/-- `vadd`. -/
def execVadd (i : At) (o : VOp) (s : State) : Out :=
  vectorOp i o anyFmt [o.va, o.vb] (laneOp (fun a b _ => a + b) fun st a b _ => addVal st a b) s

/-- `vsub`. -/
def execVsub (i : At) (o : VOp) (s : State) : Out :=
  vectorOp i o anyFmt [o.va, o.vb] (laneOp (fun a b _ => a - b) fun st a b _ => addVal st a b.negate) s

/-- `vmul`. -/
def execVmul (i : At) (o : VOp) (s : State) : Out :=
  vectorOp i o anyFmt [o.va, o.vb] (laneOp (fun a b _ => a * b) fun st a b _ => mulVal st a b) s

/-- `vfma`: va × vb + vc with one rounding. -/
def execVfma (i : At) (o : VOp) (s : State) : Out :=
  vectorOp i o anyFmt [o.va, o.vb, o.vc] (laneOp (fun a b c => a * b + c) fmaVal) s

/-- The larger of two values, NaN if either is; of two zeros, the positive one. -/
def maxVal (strict : Bool) (a b : FVal) : FVal :=
  if a.isNan || b.isNan then nanOf strict [a, b]
  else if eqVal a b then (if a.neg? then b else a)
  else if ltVal a b then b else a

/-- The smaller of two values, NaN if either is; of two zeros, the negative one. -/
def minVal (strict : Bool) (a b : FVal) : FVal :=
  if a.isNan || b.isNan then nanOf strict [a, b]
  else if eqVal a b then (if a.neg? then a else b)
  else if ltVal a b then a else b

/-- `vmax`. -/
def execVmax (i : At) (o : VOp) (s : State) : Out :=
  vectorOp i o anyFmt [o.va, o.vb] (laneOp (fun a b _ => max a b) fun st a b _ => maxVal st a b) s

/-- `vmin`. -/
def execVmin (i : At) (o : VOp) (s : State) : Out :=
  vectorOp i o anyFmt [o.va, o.vb] (laneOp (fun a b _ => min a b) fun st a b _ => minVal st a b) s

/-- Does COND hold on two lanes (R74)? None for the reserved code. -/
def laneCond (cond : BitVec 3) (strict : Bool) (f : Fmt) (a b : Nat) : Option Bool :=
  if f.isInt then condInt cond f.width a b
  else condFloat cond (readElement strict f a) (readElement strict f b)

/-- The bits of a predicate after `vcmp`: the lowest bit of each active lane says whether COND holds; the other
bits of an active lane are not stated and are free (log entry 15); an inactive lane keeps its bits. -/
def cmpBit (mask old : BitVec 256) (w free : Nat) (holds : Nat → Bool) (j : Nat) : Bool :=
  if !laneOn mask (j / w * w) then old.getLsbD j
  else if j % w = 0 then holds (j / w)
  else Config.coin (free + j)

/-- `vcmp`: pd ← the lanes where COND(va, vb) holds. -/
def execVcmp (i : At) (o : VOp) (pd cond : BitVec 3) (s : State) : Out :=
  issueVector i s fun s =>
    let t := s.stream i
    match arithFmt o.fmt.toNat, predMask t o.pred o.pneg with
    | some f, some mask =>
      if cond.toNat = 7 then .illegal
      else
        let a := lanesOf f (t.vreg o.va).val
        let b := lanesOf f (t.vreg o.vb).val
        let holds j := (laneCond cond t.strict f (a.getD j 0) (b.getD j 0)).getD false
        let bs := (List.range 256).map (cmpBit mask (t.preg pd.toNat) f.laneBytes s.free holds)
        .done ((s.modStream i (·.setPreg pd.toNat (BitVec.ofNat 256 (pack 1 (bs.map b2n))))).draw 256)
    | _, _ => .illegal

/-! ### Conversion (R431) -/

/-- The exact elements of a register under the captured mode (R47, R430). -/
def regElements (strict : Bool) (f : Fmt) (v : VData) : List FVal :=
  if f.isMx then decodeRow f f.regLen v.toNat
  else (unpack f.width f.regCount v.toNat).map (readElement strict f)

/-- Is PART within the limits of R431? -/
def partOk (ns nd part : Nat) : Bool :=
  if ns = nd then part == 0
  else if nd < ns then decide (part < (ns + nd - 1) / nd)
  else decide (part < (nd + ns - 1) / ns)

/-- The source element that becomes destination element `d`, where one does (R431). -/
def sourceOf (ns nd part d : Nat) : Option Nat :=
  if nd ≤ ns then some (part * nd + d)
  else if part * ns ≤ d ∧ d < part * ns + ns then some (d - part * ns)
  else none

/-- The element that a `vcvt` writes at `d`: source elements beyond the last read as zero. -/
def cvtValue (src : List FVal) (ns nd part d : Nat) : Option FVal :=
  (sourceOf ns nd part d).map fun k => src.getD k (FVal.zero false)

/-- A `vcvt` to a format that is not block-scaled: the register's lanes. -/
def cvtLanes (t : Stream) (free : Nat) (g : Fmt) (mask : BitVec 256) (old : VData)
    (val : Nat → Option FVal) : List Elt :=
  (unpack g.width g.regCount old.toNat).zipIdx.map fun p =>
    match val p.2 with
    | some v => if laneOn mask (p.2 * g.laneBytes) then convert (t.ctl (free + p.2)) g v else ⟨p.1, false⟩
    | none => ⟨p.1, false⟩

/-- A block of a `vcvt` to a block-scaled format: encoded afresh where any of its elements is written, kept
otherwise (R431); its elements, scale and events. -/
def cvtBlock (t : Stream) (free : Nat) (g : Fmt) (old : VData) (present : List FVal) (val : Nat → Option FVal)
    (b : Nat) : List Nat × Nat × Nat :=
  let ks := (List.range 32).map (· + 32 * b)
  if ks.any fun k => (val k).isSome then
    encodeBlock (t.ctl free) g (fun j => t.rmodeAt (free + 32 * b + j))
      (ks.map fun k => (val k).getD (present.getD k (FVal.zero false)))
  else
    (ks.map fun k => (unpack g.width g.regCount old.toNat).getD k 0,
     bits (8 * (g.blocks g.regLen * g.blockBytes + b) + 7) (8 * (g.blocks g.regLen * g.blockBytes + b)) old.toNat,
     0)

/-- A register image of blocks: elements, then scales, then zeros (R43, R430). -/
def packBlocks (g : Fmt) (bs : List (List Nat × Nat × Nat)) : Nat :=
  let els := (bs.map fun b => b.1).flatten
  pack g.width els + 2 ^ (g.width * els.length) * pack 8 (bs.map fun b => b.2.1)

/-- `vcvt`: va converted to the format DFMT with the element mapping of PART (R431). -/
def execVcvt (i : At) (o : VOp) (dfmt : BitVec 4) (part : BitVec 3) (s : State) : Out :=
  issueVector i s fun s =>
    let t := s.stream i
    match moveFmt o.fmt.toNat, moveFmt dfmt.toNat, predMask t o.pred o.pneg with
    | some f, some g, some mask =>
      let ns := f.regCount
      let nd := g.regCount
      let old := t.vreg o.vd
      let src := t.vreg o.va
      let val := cvtValue (regElements t.strict f src.val) ns nd part.toNat
      if !partOk ns nd part.toNat then .illegal
      else if g.isMx then
        if o.pred ≠ 0 then .illegal
        else
          let bs := (List.range (g.blocks g.regLen)).map
            (cvtBlock t s.free g old.val (decodeRow g g.regLen old.val.toNat) val)
          let keeps := (List.range nd).any fun d => (val d).isNone
          let bz := destMark keeps old.bz src.bz
          .done (((s.putV i o.vd (BitVec.ofNat 2048 (packBlocks g bs)) bz).nonFinite i (nfPlace g)
            (if bz then 0 else (bs.map fun b => b.2.2).foldl (· + ·) 0)).draw nd)
      else
        let es := cvtLanes t s.free g mask old.val val
        let keeps := (List.range nd).any fun d => (val d).isNone || !laneOn mask (d * g.laneBytes)
        .done ((s.putLanes i o.vd g es (destMark keeps old.bz src.bz)).draw nd)
    | _, _, _ => .illegal

/-! ### Division, roots and the transcendental unit (R47) -/

/-- The formats of divide, square root and the transcendental unit (R76). -/
def floatFmt (f : Fmt) : Bool := f.isWide

/-- A function of one or two lanes whose fast result lies within `fastUlp` and whose strict result lies within
`strictUlp` units in the last place; 0 means correctly rounded. -/
def boundedLane (op fastUlp strictUlp : Nat) (g : Bool → FVal → FVal → FVal × Bool) (t : Stream) (f : Fmt)
    (a b _c : Nat) : Elt :=
  let r := g t.strict (readElement t.strict f a) (readElement t.strict f b)
  let u := if t.strict then strictUlp else fastUlp
  if u = 0 then result t.strict f r.1 r.2
  else resultWithin u (Config.ulpOffset op f.width a b) t.strict f r.1 r.2

/-- `vdiv`: within 2 ulp in fast mode, correctly rounded in strict mode at a quarter of the rate. -/
def execVdiv (i : At) (o : VOp) (s : State) : Out :=
  quarterOp i o floatFmt [o.va, o.vb] (boundedLane 0x38 2 0 divVal) s

/-- `vsqrt`: as `vdiv`. -/
def execVsqrt (i : At) (o : VOp) (s : State) : Out :=
  quarterOp i o floatFmt [o.va] (boundedLane 0x39 2 0 fun st a _ => sqrtVal st a) s

/-- `vrcp`: within 2 ulp, correctly rounded in strict mode. -/
def execVrcp (i : At) (o : VOp) (s : State) : Out :=
  vectorOp i o floatFmt [o.va] (boundedLane 0x3A 2 0 fun st a _ => divVal st oneVal a) s

/-- The reciprocal square root, cut. -/
def rsqrtVal (strict : Bool) (a : FVal) : FVal × Bool :=
  match a with
  | .fin n m e =>
    if m = 0 then (.inf n, false)
    else if n then (.canonical, false)
    else
      let q := divFin false 1 0 false m e
      let r := sqrtVal strict q.1
      (r.1, true)
  | .inf n => (if n then .canonical else .zero false, false)
  | .nan n p => (nanOf strict [.nan n p], false)

/-- `vrsqrt`: within 2 ulp, within 1 in strict mode. -/
def execVrsqrt (i : At) (o : VOp) (s : State) : Out :=
  vectorOp i o floatFmt [o.va] (boundedLane 0x3B 2 1 fun st a _ => rsqrtVal st a) s

/-- `vexp`, base e. -/
def execVexp (i : At) (o : VOp) (s : State) : Out :=
  vectorOp i o floatFmt [o.va] (boundedLane 0x3C 2 1 fun st a _ => expVal st a) s

/-- `vlog`, base e. -/
def execVlog (i : At) (o : VOp) (s : State) : Out :=
  vectorOp i o floatFmt [o.va] (boundedLane 0x3D 2 1 fun st a _ => logVal st a) s

/-! ### Selection, sums, moves -/

/-- Is a pattern of a floating-point format NaN or infinite? -/
def nonFiniteBits (f : Fmt) (w : Nat) : Bool :=
  !f.isInt && ((decodeElement f w).isNan || (decodeElement f w).isInf)

/-- `vsel`: each lane from va where the selector is 1, from vb where it is 0; every lane is written. -/
def execVsel (i : At) (o : VOp) (s : State) : Out :=
  issueVector i s fun s =>
    let t := s.stream i
    match arithFmt o.fmt.toNat, predMask t o.pred o.pneg with
    | some f, some mask =>
      let a := t.vreg o.va
      let b := t.vreg o.vb
      let es := (List.range f.lanes).map fun j =>
        let x := if laneOn mask (j * f.laneBytes) then (lanesOf f a.val).getD j 0 else (lanesOf f b.val).getD j 0
        (⟨x, nonFiniteBits f x⟩ : Elt)
      .done (s.putLanes i o.vd f es (a.bz || b.bz))
    | _, _ => .illegal

/-- Leaves of the fixed tree in its order: sorted by a free key (R434, log entry 16). -/
def insertLeaf (p : Nat × FVal) : List (Nat × FVal) → List (Nat × FVal)
  | [] => [p]
  | q :: qs => if p.1 ≤ q.1 then p :: q :: qs else q :: insertLeaf p qs

/-- The leaves of a sum of `vs` under operation `op`, in the tree's order. -/
def treeLeaves (op : Nat) (vs : List FVal) : List FVal :=
  ((vs.zipIdx.map fun p => (Config.treeKey op vs.length p.2, p.1)).foldr insertLeaf []).map Prod.snd

/-- One level of the tree: neighbours added. -/
def pairLevel (add : FVal → FVal → FVal) : List FVal → List FVal
  | a :: b :: vs => add a b :: pairLevel add vs
  | vs => vs

/-- The sum by a pairwise tree of at most `k` levels. -/
def treeSum (add : FVal → FVal → FVal) : Nat → List FVal → FVal
  | 0, vs => vs.headD (FVal.zero false)
  | k + 1, vs => treeSum add k (pairLevel add vs)

/-- An FP32 addition rounded to nearest even, with the flushing of fast mode (R434). -/
def addFp32 (strict : Bool) (a b : FVal) : FVal :=
  readElement strict .fp32 (result strict .fp32 (addVal strict a b)).bits

/-- The sum of the lanes of a register (R434). In fast mode a subnormal FP16 lane is read as zero (Table 2.7) before it is
widened to FP32 (DEDUCED, log entry 150). -/
def redSum (t : Stream) (f : Fmt) (ls : List Nat) : Elt :=
  if f.isInt then intElt f ((ls.map (signedOf f.width)).foldl (· + ·) 0)
  else
    result t.strict f (treeSum (addFp32 t.strict) 8 (treeLeaves 0x3F (ls.map (readElement t.strict f))))

/-- `vredsum`: lane 0 of vd ← the sum of va's lanes, the other lanes ← 0, where the predicate lets them. -/
def execVredsum (i : At) (o : VOp) (s : State) : Out :=
  issueVector i s fun s =>
    let t := s.stream i
    match arithFmt o.fmt.toNat, predMask t o.pred o.pneg with
    | some f, some mask =>
      let old := t.vreg o.vd
      let src := t.vreg o.va
      let sum := redSum t f (lanesOf f src.val)
      let es := maskLanes mask f.laneBytes (lanesOf f old.val) fun j => if j = 0 then sum else ⟨0, false⟩
      .done (s.putLanes i o.vd f es (destMark (!allLanes mask f.laneBytes f.lanes) old.bz src.bz))
    | _, _ => .illegal

/-- Bytes of a lane as `vld` and `vst` predicate it: the format's, or one byte for a block-scaled format (log
entry 17). -/
def moveBytes (f : Fmt) : Nat := if f.isMx then 1 else f.laneBytes

/-- The address of `vld` and `vst`: the base register + 16 × the offset field, modulo 2^64 (R433). -/
def vaddr (t : Stream) (base : SReg) (off : BitVec 16) : Nat := ((t.sreg base).val.toNat + 16 * off.toNat) % 2 ^ 64

/-- `vld`: 256 bytes, copied unchanged. Its range and its lines are checked for all 256 bytes, whatever the predicate; the
manual does not say whether an inactive lane is accessed (DESIGN CHOICE, log entry 113). -/
def execVld (i : At) (o : VOp) (sBase : SReg) (space : Bool) (off : BitVec 16) (s : State) : Out :=
  issueVector i s fun s =>
    let t := s.stream i
    match moveFmt o.fmt.toNat, predMask t o.pred o.pneg with
    | some f, some mask =>
      let a := vaddr t sBase off
      if (t.sreg sBase).bz then .fault codeBlazeBite 0
      else if !inSpace space a 256 then .fault codeTileBounds (low48 a)
      else ((s.meet i space).load i space a 256 false).bind false fun v s =>
        let old := t.vreg o.vd
        let w := moveBytes f
        let bs := (bytesOf 256 old.val.toNat).zipIdx.map fun p =>
          if laneOn mask (p.2 / w * w) then v.1.getD p.2 0 else p.1
        .done (s.putV i o.vd (BitVec.ofNat 2048 (packBytes bs)) (destMark (!allLanes mask w (256 / w)) old.bz v.2))
    | _, _ => .illegal

/-- `vst`: 256 bytes of vd, copied unchanged; lanes that the predicate leaves out are not stored, but their bytes are
checked as the others are (DESIGN CHOICE, log entry 113). -/
def execVst (i : At) (o : VOp) (sBase : SReg) (space : Bool) (off : BitVec 16) (s : State) : Out :=
  issueVector i s fun s =>
    let t := s.stream i
    match moveFmt o.fmt.toNat, predMask t o.pred o.pneg with
    | some f, some mask =>
      let a := vaddr t sBase off
      if (t.sreg sBase).bz then .fault codeBlazeBite 0
      else if !inSpace space a 256 then .fault codeTileBounds (low48 a)
      else
        let v := t.vreg o.vd
        let w := moveBytes f
        let bs := (bytesOf 256 v.val.toNat).zipIdx.map fun p => (p.1, laneOn mask (p.2 / w * w))
        ((s.meet i space).storeRuns i space a 256 (activeRuns 0 bs) v.bz false).bind true fun _ s => .done s
    | _, _ => .illegal

/-- A lane as `vmovs` extends it: integers by their sign, floating point by zeros (log entry 18). -/
def extendLane (f : Fmt) (x : Nat) : Word := if f.isInt then BitVec.ofInt 64 (signedOf f.width x) else BitVec.ofNat 64 x

/-- `vmovs`: a lane of va into a scalar register, whatever the predicate says (DESIGN CHOICE, log entry 151). -/
def execVmovs (i : At) (o : VOp) (sd : SReg) (lane : BitVec 8) (s : State) : Out :=
  issueVector i s fun s =>
    let t := s.stream i
    match arithFmt o.fmt.toNat, predMask t o.pred o.pneg with
    | some f, some _ =>
      if f.lanes ≤ lane.toNat then .illegal
      else
        let v := t.vreg o.va
        .done (s.putS i sd (extendLane f ((lanesOf f v.val).getD lane.toNat 0)) v.bz)
    | _, _ => .illegal

/-- `vbcast`: every lane of vd ← the low bits of a scalar. -/
def execVbcast (i : At) (o : VOp) (sa : SReg) (s : State) : Out :=
  issueVector i s fun s =>
    let t := s.stream i
    match arithFmt o.fmt.toNat, predMask t o.pred o.pneg with
    | some f, some mask =>
      let old := t.vreg o.vd
      let x := t.sreg sa
      let es := maskLanes mask f.laneBytes (lanesOf f old.val) fun _ => ⟨x.val.toNat % 2 ^ f.width, false⟩
      let bz := destMark (!allLanes mask f.laneBytes f.lanes) old.bz x.bz
      .done (s.putV i o.vd (ofLanes f (es.map Elt.bits)) bz)
    | _, _ => .illegal

end Sys2Proof.Machine
end

