-- ==== Sys2Proof/Machine/Array.lean ====
section
/-! DEFINITION. The A class: `mma`, `mmaz`, their retirement and the accumulator moves (R49–R53, R98–R113). -/

namespace Sys2Proof.Machine

/-! ### Forms and classes -/

/-- K of a form (Table 4.3). -/
def formK (form : Nat) : Nat := 32 / 2 ^ form

/-- The nominal width of a form (Table 4.3). -/
def formN (form : Nat) : Nat := 32 * 2 ^ form

/-- The class of Table 4.1 that an operand format belongs to, and the pairing group of Table 4.2: 0 BF16, 1 FP16,
2 FP8, 3 INT8, 4 FP6 and FP4, 5 FP32; none for INT32. -/
def pairGroup (f : Fmt) : Option Nat :=
  match f.element with
  | .bf16 => some 0
  | .fp16 => some 1
  | .e4m3 | .e5m2 => some 2
  | .int8 => some 3
  | .e3m2 | .e2m1 => some 4
  | .fp32 => some 5
  | _ => none

/-- Products per cell of a pairing group (Table 4.1). -/
def groupPc : Nat → Nat
  | 2 => 2
  | 3 => 2
  | 4 => 4
  | _ => 1

/-- The products-per-cell class of a pairing group (Table 4.1); FP32, a product every 8 cycles, is its own. -/
def groupClass (g : Nat) : Nat := if g = 5 then 8 else groupPc g

/-- The width of a form on a core (R113, Table 4.10). -/
def State.width (s : State) (c form : Nat) : Nat :=
  (if (SMap.get? s.fuses.bypass (s.siteOf c)).isSome then 31 else 32) * 2 ^ form

/-- The pairing group of an activation and a weight tile, where they pair (R99). -/
def pairing (ta tw : Tile) : Option Nat :=
  match Fmt.ofCode ta.fmt, Fmt.ofCode tw.fmt with
  | some f, some g =>
    match pairGroup f, pairGroup g with
    | some x, some y => if x = y then some x else none
    | _, _ => none
  | _, _ => none

/-- Elements per row of a tile (Tables 2.3 and 2.4). -/
def Tile.elements (t : Tile) : Nat :=
  match Fmt.ofCode t.fmt with
  | some f => f.elements t.len
  | none => 0

/-- K_eff under a form and a pairing group (R100). -/
def kEff (form g : Nat) : Nat := formK form * groupPc g

/-- The rows and elements of the activation operand lie in TA (Table 4.5, case 5). -/
def taInside (o : MmaOp) (ta : Tile) (ke : Nat) : Bool :=
  if o.tra then decide (o.koff.toNat * ke + ke ≤ ta.rows) && decide (o.arow.toNat + (o.mM1.toNat + 1) ≤ ta.elements)
  else decide (o.arow.toNat + (o.mM1.toNat + 1) ≤ ta.rows) && decide (o.koff.toNat * ke + ke ≤ ta.elements)

/-- The rows and elements of the weight operand lie in TW (Table 4.5, case 6). -/
def twInside (o : MmaOp) (tw : Tile) (ke : Nat) : Bool :=
  if o.trw then decide (o.nM1.toNat + 1 ≤ tw.rows) && decide (ke ≤ tw.elements)
  else decide (ke ≤ tw.rows) && decide (o.nM1.toNat + 1 ≤ tw.elements)

/-- The fault of an `mma` at issue, or its pairing group (Table 4.5). -/
def mmaCheck (s : State) (c : Nat) (o : MmaOp) : Except Nat Nat :=
  let ta := (s.core c).img.tile o.ta.toNat
  let tw := (s.core c).img.tile o.tw.toNat
  let form := o.form.toNat
  if !ta.configured || !tw.configured then .error codeTileBounds
  else match pairing ta tw with
    | none => .error codeTileBounds
    | some g =>
      if s.width c form < o.nM1.toNat + 1 then .error codeFormWidth
      else if formK form < o.mM1.toNat + 1 then .error codeTileBounds
      else if !taInside o ta (kEff form g) then .error codeTileBounds
      else if !twInside o tw (kEff form g) then .error codeTileBounds
      else .ok g

/-! ### Operands and latches (R101, R106) -/

/-- Does a valid latch hold this operand (R89, R106)? -/
def latchMatches (l : Latch) (tile : Nat) (t : Tile) (tr : Bool) (off koff : Nat) : Bool :=
  l.valid && l.tile == tile && l.rows == t.rows && l.len == t.len && l.fmt == t.fmt && l.tr == tr &&
  l.off == off && l.koff == koff

/-- The rows an operand is read from, and the latches after it (R106): `op` is OPA or OPW, `key` the latch. -/
def operandOf (ls : SMap Latch) (key op tile : Nat) (t : Tile) (tr : Bool) (off koff : Nat) :
    SMap RowVal × SMap Latch :=
  let l := SMap.get {} ls key
  let new : Latch := ⟨true, tile, t.rows, t.len, t.fmt, tr, off, koff, t.data⟩
  if op = 2 && latchMatches l tile t tr off koff then (l.copy, ls)
  else if op = 0 then (t.data, ls)
  else (t.data, SMap.put ls key new)

/-- The exact elements of a row of an operand (R40, R43, R47). -/
def operandRow (strict : Bool) (t : Tile) (rows : SMap RowVal) (r : Nat) : List FVal :=
  match Fmt.ofCode t.fmt with
  | none => []
  | some f =>
    let x := (SMap.get {} rows r).val.toNat
    if f.isWide then (unpack f.width (f.elements t.len) x).map (readElement strict f) else decodeRow f t.len x

/-- The element at (row, column) of a table of rows. -/
def elemAt (rows : List (List FVal)) (r c : Nat) : FVal := (rows.getD r []).getD c (FVal.zero false)

/-! ### Accumulation -/

/-- Products in the order in which the array adds them in fast mode (R50, log entry 16). -/
def insertKeyed (p : Nat × FVal) : List (Nat × FVal) → List (Nat × FVal)
  | [] => [p]
  | q :: qs => if p.1 ≤ q.1 then p :: q :: qs else q :: insertKeyed p qs

/-- The products of one element, ordered by the form's free order. -/
def arrayOrder (form pc : Nat) (ps : List FVal) : List FVal :=
  ((ps.zipIdx.map fun p => (Config.arrayKey form pc ps.length p.2, p.1)).foldr insertKeyed []).map Prod.snd

/-- Groups of `pc` neighbours, each summed exactly. -/
def cellSums (pc : Nat) : Nat → List FVal → List FVal
  | 0, _ => []
  | k + 1, ps =>
    if ps.isEmpty then []
    else (ps.take pc).foldl (addVal false) (.fin true 0 0) :: cellSums pc k (ps.drop pc)

/-- An FP32 value as its bits. -/
def fp32Bits (strict : Bool) (v : FVal) : Nat := (result strict .fp32 v).bits

/-- One element in fast mode (R50): each cell's exact sum added to the partial sum, rounded to nearest even and
flushed. -/
def accFast (form pc : Nat) (c0 : Nat) (ps : List FVal) : Nat :=
  (cellSums pc ps.length (arrayOrder form pc ps)).foldl
    (fun c x => fp32Bits false (addVal false (readElement false .fp32 c) x)) (fp32Bits false (readElement false .fp32 c0))

/-- One element in strict mode (R51): a fused multiply-add for each k in order. -/
def accStrict (c0 : Nat) (abs : List (FVal × FVal)) : Nat :=
  abs.foldl (fun c p => fp32Bits true (fmaVal true p.1 p.2 (decodeFloat .fp32 c))) c0

/-- The integer of an exact integer value. -/
def FVal.toIntExact : FVal → Int
  | .fin n m e => let a : Int := (m * 2 ^ e.toNat : Nat); if n then -a else a
  | _ => 0

/-- One INT32 element (R49, R52): saturated at each step; whether it saturated at any. -/
def accInt (c0 : Nat) (xs : List Int) : Nat × Bool :=
  xs.foldl (fun c x =>
    let r := saturate 32 (signedOf 32 c.1 + x)
    (r.1, c.2 || r.2)) (c0, false)

/-- The integer sums of cells, in the order of the mode. -/
def intSteps (strict : Bool) (form pc : Nat) (ps : List FVal) : List Int :=
  if strict then ps.map FVal.toIntExact
  else (cellSums pc ps.length (arrayOrder form pc ps)).map FVal.toIntExact

/-- One accumulator word: its new bits, and whether R58 counts it. -/
def mmaWord (strict : Bool) (g form : Nat) (c0 : Nat) (abs : List (FVal × FVal)) : Elt :=
  if g = 3 then
    let r := accInt c0 (intSteps strict form 2 (abs.map fun p => mulVal false p.1 p.2))
    ⟨r.1, r.2⟩
  else
    let w := if strict then accStrict c0 abs
      else accFast form (groupPc g) c0 (abs.map fun p => mulVal false p.1 p.2)
    ⟨w, nonFiniteBits .fp32 w⟩

/-- The result of an `mma`: the words written with their events, and the segments with their marks (R101, R107). -/
def mmaResult (strict : Bool) (o : MmaOp) (zero : Bool) (g : Nat) (ta tw : Tile) (ra rw : SMap RowVal) (acc : Acc) :
    List (Nat × List (Nat × Elt)) × List (Nat × Bool) :=
  let form := o.form.toNat
  let m := o.mM1.toNat + 1
  let n := o.nM1.toNat + 1
  let ke := kEff form g
  let arow := o.arow.toNat
  let k0 := o.koff.toNat * ke
  let aRows := if o.tra then (List.range ke).map (fun k => operandRow strict ta ra (k0 + k))
    else (List.range m).map (fun r => operandRow strict ta ra (arow + r))
  let wRows := if o.trw then (List.range n).map (operandRow strict tw rw)
    else (List.range ke).map (operandRow strict tw rw)
  let a (r k : Nat) : FVal := if o.tra then elemAt aRows k (arow + r) else elemAt aRows r (k0 + k)
  let b (k c : Nat) : FVal := if o.trw then elemAt wRows c k else elemAt wRows k c
  let words := (List.range m).map fun r => (r, (List.range n).map fun c =>
    let w := r * formN form + c
    let c0 := if zero then 0 else (acc.word w).toNat
    (w, mmaWord strict g form c0 ((List.range ke).map fun k => (a r k, b k c))))
  let mk (rows : SMap RowVal) (r : Nat) : Bool := (SMap.get {} rows r).bz
  let wMark := (List.range (if o.trw then n else ke)).any (mk rw)
  let aMark (r : Nat) : Bool :=
    if o.tra then (List.range ke).any (fun k => mk ra (k0 + k)) else mk ra (arow + r)
  let segsOf (r : Nat) : List Nat := (List.range (2 ^ form)).map (· + r * 2 ^ form)
  let rowMark (r : Nat) : Bool := aMark r || wMark || (!zero && (segsOf r).any acc.seg)
  let segs := (List.range m).map fun r => (segsOf r).map fun g => (g, rowMark r)
  (words, segs.flatten)

/-- Array time (Table 4.6, R105): load and compute cycles. -/
def mmaCycles (o : MmaOp) (g : Nat) (strict : Bool) : Nat × Nat :=
  let k := formK o.form.toNat
  let m := o.mM1.toNat + 1
  let l := if o.ta = o.tw ∧ o.tra = o.trw then 2 * k else k
  if g = 5 then (2 * l, if strict then 64 * m else 8 * m) else (l, if strict then 8 * m else m)

/-- Has the compute of the last instruction on the array not begun? -/
def ArrayState.computeAhead (a : ArrayState) : Bool := a.work.getLast? == some (false, a.lastP)

/-- Occupancy (R108): overlapped with its predecessor of the same form and class across no gap, where its weight load
could begin as that one's compute began: it issues by then, or it was ready by then and only waited for its slot
(R125). -/
def occupancy (a : ArrayState) (wasReady : Bool) (form cls l p : Nat) : Nat :=
  if a.prev = some (form, cls) && !a.gap && (a.computeAhead || wasReady) then max l p else l + p

/-- The array after an instruction of `occ` cycles, the last `p` of them computing, issues (R108, R116, R125). -/
def ArrayState.run (a : ArrayState) (form cls occ p len level : Nat) (on : Bool) : ArrayState :=
  let extended := !a.slotRun && decide (len < occ)
  { a with
    prev := some (form, cls), lastP := p, work := a.work ++ [(true, occ - p), (false, p)], slotRun := true,
    gap := false, gapUsed := 0, horizonPassed := false, rising := on && decide (a.cap < level),
    rampUsed := if on && decide (a.cap < level) && !a.rising then 0 else a.rampUsed,
    overruns := if extended then min 65535 (a.overruns + 1) else a.overruns,
    cap := if on && decide (a.cap < level) then a.cap else 256 }

/-- Does an occupancy fit the slot, from the cycle in which the array becomes free, or may it open and extend the slot in
its first cycle (R125)? -/
def ArrayState.fits (a : ArrayState) (occ len level : Nat) (on : Bool) : Bool :=
  decide (a.slotUsed + a.needs level on + occ ≤ len) || (!a.slotRun && a.slotUsed == 0 && decide (len < occ))

/-- A stream's array instruction waits for a slot, another's to end or its own next one: it was ready as the last compute
began if that was still ahead (R125). -/
def State.slotWaits (s : State) (i : At) : State :=
  let ahead := (s.core i.core).arr.computeAhead
  s.modStream i fun t => { t with slotWait := some (t.slotWait.getD ahead) }

/-- A new last compute on the array: every stream that waits for its slot is ready before it begins. -/
def Stream.readyAhead (t : Stream) : Stream := { t with slotWait := t.slotWait.map fun _ => true }

/-- The image of a core whose array takes a further instruction. -/
def CoreImage.readyAhead (m : CoreImage) : CoreImage :=
  { m with f := m.f.readyAhead, b := m.b.readyAhead, u := m.u.readyAhead }

/-- The ramp rises for a ready instruction: its first period begins, unless it is rising already (R116, R118). -/
def ArrayState.rise (a : ArrayState) : ArrayState :=
  { a with rising := true, rampUsed := if a.rising then a.rampUsed else 0 }

/-- The ramp holds back a ready instruction while the cap is zero, and rises for it (R116). -/
def State.ramps (s : State) (c : Nat) : State := s.modCore c fun k => { k with arr := k.arr.rise }

/-- `mma` and `mmaz` (R101, R103, R120, R125): the result stands in flight until the instruction retires. DESIGN CHOICE
(log entry 28): an instruction that waits behind another stream's held `tcfg` is checked by Table 4.5 after that wait,
since the `tcfg` may reshape its tile; every other wait comes after the checks. -/
def mmaIssue (i : At) (o : MmaOp) (zero : Bool) (s : State) : Out :=
  issue i s fun s =>
    if o.opa = 3 ∨ o.opw = 3 then .illegal
    else s.unheld i [o.ta.toNat, o.tw.toNat] fun s =>
      match mmaCheck s i.core o with
      | .error code => .fault code 0
      | .ok g =>
        s.ordered i [o.ta.toNat, o.tw.toNat] [] [o.acc.toNat] fun s =>
          let k := s.core i.core
          let t := s.stream i
          let form := o.form.toNat
          let (l, p) := mmaCycles o g t.strict
          let occ := occupancy k.arr (!k.arr.slotRun && t.slotWait == some true) form (groupClass g) l p
          let len := k.img.slotCycles
          let level := s.shimLevel i.core
          let on := s.shimOn i.core
          if k.slotOwner ≠ i.stream.ownerCode then .stall (s.slotWaits i) .slotIdle
          else if on && k.arr.cap == 0 && decide (0 < level) then .stall (s.ramps i.core) .power
          else if !k.arr.fits occ len level on then .stall (s.slotWaits i) .other
          else
            let ta := k.img.tile o.ta.toNat
            let tw := k.img.tile o.tw.toNat
            let (ra, ls) := operandOf k.latches (b2n o.la) o.opa.toNat o.ta.toNat ta o.tra o.arow.toNat o.koff.toNat
            let (rw, ls) := operandOf ls (2 + b2n o.lw) o.opw.toNat o.tw.toNat tw o.trw 0 0
            let acc := k.img.acc o.acc.toNat
            let (rows, segs) := mmaResult t.strict o zero g ta tw ra rw acc
            let words := (rows.map fun r => r.2.map fun w => (w.1, BitVec.ofNat 32 w.2.bits)).flatten
            let marked (r : Nat) : Bool := segs.any fun q => q.1 / 2 ^ form == r && q.2
            let events := (rows.map fun r =>
              if marked r.1 then 0 else (r.2.filter fun w => w.2.nf).length).foldl (· + ·) 0
            let f : InFlight := ⟨i.stream, o.ta.toNat, o.tw.toNat, o.acc.toNat, words, segs⟩
            let s := s.modCore i.core fun k =>
              { k with img := k.img.readyAhead, latches := ls, inflight := k.inflight ++ [f],
                       arr := k.arr.run form (groupClass g) occ p len level on }
            let s := s.event i.core (some i.stream) evMma 1
            let s := s.event i.core (some i.stream) evBlazeWritten (segs.filter Prod.snd).length
            .done (s.nonFinite i (if g = 3 then 7 else 0) events)

/-- `mma`. -/
def execMma (i : At) (o : MmaOp) (s : State) : Out := mmaIssue i o false s

/-- `mmaz`. -/
def execMmaz (i : At) (o : MmaOp) (s : State) : Out := mmaIssue i o true s

/-- MMA_RETIRE: the oldest array instruction of a core retires and its result is written (R64, R108). -/
def execMmaRetire (core : Nat) (s : State) : Out :=
  match (s.core core).inflight with
  | [] => .next s
  | f :: fs => .next ((s.modCore core fun k => { k with inflight := fs }).commit core f)

/-! ### Accumulator moves (R111, R112) -/

/-- `accz`: every word zero, every segment clear. -/
def execAccz (i : At) (acc : BitVec 2) (s : State) : Out :=
  issue i s fun s => s.ordered i [] [] [acc.toNat] fun s => .done (s.setAcc i.core acc.toNat {})

/-- A tile row from an accumulator row (R112): its image and its events; draws are numbered from `free`. -/
def acctRow (t : Stream) (free : Nat) (f : Fmt) (len : Nat) (ws : List Nat) : Nat × Nat :=
  let e := f.elements len
  let val (w : Nat) : FVal := if f = .int8 then FVal.ofInt (signedOf 32 w) else readElement t.strict .fp32 w
  let vs := (ws.take e).map val
  let all := vs ++ List.replicate (e - vs.length) (FVal.zero false)
  if f.isMx then
    let bs := (List.range (f.blocks len)).map fun b =>
      encodeBlock (t.ctl free) f (fun j => t.rmodeAt (free + 32 * b + j)) ((all.drop (32 * b)).take 32)
    (packBlocks f bs, (bs.map fun b => b.2.2).foldl (· + ·) 0)
  else
    let es := all.zipIdx.map fun p => convert (t.ctl (free + p.2)) f p.1
    (pack f.width (es.map Elt.bits), (es.filter Elt.nf).length)

/-- `acct`: accumulator rows into tile rows (R112). -/
def execAcct (i : At) (o : AcctOp) (s : State) : Out :=
  issue i s fun s =>
    let n := o.tile.toNat
    let form := o.form.toNat
    let cnt := o.countM1.toNat + 1
    s.unheld i [n] fun s =>
      let tile := (s.core i.core).img.tile n
      match tile.configured, Fmt.ofCode tile.fmt with
      | true, some f =>
        if formK form < o.arow.toNat + cnt then .fault codeTileBounds 0
        else if tile.rows < o.trow.toNat + cnt then .fault codeTileBounds 0
        else s.ordered i [] [n] [o.acc.toNat] fun s =>
          let t := s.stream i
          let a := (s.core i.core).img.acc o.acc.toNat
          let row (j : Nat) : Nat × Nat :=
            let r := o.arow.toNat + j
            acctRow t (s.free + 1024 * j) f tile.len
              ((List.range (formN form)).map fun c => (a.word (r * formN form + c)).toNat)
          let mark (j : Nat) : Bool :=
            (List.range (2 ^ form)).any fun g => a.seg ((o.arow.toNat + j) * 2 ^ form + g)
          let rows := (List.range cnt).map fun j => (j, row j, mark j)
          let tile' := rows.foldl
            (fun x p => x.setRow (o.trow.toNat + p.1) (BitVec.ofNat 4096 p.2.1.1) p.2.2) tile
          let s := (s.setTile i.core n tile').event i.core (some i.stream) evBlazeWritten
            (rows.filter fun p => p.2.2).length
          .done ((s.nonFinite i (nfPlace f)
            ((rows.map fun p => if p.2.2 then 0 else p.2.1.2).foldl (· + ·) 0)).draw (1024 * cnt))
      | _, _ => .fault codeTileBounds 0

/-- The index of an accumulator move: words 64q on (Table 4.9). -/
def accIndex (t : Stream) (sIdx : SReg) : Nat := (t.sreg sIdx).val.toNat % 16

/-- The 64 words from 64q of an accumulator. -/
def Acc.words64 (a : Acc) (q : Nat) : List Nat := (List.range 64).map fun j => (a.word (64 * q + j)).toNat

/-- `accrd`: 64 words into a vector register. -/
def execAccrd (i : At) (vd : VReg) (sIdx : SReg) (acc : BitVec 2) (s : State) : Out :=
  issue i s fun s =>
    let t := s.stream i
    if (t.sreg sIdx).bz then .fault codeBlazeBite 0
    else s.ordered i [] [] [acc.toNat] fun s =>
      let a := (s.core i.core).img.acc acc.toNat
      let q := accIndex t sIdx
      .done (s.putV i vd (BitVec.ofNat 2048 (pack 32 (a.words64 q))) (a.seg (2 * q) || a.seg (2 * q + 1)))

/-- Words 64q on of an accumulator with both segments' marks. -/
def Acc.put64 (a : Acc) (q : Nat) (ws : List Nat) (m0 m1 : Bool) : Acc :=
  ((a.setWords (ws.zipIdx.map fun p => (64 * q + p.2, BitVec.ofNat 32 p.1))).setSeg (2 * q) m0).setSeg (2 * q + 1) m1

/-- `accwr`: a vector register into 64 words. -/
def execAccwr (i : At) (va : VReg) (sIdx : SReg) (acc : BitVec 2) (s : State) : Out :=
  issue i s fun s =>
    let t := s.stream i
    if (t.sreg sIdx).bz then .fault codeBlazeBite 0
    else s.ordered i [] [] [acc.toNat] fun s =>
      let v := t.vreg va
      let a := (s.core i.core).img.acc acc.toNat
      let s := s.setAcc i.core acc.toNat (a.put64 (accIndex t sIdx) (unpack 32 64 v.val.toNat) v.bz v.bz)
      .done (s.event i.core (some i.stream) evBlazeWritten (if v.bz then 2 else 0))

/-- `accadd`: 64 FP32 sums, rounded to nearest even; each segment ORs its mark with the register's. DESIGN CHOICE (log
entry 116): R58 counts nothing of an accumulator row whose mark is set, and `accadd` names no form; the 64 words are
taken as one row, so that either segment's mark stops the count. -/
def execAccadd (i : At) (va : VReg) (sIdx : SReg) (acc : BitVec 2) (s : State) : Out :=
  issue i s fun s =>
    let t := s.stream i
    if (t.sreg sIdx).bz then .fault codeBlazeBite 0
    else s.ordered i [] [] [acc.toNat] fun s =>
      let v := t.vreg va
      let a := (s.core i.core).img.acc acc.toNat
      let q := accIndex t sIdx
      let es := ((a.words64 q).zip (unpack 32 64 v.val.toNat)).map fun p =>
        result t.strict .fp32
          (addVal t.strict (readElement t.strict .fp32 p.1) (readElement t.strict .fp32 p.2))
      let m0 := a.seg (2 * q) || v.bz
      let m1 := a.seg (2 * q + 1) || v.bz
      let s := s.setAcc i.core acc.toNat (a.put64 q (es.map Elt.bits) m0 m1)
      let s := s.event i.core (some i.stream) evBlazeWritten (b2n m0 + b2n m1)
      .done (s.nonFinite i 0 (if m0 || m1 then 0 else (es.filter Elt.nf).length))

end Sys2Proof.Machine
end

