-- ==== Sys2Proof/Machine/Frames.lean ====
section
/-! DEFINITION. Fabric frames and their records as bytes (R276, R278, Tables 11.2 and 11.3). A frame's bytes stand here
without preamble, an Ethernet field with its most significant byte first (log entries 31 and 142). -/

namespace Sys2Proof

/-! ### Bytes -/

/-- The `n` bytes of a number as Ethernet sends them. -/
def beBytes (n x : Nat) : List Byte := (leBytes n x).reverse

/-- The number that such bytes hold. -/
def beNat (bs : List Byte) : Nat := leNat bs.reverse

/-- `n` bytes at offset `o`, as a number. -/
def leAt (bs : List Byte) (o n : Nat) : Nat := leNat ((bs.drop o).take n)

/-- Small numbers as bytes. -/
def byteList (ns : List Nat) : List Byte := ns.map (BitVec.ofNat 8)

/-- One bit of the CRC-32 register of Ethernet (polynomial 0x04C11DB7, reflected). -/
def fcsBit (c : Nat) : Nat := if c % 2 = 1 then Nat.xor (c / 2) 0xEDB88320 else c / 2

/-- One byte of the CRC. -/
def fcsByte (c : Nat) (b : Byte) : Nat :=
  let c := Nat.xor c b.toNat
  fcsBit (fcsBit (fcsBit (fcsBit (fcsBit (fcsBit (fcsBit (fcsBit c)))))))

/-- The FCS of a frame: Ethernet's CRC-32 over every byte before it, as a number whose low byte is sent first (R278;
PRESUMED, log entry 142). -/
def fcs (bs : List Byte) : Nat := Nat.xor (bs.foldl fcsByte 0xFFFFFFFF) 0xFFFFFFFF

/-- A frame closed by its FCS. -/
def withFcs (bs : List Byte) : List Byte := bs ++ leBytes 4 (fcs bs)

/-- Has a frame a right FCS? -/
def fcsOk (bs : List Byte) : Bool :=
  decide (4 ≤ bs.length) && decide (leNat (bs.drop (bs.length - 4)) = fcs (bs.take (bs.length - 4)))

/-! ### Records (Table 11.3) -/

/-- Is a record one of bulk frames? -/
def FabRec.isBulk : FabRec → Bool
  | .data _ _ _ _ _ _ => true
  | _ => false

/-- Bytes of a record. -/
def FabRec.size : FabRec → Nat
  | .grant _ _ _ _ _ _ _ => 32
  | .putOpen _ _ _ _ _ _ => 32
  | .data _ _ _ _ _ _ => 272
  | _ => 16

/-- The bytes of a record, of which fewer than its size stand for zeros after them. -/
def FabRec.head : FabRec → List Byte
  | .sync rop obj bz x => byteList [0x01, rop] ++ leBytes 3 obj ++ byteList [b2n bz, 0, 0] ++ leBytes 8 x.toNat
  | .grant op credits c bytes nM1 fmt round =>
    byteList [0x02, op] ++ leBytes 2 credits ++ leBytes 4 c ++ leBytes 8 bytes ++ leBytes 2 nM1 ++ byteList [fmt, round]
  | .abort code dev c => byteList [0x03] ++ [code] ++ leBytes 2 dev ++ leBytes 4 c
  | .heartbeat dev risk => byteList [0x04, 0] ++ leBytes 2 dev ++ leBytes 2 risk
  | .request c round shard b16 =>
    byteList [0x05, 0, 0, 0] ++ leBytes 4 c ++ byteList [round, 0] ++ leBytes 2 shard ++ leBytes 4 b16
  | .putOpen digest c va bytes obj en =>
    byteList [0x06, b2n digest, 0, 0] ++ leBytes 4 c ++ leBytes 8 va ++ leBytes 8 bytes ++ leBytes 4 (obj + 2 ^ 31 * b2n en)
  | .data bz last k c off payload =>
    byteList [0x10, b2n bz + 2 * b2n last] ++ leBytes 2 k ++ leBytes 4 c ++ leBytes 8 off ++ payload

/-- The bytes of a record. -/
def FabRec.bytes (r : FabRec) : List Byte := (r.head ++ List.replicate r.size 0).take r.size

/-- The record at the head of some bytes; none where its kind is not one of the table. -/
def readRec (bs : List Byte) : Option FabRec :=
  let b (k : Nat) : Nat := leAt bs k 1
  let c := leAt bs 4 4
  match b 0 with
  | 0x01 => some (.sync (b 1) (leAt bs 2 3 % 2 ^ 18) (bit 0 (b 5)) (BitVec.ofNat 64 (leAt bs 8 8)))
  | 0x02 => some (.grant (b 1) (leAt bs 2 2) c (leAt bs 8 8) (leAt bs 16 2) (b 18) (b 19))
  | 0x03 => some (.abort (BitVec.ofNat 8 (b 1)) (leAt bs 2 2) c)
  | 0x04 => some (.heartbeat (leAt bs 2 2) (leAt bs 4 2))
  | 0x05 => some (.request c (b 8) (leAt bs 10 2) (leAt bs 12 4))
  | 0x06 => some (.putOpen (bit 0 (b 1)) c (leAt bs 8 6) (leAt bs 16 8) (leAt bs 24 4 % 2 ^ 18) (bit 31 (leAt bs 24 4)))
  | 0x10 => some (.data (bit 0 (b 1)) (bit 1 (b 1)) (leAt bs 2 2) c (leAt bs 8 8) ((bs.drop 16).take 256))
  | _ => none

/-- `n` records at the head of some bytes; none where one is not whole or not known. -/
def readRecs : Nat → List Byte → Option (List FabRec)
  | 0, _ => some []
  | n + 1, bs =>
    match readRec bs with
    | none => none
    | some r => if bs.length < r.size then none else (readRecs n (bs.drop r.size)).map (r :: ·)

/-! ### Frames (R278, Table 11.2) -/

/-- Bytes of records. -/
def recsSize (rs : List FabRec) : Nat := (rs.map FabRec.size).foldl (· + ·) 0

/-- Do the records of a frame keep to the limits of their class (R278)? -/
def recsFit (bulk : Bool) (rs : List FabRec) : Bool :=
  rs.all (fun r => r.isBulk == bulk) &&
  (if bulk then decide (1 ≤ rs.length) && decide (rs.length ≤ 32) else decide (recsSize rs ≤ 128))

/-- The 16 bytes of the fabric header. -/
def FabFrame.header (f : FabFrame) : List Byte :=
  byteList [f.ver + 16 * b2n f.bulk + 32 * b2n f.ackBulk + 64 * f.engine, f.recs.length] ++ leBytes 2 f.srcDev ++
    leBytes 2 f.dstDev ++ leBytes 2 f.job ++ leBytes 4 f.seq ++ leBytes 4 f.ack

/-- The bytes of a frame between two addresses, with the tag of a PCP where it carries one and its FCS; short ones are
filled up to the least length of Ethernet. -/
def FabFrame.bytes (f : FabFrame) (dst src : Nat) (pcp : Option Nat) : List Byte :=
  let tag := match pcp with
    | some p => beBytes 2 0x8100 ++ beBytes 2 (2 ^ 13 * p)
    | none => []
  let bs := beBytes 6 dst ++ beBytes 6 src ++ tag ++ beBytes 2 f.etherType ++ f.header ++ (f.recs.map FabRec.bytes).flatten
  withFcs (bs ++ List.replicate (60 - bs.length) 0)

/-- The EtherType of a frame, behind its tag where it has one, and where that field ends. -/
def etherOf (bs : List Byte) : Nat × Nat :=
  let t := beNat ((bs.drop 12).take 2)
  if t = 0x8100 then (beNat ((bs.drop 16).take 2), 18) else (t, 14)

/-- Is a frame, with its FCS, of a length that the MAC supports (Table 11.1)? -/
def macLength (n : Nat) : Bool := decide (64 ≤ n) && decide (n ≤ 8742)

/-- A frame from its bytes; none where its length or its FCS is wrong, it is not whole, or its records are not those of
Table 11.3 in its class. -/
def readFrame (bs : List Byte) : Option FabFrame :=
  let (ty, o) := etherOf bs
  let h := (bs.take (bs.length - 4)).drop o
  let b0 := leAt h 0 1
  if macLength bs.length = false ∨ fcsOk bs = false ∨ h.length < 16 then none
  else match readRecs (leAt h 1 1) (h.drop 16) with
    | none => none
    | some rs =>
      if recsFit (bit 4 b0) rs then
        some { etherType := ty, ver := b0 % 16, bulk := bit 4 b0, ackBulk := bit 5 b0, engine := b0 / 64
               srcDev := leAt h 2 2 % 8192, dstDev := leAt h 4 2 % 8192, job := leAt h 6 2
               seq := leAt h 8 4, ack := leAt h 12 4, recs := rs }
      else none

end Sys2Proof
end

