-- ==== Sys2Proof/Machine/Paths.lean ====
section
/-! DEFINITION. Peers, routes and paths of the fabric, and the sending of records (R276–R278, R280–R283, R289). A frame
that is sent is held until it is acknowledged; a bulk frame here carries one record (DESIGN CHOICE, log entry 31). Express
records wait in the queues of their ports until a tick (log entry 7). -/

namespace Sys2Proof.Machine

/-! ### Devices, peers and routes -/

/-- DEVICE_NUM: the device's number, where it takes part in the fabric (R277). -/
def State.devNum (s : State) : Option Nat :=
  let w := s.reg fabBase
  if bit 16 w then some (bits 12 0 w) else none

/-- The job tag of a tenancy, where it is valid (R277). -/
def State.jobTag (s : State) (t : Nat) : Option Nat :=
  let w := s.reg (fabBase + 0x20 + 8 * t)
  if bit 16 w then some (bits 15 0 w) else none

/-- The local tenancy of a job tag: the lowest that holds it. -/
def State.jobTenancy (s : State) (job : Nat) : Option Nat :=
  (List.range 4).find? fun t => s.jobTag t == some job

/-- A peer-table entry (Table 11.4). -/
structure PeerEntry where
  valid : Bool
  hb : Bool
  port : Nat → Nat
  en : Nat → Bool
  mac : Nat → Nat

/-- The entry of device `d`, as the ports read it (R280). -/
def State.peerEntry (s : State) (d : Nat) : PeerEntry :=
  let x := s.memNat (bits 38 18 (s.reg (fabBase + 0x10)) * 2 ^ 18 + 32 * d) 32
  { valid := bit 56 x, hb := bit 57 x,
    port := fun r => if r = 0 then bits 51 48 x else bits 115 112 x,
    en := fun r => if r = 0 then bit 55 x else bit 119 x,
    mac := fun r => if r = 0 then bits 47 0 x else bits 111 64 x }

/-- A port. -/
def State.port (s : State) (p : Nat) : PortState := SMap.get {} s.fab.ports p

/-- A port changed. -/
def State.modPort (s : State) (p : Nat) (g : PortState → PortState) : State :=
  { s with fab := { s.fab with ports := SMap.put s.fab.ports p (g (s.port p)) } }

/-- A peer. -/
def State.peer (s : State) (d : Nat) : FabPeer := SMap.get {} s.fab.peers d

/-- A peer changed. -/
def State.modPeer (s : State) (d : Nat) (g : FabPeer → FabPeer) : State :=
  { s with fab := { s.fab with peers := SMap.put s.fab.peers d (g (s.peer d)) } }

/-- Has a route failed (R281)? -/
def FabPeer.failed (p : FabPeer) (r : Nat) : Bool := if r = 0 then p.failed0 else p.failed1

/-- Is a route named and not failed? -/
def State.routeLeft (s : State) (d r : Nat) : Bool :=
  let e := s.peerEntry d
  decide (r < 2) && e.valid && e.en r && decide (e.port r < 12) && !(s.peer d).failed r

/-- Is a route enabled, up and not failed (R282)? -/
def State.routeUsable (s : State) (d r : Nat) : Bool :=
  s.routeLeft d r && (s.port ((s.peerEntry d).port r)).up

/-- Has a peer a valid entry, no loss and a usable route (Table 11.10)? -/
def State.peerReady (s : State) (d : Nat) : Bool :=
  decide ((s.peer d).lost = 0) && decide (d < 8192) && (s.routeUsable d 0 || s.routeUsable d 1)

/-- The route of an express record: the lowest usable one (R282). -/
def State.expressRoute (s : State) (d : Nat) : Option Nat :=
  if s.routeUsable d 0 then some 0 else if s.routeUsable d 1 then some 1 else none

/-- The route of the next bulk frame: the usable routes take turns (R282). -/
def State.bulkRoute (s : State) (d : Nat) : Option Nat :=
  let r := 1 - (s.peer d).lastRoute
  if s.routeUsable d r then some r else if s.routeUsable d (1 - r) then some (1 - r) else none

/-! ### Paths -/

/-- The key of a path. -/
def pathKey (peer route : Nat) (bulk : Bool) : Nat := 4 * peer + 2 * route + b2n bulk

/-- A path. -/
def State.path (s : State) (k : Nat) : FabPath := SMap.get {} s.fab.paths k

/-- A path changed. -/
def State.modPath (s : State) (k : Nat) (g : FabPath → FabPath) : State :=
  { s with fab := { s.fab with paths := SMap.put s.fab.paths k (g (s.path k)) } }

/-! ### Frames that leave (R276, R278, R281) -/

/-- The tag of a class of frames, where they carry one. -/
def State.fabPcp (s : State) (bulk : Bool) : Option Nat :=
  let w := s.reg (fabBase + 8)
  if bit 22 w then some (if bulk then bits 21 19 w else bits 18 16 w) else none

/-- The class of the path that a frame to a peer acknowledges: its own, unless only the other has one due (log entry 31). -/
def State.ackClass (s : State) (peer route : Nat) (bulk : Bool) : Bool :=
  let due (b : Bool) : Bool := (s.path (pathKey peer route b)).ackDue
  if due bulk then bulk else if due (!bulk) then !bulk else bulk

/-- The refusals of a peer's operations go back to it with a frame (R268). Table 11.3 has no record for them, so what of the
frame carries them is open (DESIGN CHOICE, log entry 157). -/
def State.returnRefusals (s : State) (peer : Nat) : State :=
  let mine (x : Nat × Nat × Nat) : Bool := x.1 == peer
  { s with fab := { s.fab with refusals := s.fab.refusals.filter fun x => !mine x
                               refused := s.fab.refused ++ s.fab.refusals.filter mine } }

/-- A frame with a number and records leaves its port, and acknowledges what has come by its route (Table 11.2). -/
def State.sendFrame (s : State) (peer route : Nat) (bulk : Bool) (engine job seq : Nat) (recs : List FabRec) : State :=
  let e := s.peerEntry peer
  let a := s.ackClass peer route bulk
  let ack := (s.path (pathKey peer route a)).expect
  let f : FabFrame :=
    { etherType := s.field (fabBase + 8) 15 0, ver := 1, bulk := bulk, ackBulk := a, engine := engine % 4
      srcDev := s.field fabBase 12 0, dstDev := peer, job := job, seq := seq, ack := (ack + (2 ^ 32 - 1)) % 2 ^ 32
      recs := recs }
  let bs := f.bytes (e.mac route) ((s.fuses.macBase + 2 + e.port route) % 2 ^ 48) (s.fabPcp bulk)
  let s := s.modPath (pathKey peer route a) fun p => { p with ackDue := false }
  { s with fab := { s.fab with tx := s.fab.tx ++ [(e.port route, bs)] } }.returnRefusals peer

/-- Records put on a path as its next frame, which is kept until it is acknowledged. -/
def State.pushFrame (s : State) (peer route : Nat) (bulk : Bool) (engine job : Nat) (ten : Option Nat)
    (srcs : List At) (recs : List FabRec) : State :=
  let k := pathKey peer route bulk
  let n := (s.path k).next
  (s.sendFrame peer route bulk engine job n recs).modPath k fun p =>
    { p with next := (n + 1) % 2 ^ 32, unacked := p.unacked ++ [(⟨n, engine, job, ten, recs, srcs⟩ : TxFrame)] }

/-- A kept frame sent again, while the device takes part in the fabric (R277). -/
def State.resendFrame (s : State) (peer route : Nat) (bulk : Bool) (f : TxFrame) : State :=
  if s.devNum.isSome then s.sendFrame peer route bulk f.engine f.job f.seq f.recs else s

/-- Is a record to a peer permitted at a port (Table 13.5)? -/
def State.sendOk (s : State) (t port peer : Nat) : Bool := s.aclOk (60 + port) (masterTen t) peer true

/-- Can a tenancy's records be sent to a peer at all: the device takes part in the fabric, and the peer is not LOST
(R277, R289)? -/
def State.maySend (s : State) (peer : Nat) : Bool := s.devNum.isSome && decide ((s.peer peer).lost = 0)

/-- How a record fares at its port. -/
inductive Sent where
  | ok (s : State)
  | denied (s : State)
  | noRoute

/-! ### Express records (R282, R283) -/

/-- The order in which records leave an express queue. -/
def FabRec.rank : Sys2Proof.FabRec → Nat
  | .abort _ _ _ => 0
  | .sync _ _ _ _ => 1
  | .heartbeat _ _ => 3
  | _ => 2

/-- A record put into its place in the queue: behind those of its kind and of the kinds before it. -/
def queueRec (x : ExpressRec) : List ExpressRec → List ExpressRec
  | [] => [x]
  | y :: ys => if FabRec.rank x.record < FabRec.rank y.record then x :: y :: ys else y :: queueRec x ys

/-- A record queued at its port. -/
def State.queueExpress (s : State) (x : ExpressRec) : State :=
  { s with fab := { s.fab with express := queueRec x s.fab.express } }

/-- An express record of a tenancy sent to a peer (R282, Table 13.7). -/
def State.sendExpress (s : State) (t engine peer : Nat) (src : Option At) (r : FabRec) : Sent :=
  match s.jobTag t, s.expressRoute peer with
  | some job, some route =>
    let port := (s.peerEntry peer).port route
    if !s.maySend peer then .noRoute
    else if s.sendOk t port peer then .ok (s.queueExpress ⟨peer, route, engine, job, some t, src, r⟩)
    else .denied (s.denied (60 + port) (masterTen t) peer true)
  | _, _ => .noRoute

/-- Is a record a HEARTBEAT? -/
def ExpressRec.beats (x : ExpressRec) : Bool := FabRec.rank x.record == 3

/-- The route by which a queued record leaves: its own, or where that is not usable another; none where no route is. -/
def State.routeNow (s : State) (x : ExpressRec) : Option Nat :=
  if s.routeUsable x.peer x.route then some x.route else s.expressRoute x.peer

/-- An express record of a tenancy that waits for a route where none is usable, or leaves by the first. -/
def State.sendOrWait (s : State) (t engine peer : Nat) (r : FabRec) : State :=
  match s.sendExpress t engine peer none r with
  | .ok s => s
  | .denied s => s
  | .noRoute =>
    match s.jobTag t with
    | some job => if s.maySend peer then s.queueExpress ⟨peer, 2, engine, job, some t, none, r⟩ else s
    | none => s

/-- The engine that a record addresses (Table 11.2): none for a HEARTBEAT and for a SYNC, which is for a bank. -/
def ExpressRec.engine? (x : ExpressRec) : Option Nat :=
  match x.record with
  | .heartbeat _ _ => none
  | .sync _ _ _ _ => none
  | _ => some x.engine

/-- Does record `y` go in the frame that `x` begins, whose records address engine `e` if any: to the same peer by the same
route under the same JOB, and to the same engine where both address one? -/
def State.fits (s : State) (x : ExpressRec) (e : Option Nat) (y : ExpressRec) : Bool :=
  x.peer == y.peer && s.routeNow x == s.routeNow y && x.job == y.job &&
  (y.beats || (x.ten == y.ten && (e.isNone || y.engine?.isNone || e == y.engine?)))

/-- The records that the next frame takes from a queue, up to `room` bytes, and those that stay: every one that fits. -/
def State.packRecs (s : State) (h : ExpressRec) : Option Nat → Nat → List ExpressRec → List ExpressRec × List ExpressRec
  | _, _, [] => ([], [])
  | e, room, x :: xs =>
    if s.fits h e x && decide (x.record.size ≤ room) then
      let (a, b) := s.packRecs h (e.or x.engine?) (room - x.record.size) xs
      (x :: a, b)
    else
      let (a, b) := s.packRecs h e room xs
      (a, x :: b)

/-- ENGINE of a frame: that of its records, or 0 where none addresses one. -/
def frameEngine (xs : List ExpressRec) : Nat := (xs.findSome? ExpressRec.engine?).getD 0

/-- A record stays in its queue. -/
def State.keepExpress (s : State) (x : ExpressRec) : State :=
  { s with fab := { s.fab with express := s.fab.express ++ [x] } }

/-- Does the window of the port of a route deny a record that was queued for another route (Table 13.5)? -/
def State.routeDenied (s : State) (x : ExpressRec) (r : Nat) : Bool :=
  match x.ten with
  | some t => r != x.route && !s.sendOk t ((s.peerEntry x.peer).port r) x.peer
  | none => false

/-- A record denied at its new port: logged, and kept for what it belongs to to learn of it (R338). -/
def State.shutOut (s : State) (x : ExpressRec) (r : Nat) : State :=
  let s := s.denied (60 + (s.peerEntry x.peer).port r) (masterTen (x.ten.getD 0)) x.peer true
  { s with fab := { s.fab with shut := s.fab.shut ++ [x] } }

/-- One express frame leaves with what the head of the queue goes with; where its route is gone it takes another, and
without one, or while its peer may not be sent to, it stays. -/
def State.expressFrame (s : State) (h : ExpressRec) (rest : List ExpressRec) : State × List ExpressRec :=
  match s.routeNow h with
  | none => (s.keepExpress h, rest)
  | some r =>
    if !s.maySend h.peer then (s.keepExpress h, rest)
    else if s.routeDenied h r then (s.shutOut h r, rest)
    else
      let (now, left) := s.packRecs h none 128 (h :: rest)
      let (out, go) := now.partition fun x => s.routeDenied x r
      (out.foldl (fun s x => s.shutOut x r) (s.pushFrame h.peer r false (frameEngine go) h.job h.ten
        (go.filterMap ExpressRec.src) (go.map ExpressRec.record)), left)

/-- The queues drained, at most `k` frames; HEARTBEATs that no frame takes stay, unless they leave too. -/
def State.drainFrames (beats : Bool) : Nat → List ExpressRec → State → State
  | _, [], s => s
  | 0, xs, s => { s with fab := { s.fab with express := s.fab.express ++ xs } }
  | k + 1, x :: xs, s =>
    if x.beats && !beats then State.drainFrames beats k xs (s.keepExpress x)
    else
      let (s, left) := s.expressFrame x xs
      State.drainFrames beats k left s

/-- The express records that wait leave their ports, HEARTBEATs last (R283). -/
def State.drainExpress (s : State) (beats : Bool := true) : State :=
  State.drainFrames beats s.fab.express.length s.fab.express { s with fab := { s.fab with express := [] } }

/-! ### Bulk frames (R281, R282) -/

/-- Bytes of a frame on the wire with its FCS (R278). -/
def State.frameSize (s : State) (recs : List FabRec) : Nat :=
  recsSize recs + (if bit 22 (s.reg (fabBase + 8)) then 38 else 34)

/-- Bytes that the unacknowledged frames of a port take in its retransmission buffer (R281). -/
def State.bulkHeld (s : State) (port : Nat) : Nat :=
  (s.fab.paths.map fun q =>
    if (s.peerEntry (q.1 / 4)).port (q.1 / 2 % 2) = port then
      (q.2.unacked.map fun f => s.frameSize f.recs).foldl (· + ·) 0 else 0).foldl (· + ·) 0

/-- Has the port's retransmission buffer of 1 MiB room for a bulk frame of a record (R281)? -/
def State.bulkRoom (s : State) (port : Nat) (r : FabRec) : Bool := decide (s.bulkHeld port + s.frameSize [r] ≤ 2 ^ 20)

/-- A bulk record of a tenancy sent to a peer; it waits (`noRoute`) while the buffer is full. -/
def State.sendBulk (s : State) (t engine peer : Nat) (r : FabRec) : Sent :=
  match s.jobTag t, s.bulkRoute peer with
  | some job, some route =>
    let port := (s.peerEntry peer).port route
    if !s.maySend peer || !s.bulkRoom port r then .noRoute
    else if s.sendOk t port peer then
      .ok ((s.modPeer peer fun p => { p with lastRoute := route }).pushFrame peer route true engine job (some t) [] [r])
    else .denied (s.denied (60 + port) (masterTen t) peer true)
  | _, _ => .noRoute

/-- The loss code of a LOST peer (R289): LINK_LOST where its cause is a link that went down. -/
def lossCode (cause : Nat) : Nat := if cause = 3 then codeLinkLost else codePeerLost

/-- Does a record belong to a collective's work at this device? -/
def recOf (collId : Nat) : FabRec → Bool
  | .data _ _ _ c _ _ => c == collId
  | .putOpen _ c _ _ _ _ => c == collId
  | .request c _ _ _ => c == collId
  | _ => false

/-- Is a record of a tenancy's collective to a peer unacknowledged, or still to leave? -/
def State.collUnacked (s : State) (t peer collId : Nat) : Bool :=
  (s.fab.express.any fun x => x.peer == peer && x.ten == some t && recOf collId x.record) ||
  s.fab.paths.any fun q => q.1 / 4 == peer && q.2.unacked.any fun f =>
    f.ten == some t && f.recs.any (recOf collId)

end Sys2Proof.Machine
end

