-- ==== Sys2Proof/Machine/Sha.lean ====
section
/-! DEFINITION. SHA-256 and HMAC-SHA-256, by which the manual computes the digests of puts, of images and of
configurations, and the identity key (R295, R372, R373, R380–R382). The manual names these functions; what they compute is
PRESUMED from FIPS 180-4 and RFC 2104 (log entry 129). -/

namespace Sys2Proof.Machine

/-- The round constants of SHA-256. -/
def shaK : List (BitVec 32) := [
  0x428A2F98, 0x71374491, 0xB5C0FBCF, 0xE9B5DBA5, 0x3956C25B, 0x59F111F1, 0x923F82A4, 0xAB1C5ED5,
  0xD807AA98, 0x12835B01, 0x243185BE, 0x550C7DC3, 0x72BE5D74, 0x80DEB1FE, 0x9BDC06A7, 0xC19BF174,
  0xE49B69C1, 0xEFBE4786, 0x0FC19DC6, 0x240CA1CC, 0x2DE92C6F, 0x4A7484AA, 0x5CB0A9DC, 0x76F988DA,
  0x983E5152, 0xA831C66D, 0xB00327C8, 0xBF597FC7, 0xC6E00BF3, 0xD5A79147, 0x06CA6351, 0x14292967,
  0x27B70A85, 0x2E1B2138, 0x4D2C6DFC, 0x53380D13, 0x650A7354, 0x766A0ABB, 0x81C2C92E, 0x92722C85,
  0xA2BFE8A1, 0xA81A664B, 0xC24B8B70, 0xC76C51A3, 0xD192E819, 0xD6990624, 0xF40E3585, 0x106AA070,
  0x19A4C116, 0x1E376C08, 0x2748774C, 0x34B0BCB5, 0x391C0CB3, 0x4ED8AA4A, 0x5B9CCA4F, 0x682E6FF3,
  0x748F82EE, 0x78A5636F, 0x84C87814, 0x8CC70208, 0x90BEFFFA, 0xA4506CEB, 0xBEF9A3F7, 0xC67178F2]

/-- The eight words of a hash in progress. -/
structure ShaState where
  a : BitVec 32
  b : BitVec 32
  c : BitVec 32
  d : BitVec 32
  e : BitVec 32
  f : BitVec 32
  g : BitVec 32
  h : BitVec 32
  deriving DecidableEq, Repr

/-- The words at the start. -/
def shaInit : ShaState :=
  ⟨0x6A09E667, 0xBB67AE85, 0x3C6EF372, 0xA54FF53A, 0x510E527F, 0x9B05688C, 0x1F83D9AB, 0x5BE0CD19⟩

/-- One round with its constant and its word of the message. -/
def ShaState.step (s : ShaState) (k w : BitVec 32) : ShaState :=
  let t := s.h + (s.e.rotateRight 6 ^^^ s.e.rotateRight 11 ^^^ s.e.rotateRight 25) +
    ((s.e &&& s.f) ^^^ (~~~s.e &&& s.g)) + k + w
  let u := (s.a.rotateRight 2 ^^^ s.a.rotateRight 13 ^^^ s.a.rotateRight 22) +
    ((s.a &&& s.b) ^^^ (s.a &&& s.c) ^^^ (s.b &&& s.c))
  ⟨t + u, s.a, s.b, s.c, s.d + t, s.e, s.f, s.g⟩

/-- The word of the message schedule that follows sixteen others. -/
def nextWord (ws : List (BitVec 32)) : BitVec 32 :=
  let x := ws.getD 1 0
  let y := ws.getD 14 0
  (y.rotateRight 17 ^^^ y.rotateRight 19 ^^^ y >>> 10) + ws.getD 9 0 +
    (x.rotateRight 7 ^^^ x.rotateRight 18 ^^^ x >>> 3) + ws.getD 0 0

/-- The rounds with these constants, given the next sixteen words of the schedule. -/
def shaRounds : List (BitVec 32) → List (BitVec 32) → ShaState → ShaState
  | [], _, s => s
  | k :: ks, ws, s => shaRounds ks (ws.tail ++ [nextWord ws]) (s.step k (ws.headD 0))

/-- Two states added word by word. -/
def ShaState.add (x y : ShaState) : ShaState :=
  ⟨x.a + y.a, x.b + y.b, x.c + y.c, x.d + y.d, x.e + y.e, x.f + y.f, x.g + y.g, x.h + y.h⟩

/-- A block of sixteen words taken in. -/
def ShaState.block (s : ShaState) (ws : List (BitVec 32)) : ShaState := s.add (shaRounds shaK ws s)

/-- The bytes of a message with its padding. -/
def shaPadded (bs : List Byte) : List Byte :=
  bs ++ [0x80] ++ List.replicate ((119 - bs.length % 64) % 64) 0 ++ beBytes 8 (8 * bs.length)

/-- The word at place `k` of some bytes. -/
def shaWord (bs : List Byte) (k : Nat) : BitVec 32 := BitVec.ofNat 32 (beNat ((bs.drop (4 * k)).take 4))

/-- Blocks `k` upward of a padded message taken in, `n` of them. -/
def shaBlocks (bs : List Byte) (s : ShaState) (n : Nat) : ShaState :=
  (List.range n).foldl (fun s k => s.block ((List.range 16).map fun j => shaWord bs (16 * k + j))) s

/-- SHA-256: 32 bytes. -/
def sha256 (bs : List Byte) : List Byte :=
  let m := shaPadded bs
  let s := shaBlocks m shaInit (m.length / 64)
  ([s.a, s.b, s.c, s.d, s.e, s.f, s.g, s.h].map fun w => beBytes 4 w.toNat).flatten

/-- The number that a digest's bytes hold, least significant first (R16). -/
def digest (bs : List Byte) : Nat := leNat (sha256 bs)

/-- HMAC-SHA-256 with a key of at most 64 bytes. -/
def hmacSha256 (key m : List Byte) : List Byte :=
  let pad (x : Byte) : List Byte := (key ++ List.replicate (64 - key.length) 0).map (· ^^^ x)
  sha256 (pad 0x5C ++ sha256 (pad 0x36 ++ m))

end Sys2Proof.Machine
end

