-- ==== Sys2Proof/Machine/Collective.lean ====
section
/-! DEFINITION. The collective engines (R290–R300): descriptors and their start checks, credits, the ring, puts and the
Sort-yard collective. The ring passes chunk r - 1 first, so that chunk r comes home last (log entry 32). -/

namespace Sys2Proof.Machine

/-! ### Descriptors (Table 11.9) -/

/-- A descriptor from its 128 bytes. -/
def readColl (x : Nat) : CollDesc :=
  { op := bits 3 0 x, fmt := bits 7 4 x, digest := bit 8 x, n := bits 28 16 x + 1, rank := bits 44 32 x
    root := bits 60 48 x, collId := bits 95 64 x, members := bits 175 128 x, src := bits 239 192 x
    dst := bits 303 256 x, bytes := bits 383 320 x, waitObj := bits 401 384 x, waitEn := bit 415 x
    sigObj := bits 433 416 x, sigEn := bit 447 x, waitValue := BitVec.ofNat 64 (bits 511 448 x)
    peerObj := bits 529 512 x, peerEn := bit 543 x, recvCount := bits 575 544 x, sched := bits 623 576 x
    schedCount := bits 671 640 x
    badField := decide (bits 15 9 x ≠ 0) || decide (bits 31 29 x ≠ 0) || decide (bits 47 45 x ≠ 0) ||
      decide (bits 63 61 x ≠ 0) || decide (bits 127 96 x ≠ 0) || decide (bits 191 176 x ≠ 0) ||
      decide (bits 255 240 x ≠ 0) || decide (bits 319 304 x ≠ 0) || decide (bits 414 402 x ≠ 0) ||
      decide (bits 446 434 x ≠ 0) || decide (bits 542 530 x ≠ 0) || decide (bits 639 624 x ≠ 0) ||
      decide (bits 1023 672 x ≠ 0) }

/-- The BUF_FMT that a descriptor's FMT names: BF16 or FP32. -/
def CollDesc.bufFmt (d : CollDesc) : Option Bool :=
  match Fmt.ofCode d.fmt with
  | some .fp32 => some false
  | some .bf16 => some true
  | _ => none

/-- Case 2 of Table 11.10, with the multiples of R294. -/
def CollDesc.shapeBad (d : CollDesc) : Bool :=
  decide (5 < d.op) || d.badField || (d.digest && d.op != 4) || decide (d.n ≤ d.rank) ||
  (if d.op ≤ 1 then d.bufFmt.isNone || decide (d.bytes % (256 * d.n) ≠ 0) else decide (d.fmt ≠ 0)) ||
  (d.op == 2 && decide (d.bytes % (16 * d.n) ≠ 0)) || (d.op == 3 && (decide (d.bytes % 16 ≠ 0) || decide (d.n ≤ d.root))) ||
  (d.op == 4 && (decide (d.bytes % 16 ≠ 0) || decide (d.n ≠ 1))) || (d.op != 5 && d.bytes == 0)

/-! ### Ranges of virtual memory (R290) -/

/-- The pages of a range. -/
def pagesOf (va n : Nat) : List Nat := unitsOf 65536 va n

/-- Pages walked: the physical page of each, or none where one has no valid translation for the access. -/
def State.mapPages (s : State) (t : Nat) (write : Bool) : List Nat → State × Option (SMap Nat)
  | [] => (s, some [])
  | p :: ps =>
    let (w, as) := s.walk t (65536 * p) write
    let s := s.touchEntries as
    match w with
    | .fail _ _ => (s, none)
    | .ok e =>
      let (s, m) := s.mapPages t write ps
      (s, m.map fun m => SMap.put m p (e.pa (65536 * p) / 65536))

/-- A range walked; one that leaves the space has no translation. -/
def State.mapRange (s : State) (t va n : Nat) (write : Bool) : State × Option (SMap Nat) :=
  if 2 ^ 48 < va + n then (s, none) else s.mapPages t write (pagesOf va n)

/-- Do the walks of a range meet an entry that cannot be read now (R176, R187, R236)? -/
def State.rangeHeld (s : State) (held : Nat → Bool) (t va n : Nat) (write : Bool) : Bool :=
  decide (va + n ≤ 2 ^ 48) && (pagesOf va n).any fun p => (s.walk t (65536 * p) write).2.any held

/-- The physical address of a mapped one. -/
def paOf (pages : SMap Nat) (va : Nat) : Nat := SMap.get 0 pages (va / 65536) * 65536 + va % 65536

/-- A mapped run of bytes, as the rows of transfers are read and written. -/
def mappedRow (pages : SMap Nat) (va n : Nat) : RowPlace :=
  .lines va ((unitsOf 64 va n).map fun u => paOf pages (64 * u) / 64)

/-- The lines of a place. -/
def RowPlace.lineList : RowPlace → List Nat
  | .store _ _ => []
  | .lines _ ls => ls

/-- Is an access to a place held at a stack? -/
def State.placeHeld (s : State) (p : RowPlace) : Bool := p.lineList.any fun l => s.memHeld (64 * l)

/-- The first line of a place that the windows deny. -/
def State.placeDenied (s : State) (t : Nat) (p : RowPlace) (write : Bool) : Option Nat :=
  p.lineList.find? fun l => !s.memOk (masterTen t) (64 * l) 64 write

/-- How an access of an engine ends. -/
inductive EngRes (α : Type) where
  | ok (a : α) (s : State)
  | held
  | denied (s : State)

/-- Do the lines that an engine reads or writes still travel, or is their way cut (R236)? -/
def State.collWaits (s : State) (e : Nat) (toStack : Bool) (p : RowPlace) : Bool :=
  p.lineList.any fun l => s.cut (some (collEntry e (64 * l) toStack)) ||
    s.noc.packets.any fun x => (match x.cargo with
      | .data (.collData k pa w) => k == e && w == toStack && pa / 64 == l
      | _ => false) && s.noc.branches.any fun b => b.id == x.id

/-- Is a line that an engine reads held at its stack, or cut off? -/
def State.engHeld (s : State) (e pa : Nat) : Bool := s.memHeld pa || s.cut (some (collEntry e pa false))

/-- The key of a line of an engine among those that come blazed. -/
def badKey (e l : Nat) : Nat := 2 ^ 33 * e + l

/-- The marks that the network set on lines have come to their end. -/
def State.takeBad (s : State) (e : Nat) (ls : List Nat) : State :=
  { s with fab := { s.fab with bad := ls.foldl (fun m l => NSet.sub m (badKey e l)) s.fab.bad } }

/-- Did the line of byte `o` of a place come blazed? -/
def State.badAt (s : State) (e : Nat) (p : RowPlace) (o : Nat) : Bool :=
  match p with
  | .store _ _ => false
  | .lines a ls => NSet.has s.fab.bad (badKey e (ls.getD ((a + o) / 64 - a / 64) 0))

/-- A read by an engine: its bytes and the marks of its units. -/
def State.engRead (s : State) (e t n : Nat) (p : RowPlace) : EngRes (List Byte × List Bool) :=
  if s.placeHeld p || s.collWaits e false p then .held
  else match s.placeDenied t p false with
    | some l => .denied (s.memDenied (masterTen t) (64 * l) false)
    | none =>
      let v := s.rowRead t n p
      .ok (v.1, (v.2.zip p.lineList).map fun x => x.1 || NSet.has s.fab.bad (badKey e x.2))
        ((s.rowTouch p).takeBad e p.lineList)

/-- A write by an engine. -/
def State.engWrite (s : State) (e t : Nat) (bs : List Byte) (mark : Nat → Nat → Bool) (p : RowPlace) : EngRes Unit :=
  if s.placeHeld p || s.collWaits e true p then .held
  else match s.placeDenied t p true with
    | some l => .denied (s.memDenied (masterTen t) (64 * l) true)
    | none => .ok () ((s.rowStore t bs (fun o n => mark o n || s.badAt e p o) p).takeBad e p.lineList)

/-- Bytes copied inside the device with their marks (R294). -/
def State.engCopy (s : State) (e t a n : Nat) (src dst : RowPlace) : EngRes Unit :=
  match s.engRead e t n src with
  | .held => .held
  | .denied s => .denied s
  | .ok v s => s.engWrite e t v.1 (unitsMark a v.2) dst

/-! ### Reduced blocks (R293) -/

/-- A partial sum: its elements as bits, and its count. -/
structure Partial where
  es : List Nat
  k : Nat
  deriving DecidableEq, Repr

/-- A source block read with its count; a marked or uncorrectable one, or one with an uncorrectable count, contributes
nothing. -/
def State.srcBlock (s : State) (e t : Nat) (f : Fmt) (pa : Nat) : EngRes (Option Partial) :=
  match s.engRead e t 256 (.lines pa (unitsOf 64 pa 256)) with
  | .held => .held
  | .denied s => .denied s
  | .ok v s =>
    .ok (if v.2.any id || s.countBad (pa / 256) then none else some ⟨unpack f.width f.lanes (packBytes v.1), s.accCount (pa / 256)⟩) s

/-- The surviving ones of two contributions, added (R293). -/
def joinParts (f : Fmt) : Option Partial → Option Partial → Option Partial
  | some a, some b =>
    some ⟨((a.es.zip b.es).map fun p => (engineAdd f (readElement true f p.1) (readElement true f p.2)).bits),
          min 65535 (a.k + b.k)⟩
  | some a, none => some a
  | none, b => b

/-- What an arriving record contributes: nothing where it is marked. -/
def partialOf (f : Fmt) (k : Nat) (bz : Bool) (bs : List Byte) : Option Partial :=
  if bz then none else some ⟨unpack f.width f.lanes (packBytes bs), k⟩

/-- A partial sum as the fields of a DATA record: mark, count, payload. -/
def partRecord (f : Fmt) : Option Partial → Bool × Nat × List Byte
  | some p => (false, p.k, bytesOf 256 (pack f.width p.es))
  | none => (true, 0, List.replicate 256 0)

/-- A result written to its block with its count, unblazed; one whose count is zero is written as zero. -/
def State.dstBlock (s : State) (eng t : Nat) (f : Fmt) (pa : Nat) (p : Option Partial) : EngRes Unit :=
  let k := (p.map Partial.k).getD 0
  let es := if k = 0 then List.replicate f.lanes 0 else (p.map Partial.es).getD []
  match s.engWrite eng t (bytesOf 256 (pack f.width es)) (fun _ _ => false) (.lines pa (unitsOf 64 pa 256)) with
  | .held => .held
  | .denied s => .denied s
  | .ok _ s =>
    let s := if (s.stack (stackOf pa)).state = stFailed then s else s.setCount (pa / 256) k
    let bad := es.any fun e => (readElement true f e).isNan || (readElement true f e).isInf
    .ok () (if bad && s.enginesNotice t then
      { s with fab := { s.fab with notices := if (SMap.get? s.fab.notices eng).isSome then s.fab.notices else SMap.put s.fab.notices eng t } } else s)

/-! ### Queues and runs -/

/-- A queue of an engine. -/
def State.ceq (s : State) (e t : Nat) : CollQueue := SMap.get {} s.fab.queues (4 * e + t)

/-- A queue changed. -/
def State.modCeq (s : State) (e t : Nat) (g : CollQueue → CollQueue) : State :=
  { s with fab := { s.fab with queues := SMap.put s.fab.queues (4 * e + t) (g (s.ceq e t)) } }

/-- Registers of an engine (Table 11.13). -/
def ceReg (e t k : Nat) : Nat := fabBase + 0x1000 + 0x100 * e + 0x20 * k + 8 * t

/-- PROD of a queue. -/
def State.ceProd (s : State) (e t : Nat) : Nat := s.field (ceReg e t 1) 5 0

/-- The physical address of a descriptor. -/
def State.cePa (s : State) (e t slot : Nat) : Nat := bits 38 13 (s.reg (ceReg e t 0)) * 8192 + 128 * slot

/-- Are two records of a run the same run? -/
def CollRun.same (a b : CollRun) : Bool := a.eng == b.eng && a.ten == b.ten && a.slot == b.slot

/-- A run replaced. -/
def State.putRun (s : State) (r : CollRun) : State :=
  { s with fab := { s.fab with runs := s.fab.runs.map fun x => if x.same r then r else x } }

/-- A run removed. -/
def State.dropRun (s : State) (r : CollRun) : State :=
  { s with fab := { s.fab with runs := s.fab.runs.filter fun x => !x.same r } }

/-- The run of a slot. -/
def State.runAt (s : State) (e t slot : Nat) : Option CollRun :=
  s.fab.runs.find? fun r => r.eng == e && r.ten == t && r.slot == slot

/-- The run of a COLL_ID. -/
def State.runOf (s : State) (e t collId : Nat) : Option CollRun :=
  s.fab.runs.find? fun r => r.eng == e && r.ten == t && r.desc.collId == collId

/-- The device that a run sends to: its right neighbour, or the put's peer. -/
def CollRun.next (r : CollRun) : Nat :=
  if r.desc.op = 4 then r.desc.root else r.members.getD ((r.desc.rank + 1) % r.desc.n) 0

/-- The device that a run receives from: its left neighbour. -/
def CollRun.prev (r : CollRun) : Nat := r.members.getD ((r.desc.rank + r.desc.n - 1) % r.desc.n) 0

/-- Bytes of a chunk. -/
def CollDesc.chunk (d : CollDesc) : Nat := d.bytes / d.n

/-- Pieces of 256 bytes of `n` bytes from offset `off`. -/
def unitsFrom (off n : Nat) : List CollUnit :=
  (List.range ((n + 255) / 256)).map fun k => .bytes (off + 256 * k) (min 256 (n - 256 * k))

/-- Blocks of a chunk. -/
def CollDesc.blocksOf (d : CollDesc) (q : Nat) : List CollUnit :=
  (List.range (d.chunk / 256)).map fun k => .block (q * d.chunk + 256 * k)

/-- Digests of a put (R295): the extents of 1 MiB, eight digests to a record. -/
def CollDesc.digestUnits (d : CollDesc) : List CollUnit :=
  let m := (d.bytes + 2 ^ 20 - 1) / 2 ^ 20
  (List.range ((m + 7) / 8)).map fun k => .digests (d.bytes + 256 * k) (8 * k) (min 8 (m - 8 * k))

/-- How many records a run receives in all. -/
def CollDesc.expected (d : CollDesc) : Nat :=
  match d.op with
  | 0 => 2 * (d.chunk / 256) * (d.n - 1)
  | 1 => (d.chunk / 256) * (d.n - 1)
  | 2 => ((d.chunk + 255) / 256) * (d.n - 1)
  | 3 => if d.rank = d.root then 0 else (d.bytes + 255) / 256
  | _ => 0

/-! ### Faults of a collective (R300) -/

/-- An express record of an engine sent if it can be. -/
def State.trySend (s : State) (t e peer : Nat) (r : FabRec) : State :=
  match s.sendExpress t e peer none r with
  | .ok s => s
  | .denied s => s
  | .noRoute => s

/-- The devices to which a run sends ABORT: its ring neighbours, or the put's peer. -/
def CollRun.neighbours (r : CollRun) : List Nat :=
  if r.desc.op = 4 then [r.desc.root]
  else if r.desc.n ≤ 1 then []
  else if r.next = r.prev then [r.next] else [r.next, r.prev]

/-- A queue enters FAULTED with a record to the tenancy's fault session; a first fault stays recorded. -/
def State.ceFault (s : State) (e t slot code peer collId : Nat) (atStart : Bool) : State :=
  let s := if (s.ceq e t).faulted then s else s.modCeq e t fun q =>
    { q with faulted := true, atStart := atStart, faultCode := code, faultSlot := slot, faultPeer := peer }
  s.sendFault ⟨3, code, t, e, peer, collId + 2 ^ 32 * slot, false, 0, 0, 0⟩

/-- A run stops: no more DATA, no signal; ABORT goes to the neighbours but the one it came from. -/
def State.collFault (s : State) (r : CollRun) (code peer dev : Nat) (notTo : Option Nat) : State :=
  let s := (s.dropRun r).ceFault r.eng r.ten r.slot code peer r.desc.collId false
  let s := { s with fab := { s.fab with recvs := s.fab.recvs.filter fun x =>
    !(x.eng == r.eng && x.ten == r.ten && x.collId == r.desc.collId && x.open_) } }
  (r.neighbours.filter fun d => some d ≠ notTo).foldl
    (fun s d => s.trySend r.ten r.eng d (.abort (BitVec.ofNat 8 code) dev r.desc.collId)) s

/-- A run stops for a fault found at this device. -/
def State.collStop (s : State) (r : CollRun) (code peer : Nat) : State :=
  s.collFault r code peer (s.field fabBase 12 0) none

/-! ### Sending (R292) -/

/-- The 256 bytes of a payload. -/
def pad256 (bs : List Byte) : List Byte := bs ++ List.replicate (256 - bs.length) 0

/-- The digest of extent `k` of the bytes read. -/
def extentDigest (bs : List Byte) (k : Nat) : List Byte :=
  sha256 ((bs.drop (2 ^ 20 * k)).take (2 ^ 20))

/-- A unit as a DATA record, with the bytes read for it. -/
def State.unitRecord (s : State) (r : CollRun) (u : CollUnit) (last : Bool) : EngRes (FabRec × List Byte) :=
  let d := r.desc
  match u with
  | .bytes off len =>
    match s.engRead r.eng r.ten len (mappedRow r.pages (d.src + off) len) with
    | .held => .held
    | .denied s => .denied s
    | .ok v s => .ok (.data (v.2.any id) last 0 d.collId off (pad256 v.1), v.1) s
  | .block off =>
    let f := accFmt (d.bufFmt.getD false)
    match s.srcBlock r.eng r.ten f (paOf r.pages (d.src + off)) with
    | .held => .held
    | .denied s => .denied s
    | .ok p s =>
      let (bz, k, bs) := partRecord f p
      .ok (.data bz last k d.collId off bs, []) s
  | .pass off k bz bs => .ok (.data bz last k d.collId off (pad256 bs), []) s
  | .digests off first count =>
    .ok (.data false last 0 d.collId off
      (pad256 ((List.range count).map fun k => extentDigest r.read (first + k)).flatten), []) s

/-- The next unit of a ring or a put sent, where its credits and the retransmission buffer allow it; a denial faults the
run (Table 13.7). None where nothing can leave. -/
def State.ringUnit (s : State) (r : CollRun) : Option State :=
  match r.outbox with
  | [] => none
  | u :: us =>
    if r.credits = 0 then none
    else match s.unitRecord r u us.isEmpty with
      | .held => none
      | .denied s => some (s.collStop r codeAccess r.next)
      | .ok (rec, bs) s =>
        match s.sendBulk r.ten r.eng r.next rec with
        | .noRoute => none
        | .denied s => some (s.collStop r codeAccess r.next)
        | .ok s =>
          some (s.putRun { r with outbox := us, credits := r.credits - 1,
                                  read := if r.desc.digest then r.read ++ bs else r.read })

/-- A put that has not sent its PUT_OPEN sends it; a denial faults it (Table 13.7). -/
def State.openPut (s : State) (r : CollRun) : State :=
  let d := r.desc
  if d.op ≠ 4 ∨ r.opened = true then s
  else match s.sendExpress r.ten r.eng d.root none (.putOpen d.digest d.collId d.dst d.bytes d.peerObj d.peerEn) with
    | .ok s => s.putRun { r with opened := true }
    | .denied s => s.collStop r codeAccess d.root
    | .noRoute => s

/-- A run that grants its left neighbour more credits: all it still expects, at most 65,535, whenever the last ones
are used. -/
def State.regrant (s : State) (r : CollRun) : State :=
  let left := r.desc.expected - r.arrivals
  if r.granted ≠ 0 ∨ left = 0 then s
  else
    let c := min 65535 left
    match s.sendExpress r.ten r.eng r.prev none (.grant r.desc.op c r.desc.collId r.desc.bytes (r.desc.n - 1) r.desc.fmt 0) with
    | .ok s => s.putRun { r with granted := c }
    | .denied s => s.collStop r codeAccess r.prev
    | .noRoute => s

/-! ### Sort-yard moves (R296–R298) -/

/-- A move from its 32 bytes (Table 11.11). -/
def readMove (x : Nat) : SyMove :=
  { srcShard := bits 15 0 x, dstDev := bits 28 16 x, dstShard := bits 47 32 x, round := bits 55 48 x
    srcOff := bits 127 64 x, dstOff := bits 191 128 x, bytes := bits 255 192 x }

/-- Does a range lie within a usable shard of the tenancy (R296)? -/
def State.shardRange (s : State) (t j off n : Nat) : Bool :=
  let e := s.shard j
  e.validFor t && decide (off + n ≤ e.extent)

/-- Is the entry of a shard held at its stack, or cut off from an engine (R176, R236)? -/
def State.entryAway (s : State) (e j : Nat) : Bool := s.engHeld e (s.shard j).pa

/-- The read of a shard's entry (R207). -/
def State.touchEntry (s : State) (j : Nat) : State := s.touch (s.shard j).pa 32

/-- A run of bytes of a shard. -/
def State.shardRow (s : State) (j off n : Nat) : RowPlace :=
  let a := (s.shard j).base + off
  .lines a (unitsOf 64 a n)

/-- Are the moves of rounds below `k` acknowledged? -/
def CollRun.roundsBelow (r : CollRun) (k : Nat) : Bool :=
  r.moves.all fun m => decide (k ≤ m.round) || m.state == .acked

/-- A move of a run replaced. -/
def CollRun.setMove (r : CollRun) (k : Nat) (m : SyMove) : CollRun := { r with moves := r.moves.set k m }

/-- Is no earlier move to the same device in progress? -/
def CollRun.firstTo (r : CollRun) (k dev : Nat) : Bool :=
  (r.moves.take k).all fun m => m.dstDev != dev || m.state == .acked

/-- What one attempt at a move leaves: the state and the run, or a fault with its code and peer. -/
inductive MoveRes where
  | go (s : State) (r : CollRun)
  | fault (s : State) (code peer : Nat)

/-- A move inside the device: its bytes copied once its round's turn has come (R296, R297). -/
def State.localMove (s : State) (r : CollRun) (k : Nat) (m : SyMove) : MoveRes :=
  let t := (s.touchEntry m.srcShard).touchEntry m.dstShard
  if !r.roundsBelow m.round || s.entryAway r.eng m.srcShard || s.entryAway r.eng m.dstShard then .go s r
  else if !s.shardRange r.ten m.srcShard m.srcOff m.bytes || !s.shardRange r.ten m.dstShard m.dstOff m.bytes then
    .fault t codeAccess m.dstDev
  else match t.engCopy r.eng r.ten ((s.shard m.srcShard).base + m.srcOff) m.bytes
      (s.shardRow m.srcShard m.srcOff m.bytes) (s.shardRow m.dstShard m.dstOff m.bytes) with
    | .held => .go s r
    | .denied s => .fault s codeAccess m.dstDev
    | .ok _ s =>
      .go s { r.setMove k { m with state := .acked } with
        received := r.received + 1, shards := NSet.add r.shards m.dstShard }

/-- The REQUEST of a move to another device, once earlier moves to it are done; the engine's table may deny the peer
(R297, Table 13.5). -/
def State.requestMove (s : State) (r : CollRun) (k : Nat) (m : SyMove) : MoveRes :=
  let t := s.touchEntry m.srcShard
  if !r.firstTo k m.dstDev || s.entryAway r.eng m.srcShard then .go s r
  else if !s.shardRange r.ten m.srcShard m.srcOff m.bytes then .fault t codeAccess m.dstDev
  else if !s.aclOk (56 + r.eng) (masterTen r.ten) m.dstDev true then
    .fault (t.denied (56 + r.eng) (masterTen r.ten) m.dstDev true) codeAccess m.dstDev
  else match t.sendExpress r.ten r.eng m.dstDev none (.request r.desc.collId m.round m.dstShard (m.bytes / 16)) with
    | .noRoute => .go s r
    | .denied s => .fault s codeAccess m.dstDev
    | .ok s => .go s (r.setMove k { m with state := .requested })

/-- One attempt at move `k`, but for its DATA. -/
def State.stepMove (s : State) (r : CollRun) (k : Nat) (m : SyMove) : MoveRes :=
  match m.state with
  | .acked => .go s r
  | .requested => .go s r
  | .sending done =>
    if m.bytes ≤ done ∧ s.collUnacked r.ten m.dstDev r.desc.collId = false then
      .go s (r.setMove k { m with state := .acked })
    else .go s r
  | .idle => if some m.dstDev = s.devNum then s.localMove r k m else s.requestMove r k m

/-- The moves of a run, in order. -/
def State.stepMoves (s : State) (r : CollRun) : List Nat → State
  | [] => s.putRun r
  | k :: ks =>
    match r.moves[k]? with
    | none => s.putRun r
    | some m =>
      match s.stepMove r k m with
      | .go s r => s.stepMoves r ks
      | .fault s code peer => s.collStop r code peer

/-- The next DATA record of the first granted move that can send one. -/
def State.moveUnit (s : State) (r : CollRun) : List (SyMove × Nat) → Option State
  | [] => none
  | (m, k) :: ms =>
    match m.state with
    | .sending done =>
      if m.bytes ≤ done ∨ m.credits = 0 ∨ s.entryAway r.eng m.srcShard = true then s.moveUnit r ms
      else
        let len := min 256 (m.bytes - done)
        match (s.touchEntry m.srcShard).engRead r.eng r.ten len (s.shardRow m.srcShard (m.srcOff + done) len) with
        | .held => s.moveUnit r ms
        | .denied s => some (s.collStop r codeAccess m.dstDev)
        | .ok v s' =>
          match s'.sendBulk r.ten r.eng m.dstDev (.data (v.2.any id) (decide (m.bytes ≤ done + 256)) 0 r.desc.collId
              (m.dstOff + done) (pad256 v.1)) with
          | .noRoute => s.moveUnit r ms
          | .denied s => some (s.collStop r codeAccess m.dstDev)
          | .ok s => some (s.putRun (r.setMove k { m with credits := m.credits - 1, state := .sending (done + len) }))
    | _ => s.moveUnit r ms

/-- Is a REQUEST one of a run? -/
def SyRecv.isOf (q : SyRecv) (r : CollRun) : Bool := q.eng == r.eng && q.ten == r.ten && q.collId == r.desc.collId

/-- May a REQUEST be granted: no other of its sender is open, and this member's moves of lower rounds are acknowledged
(R297)? -/
def State.grantable (s : State) (r : CollRun) (q : SyRecv) : Bool :=
  r.roundsBelow q.round && !s.fab.recvs.any fun x => x.open_ && x.peer == q.peer && x.isOf r

/-- The grants that a started Sort-yard member gives: to a REQUEST whose turn has come, and again to an open one whose
credits are used. The engine's table may deny the peer (Table 13.5). -/
def State.grantRequests (s : State) (r : CollRun) : List SyRecv → State
  | [] => s
  | q :: qs =>
    let left := if q.open_ then q.left else q.bytes
    if !q.isOf r || (if q.open_ then q.granted != 0 || left == 0 else !s.grantable r q) then s.grantRequests r qs
    else if !s.aclOk (56 + r.eng) (masterTen r.ten) q.peer true then
      (s.denied (56 + r.eng) (masterTen r.ten) q.peer true).collStop r codeAccess q.peer
    else
      let c := min 65535 ((left + 255) / 256)
      match s.sendExpress r.ten r.eng q.peer none (.grant 5 c r.desc.collId r.desc.bytes (r.desc.n - 1) r.desc.fmt q.round) with
      | .ok s =>
        let give (x : SyRecv) : SyRecv := if x = q then { x with open_ := true, left := left, granted := c } else x
        State.grantRequests { s with fab := { s.fab with recvs := s.fab.recvs.map give } } r qs
      | .denied s => s.collStop r codeAccess q.peer
      | .noRoute => s.grantRequests r qs

/-- A LOST device among the destinations and sources of a Sort-yard run (R289). -/
def State.lostMate (s : State) (r : CollRun) : Option Nat :=
  (r.moves.map SyMove.dstDev ++ (s.fab.recvs.filter fun q => q.isOf r).map SyRecv.peer).find? fun d =>
    decide ((s.peer d).lost ≠ 0)

/-- What a run does but for its DATA: its PUT_OPEN, its REQUESTs and moves inside the device, and the grants it gives. -/
def State.steer (s : State) (r : CollRun) : State :=
  if r.desc.op = 5 then
    match s.lostMate r with
    | some d => s.collFault r (lossCode (s.peer d).lost) d (s.field fabBase 12 0) (some d)
    | none =>
      let s := s.stepMoves r (List.range r.moves.length)
      match s.runAt r.eng r.ten r.slot with
      | some r => s.grantRequests r s.fab.recvs
      | none => s
  else
    let s := s.openPut r
    match s.runAt r.eng r.ten r.slot with
    | some r => s.regrant r
    | none => s

/-! ### The engines' DATA (R292, R333) -/

/-- The next DATA record of a run sent; none where nothing can leave. -/
def State.dataUnit (s : State) (r : CollRun) : Option State :=
  if r.desc.op = 5 then s.moveUnit r r.moves.zipIdx else s.ringUnit r

/-- The runs of an engine for a tenancy. -/
def State.runsOf (s : State) (e t : Nat) : List CollRun := s.fab.runs.filter fun r => r.eng == e && r.ten == t

/-- One DATA record of an engine: of the tenancy whose turn it is among those that can send, of its oldest run that can
(R333; log entry 112). -/
def State.dataTurn (s : State) (e : Nat) : Option State :=
  let (last, used) := SMap.get (3, [0, 0, 0, 0]) s.fab.turns e
  match nextTurn last used (fun t => (s.runsOf e t).any fun r => (s.dataUnit r).isSome) s.nocWeight with
  | none => none
  | some (t, used) =>
    ((s.runsOf e t).findSome? s.dataUnit).map fun s =>
      { s with fab := { s.fab with turns := SMap.put s.fab.turns e (t, used) } }

/-- At most `n` DATA records of an engine. -/
def State.sendData (s : State) (e : Nat) : Nat → State
  | 0 => s
  | n + 1 =>
    match s.dataTurn e with
    | some s => s.sendData e n
    | none => s

/-- DATA records that a run may still have to send. -/
def CollRun.unitsLeft (r : CollRun) : Nat :=
  r.outbox.length + (r.moves.map fun m => m.bytes / 256 + 1).foldl (· + ·) 0

/-- An engine sends what credits and buffers allow. -/
def State.pumpEngine (s : State) (e : Nat) : State :=
  s.sendData e (((s.fab.runs.filter fun r => r.eng == e).map fun r => r.unitsLeft + 1).foldl (· + ·) 0)

/-- A run goes on as far as it can. -/
def State.pump (s : State) (r : CollRun) : State := (s.steer r).pumpEngine r.eng

/-! ### The receiving contexts of puts (R292, R295) -/

/-- Digest records of a put. -/
def digestRecords (bytes : Nat) (digest : Bool) : Nat :=
  if digest then ((bytes + 2 ^ 20 - 1) / 2 ^ 20 + 7) / 8 else 0

/-- DATA records of a put. -/
def putRecords (bytes : Nat) (digest : Bool) : Nat := (bytes + 255) / 256 + digestRecords bytes digest

/-- Bytes that a put writes: its data and its digests (R295). -/
def putExtent (bytes : Nat) (digest : Bool) : Nat :=
  bytes + (if digest then 32 * ((bytes + 2 ^ 20 - 1) / 2 ^ 20) else 0)

/-- Are two contexts the same? -/
def PutCtx.same (a b : PutCtx) : Bool :=
  a.eng == b.eng && a.ten == b.ten && a.peer == b.peer && a.collId == b.collId

/-- A context replaced. -/
def State.putPut (s : State) (p : PutCtx) : State :=
  { s with fab := { s.fab with puts := s.fab.puts.map fun x => if x.same p then p else x } }

/-- A context closed. -/
def State.dropPut (s : State) (p : PutCtx) : State :=
  { s with fab := { s.fab with puts := s.fab.puts.filter fun x => !x.same p } }

/-- A context grants what it still expects, at most 65,535 records, whenever the last credits are used. -/
def State.grantPut (s : State) (p : PutCtx) : State :=
  let left := putRecords p.bytes p.digest - p.got.length
  if p.granted ≠ 0 ∨ left = 0 then s
  else
    let c := min 65535 left
    match s.sendExpress p.ten p.eng p.peer none (.grant 4 c p.collId p.bytes 0 0 0) with
    | .ok s => s.putPut { p with granted := c }
    | .denied s => s.dropPut p
    | .noRoute => s

/-- Every run and every put goes on as far as it can. -/
def State.pumpAll (s : State) : State :=
  let s := s.fab.runs.foldl (fun s r => match s.runAt r.eng r.ten r.slot with
    | some r => s.steer r
    | none => s) s
  let s := s.fab.puts.foldl State.grantPut s
  (List.range 4).foldl (fun (s : State) e => s.pumpEngine e) s

/-! ### The start of a descriptor (R290, R299) -/

/-- The member list, where its pages are mapped. -/
def memberList (s : State) (pages : Option (SMap Nat)) (d : CollDesc) : Option (List Nat × Bool) :=
  pages.map fun m =>
    let v := s.rowRead 0 (2 * d.n) (mappedRow m d.members (2 * d.n))
    ((List.range d.n).map fun k => packBytes ((v.1.drop (2 * k)).take 2), v.2.any id)

/-- The schedule, where its pages are mapped. -/
def schedule (s : State) (pages : Option (SMap Nat)) (d : CollDesc) : Option (List SyMove × Bool) :=
  pages.map fun m =>
    let n := 32 * d.schedCount
    let v := s.rowRead 0 n (mappedRow m d.sched n)
    ((List.range d.schedCount).map fun k => readMove (packBytes ((v.1.drop (32 * k)).take 32)), v.2.any id)

/-- Does a list name a number twice? -/
def hasDup : List Nat → Bool
  | [] => false
  | x :: xs => xs.contains x || hasDup xs

/-- Is a device no peer that a run could reach, or one that the engine's table denies (Table 13.5)? -/
def State.peerBad (s : State) (e t d : Nat) : Bool :=
  !s.peerReady d || !s.aclOk (56 + e) (masterTen t) d true

/-- The peers that case 3 of Table 11.10 judges: the put's, or the ring neighbours in a list that could be read. -/
def judgedPeers (d : CollDesc) (ms : Option (List Nat)) : List Nat :=
  if d.op = 4 then [d.root]
  else match ms with
    | some ms => if d.n ≤ 1 then [] else [ms.getD ((d.rank + 1) % d.n) 0, ms.getD ((d.rank + d.n - 1) % d.n) 0]
    | none => []

/-- Does a member list that could be read name another device at RANK, or a device twice (case 3)? -/
def State.listBad (s : State) (d : CollDesc) (ms : Option (List Nat)) : Bool :=
  match ms with
  | some ms => some (ms.getD d.rank 0) != s.devNum || hasDup ms
  | none => false

/-- Does a range, as far as its pages are mapped, lie outside the windows of a format somewhere (case 4 of Table 11.10)? -/
def State.strays (s : State) (t va n : Nat) (fmt : Option Bool) : Bool :=
  decide (va % 256 ≠ 0) || (decide (va + n ≤ 2 ^ 48) && (unitsOf 256 va n).any fun b =>
    match (s.walk t (256 * b) false).1 with
    | .ok e => s.accWindow (e.pa (256 * b)) != fmt
    | .fail _ _ => false)

/-- The ranges of a descriptor, walked: members, schedule, source and destination. -/
structure CollMaps where
  members : Option (SMap Nat)
  sched : Option (SMap Nat)
  src : Option (SMap Nat)
  dst : Option (SMap Nat)
  deriving DecidableEq, Repr

/-- The walks of a descriptor's ranges (R290); a range that its operation does not use is empty. -/
def State.collMaps (s : State) (t : Nat) (d : CollDesc) : State × CollMaps :=
  let (s, m) := s.mapRange t d.members (2 * d.n) false
  let (s, c) := s.mapRange t d.sched (if d.op = 5 then 32 * d.schedCount else 0) false
  let (s, a) := s.mapRange t d.src (if d.op = 5 then 0 else d.bytes) false
  let (s, b) := s.mapRange t d.dst (if d.op = 5 ∨ d.op = 4 then 0 else d.bytes) true
  (s, ⟨m, c, a, b⟩)

/-- The first case of Table 11.10 that applies, with its code and the peer involved. -/
def State.collCase (s : State) (e t : Nat) (d : CollDesc) (descBz : Bool) (m : CollMaps) : Option (Nat × Nat × Nat) :=
  let ms := memberList s m.members d
  let sc := schedule s m.sched d
  let bad := (judgedPeers d (ms.map Prod.fst)).find? (s.peerBad e t)
  if descBz || (ms.map Prod.snd).getD false || (sc.map Prod.snd).getD false then some (1, codeAccess, 0)
  else if d.shapeBad then some (2, codeTileBounds, 0)
  else if s.listBad d (ms.map Prod.fst) || bad.isSome then some (3, codeAccess, bad.getD 0)
  else if d.op ≤ 1 ∧ (s.strays t d.src d.bytes d.bufFmt || s.strays t d.dst d.bytes d.bufFmt) = true then
    some (4, codeTileBounds, 0)
  else if (d.waitEn && !s.inRange t d.waitObj) || (d.sigEn && !s.inRange t d.sigObj) then some (5, codeAccess, 0)
  else if m.members.isNone || m.sched.isNone || m.src.isNone || m.dst.isNone then some (6, codePageFault, 0)
  else none

/-- Two page maps joined. -/
def joinMaps (a b : SMap Nat) : SMap Nat := b.foldl (fun m p => SMap.put m p.1 p.2) a

/-- What a started run first has to send. -/
def CollDesc.firstUnits (d : CollDesc) : List CollUnit :=
  match d.op with
  | 0 => if d.n ≤ 1 then [] else d.blocksOf ((d.rank + d.n - 1) % d.n)
  | 1 => if d.n ≤ 1 then [] else d.blocksOf ((d.rank + d.n - 1) % d.n)
  | 2 => if d.n ≤ 1 then [] else unitsFrom (d.rank * d.chunk) d.chunk
  | 3 => if d.n ≤ 1 ∨ d.rank ≠ d.root then [] else unitsFrom 0 d.bytes
  | 4 => unitsFrom 0 d.bytes ++ (if d.digest then d.digestUnits else [])
  | _ => []

/-- Blocks of a lone member copied with their counts. -/
def State.copyBlocks (s : State) (r : CollRun) (f : Fmt) : List Nat → EngRes Unit
  | [] => .ok () s
  | off :: offs =>
    match s.srcBlock r.eng r.ten f (paOf r.pages (r.desc.src + off)) with
    | .held => .held
    | .denied s => .denied s
    | .ok p s =>
      match s.dstBlock r.eng r.ten f (paOf r.pages (r.desc.dst + off)) p with
      | .held => .held
      | .denied s => .denied s
      | .ok _ s => s.copyBlocks r f offs

/-- The bytes that a member brings to its own DST: a lone member's sum, its own chunk, the root's source. -/
def State.ownPart (s : State) (r : CollRun) : EngRes Unit :=
  let d := r.desc
  let copy (off n : Nat) : EngRes Unit :=
    s.engCopy r.eng r.ten (d.src + off) n (mappedRow r.pages (d.src + off) n) (mappedRow r.pages (d.dst + off) n)
  match d.op with
  | 0 => if d.n ≤ 1 then
      s.copyBlocks r (accFmt (d.bufFmt.getD false)) ((List.range (d.bytes / 256)).map (256 * ·)) else .ok () s
  | 1 => if d.n ≤ 1 then
      s.copyBlocks r (accFmt (d.bufFmt.getD false)) ((List.range (d.bytes / 256)).map (256 * ·)) else .ok () s
  | 2 => copy (d.rank * d.chunk) d.chunk
  | 3 => if d.rank = d.root then copy 0 d.bytes else .ok () s
  | _ => .ok () s

/-- A grant's fields against a descriptor (R292). -/
def grantAgrees (d : CollDesc) (op bytes nM1 fmt : Nat) : Bool :=
  op == d.op && nM1 + 1 == d.n && fmt == d.fmt && bytes == d.bytes

/-- Does a move wait for a grant: requested, or part-way with its credits used? -/
def SyMove.wants (m : SyMove) : Bool :=
  match m.state with
  | .requested => true
  | .sending done => m.credits == 0 && decide (done < m.bytes)
  | _ => false

/-- A move with more credits. -/
def SyMove.credit (m : SyMove) (c : Nat) : SyMove :=
  match m.state with
  | .sending done => { m with credits := m.credits + c, state := .sending done }
  | _ => { m with credits := c, state := .sending 0 }

/-- Credits of a grant given to a run: to the first move of that round to that device that waits for one, or to the
ring. -/
def CollRun.credit (r : CollRun) (peer c round : Nat) : CollRun :=
  if r.desc.op = 5 then
    match r.moves.zipIdx.find? (fun p => p.1.dstDev == peer && p.1.round == round && p.1.wants) with
    | some (m, k) => r.setMove k (m.credit c)
    | none => r
  else { r with credits := r.credits + c }

/-- A GRANT for a run (R292): one from a neighbour that does not agree with the descriptor faults it; credits count from the
neighbour that receives from it. -/
def State.takeGrant (s : State) (r : CollRun) (peer : Nat) (g : FabRec) : State :=
  match g with
  | .grant op c _ bytes nM1 fmt round =>
    if r.desc.op ≠ 5 ∧ r.neighbours.contains peer = false then s
    else if grantAgrees r.desc op bytes nM1 fmt = false then s.collStop r codeAccess peer
    else if r.desc.op ≠ 5 ∧ peer ≠ r.next then s
    else
      let r := r.credit peer c round
      (s.putRun r).pump r
  | _ => s

/-- The grants kept for a run are taken. -/
def State.takeKept (s : State) (r : CollRun) : State :=
  let mine (k : KeptGrant) : Bool := k.eng == r.eng && k.ten == r.ten && (match k.record with
    | .grant _ _ c _ _ _ _ => c == r.desc.collId
    | _ => false)
  let ks := s.fab.grants.filter mine
  let s := { s with fab := { s.fab with grants := s.fab.grants.filter fun k => !mine k } }
  ks.foldl (fun s k => match s.runAt r.eng r.ten r.slot with
    | some r => s.takeGrant r k.peer k.record
    | none => s) s

/-- The denial by the engine's table of the peer for which case 3 applies, recorded (R338). -/
def State.logPeer (s : State) (e t d : Nat) : State :=
  if s.peerReady d && !s.aclOk (56 + e) (masterTen t) d true then s.denied (56 + e) (masterTen t) d true else s

/-- A descriptor faults at its start: ABORT goes to the neighbours that are known and can be reached (R300). -/
def State.startFault (s : State) (r : CollRun) (code peer : Nat) : State :=
  let s := s.ceFault r.eng r.ten r.slot code peer r.desc.collId true
  (if r.members.isEmpty && r.desc.op != 4 then [] else r.neighbours).foldl
    (fun s d => if s.peerReady d then
      s.trySend r.ten r.eng d (.abort (BitVec.ofNat 8 code) (s.field fabBase 12 0) r.desc.collId) else s) s

/-- Does a start wait for the walks of its ranges, its member list or its schedule (R176, R187, R236)? -/
def State.startHeld (s : State) (e t : Nat) (d : CollDesc) (m : CollMaps) : Bool :=
  let held := s.engHeld e
  let list (a : Option (SMap Nat)) (va n : Nat) : Bool :=
    (a.map fun m => (mappedRow m va n).lineList.any fun l => held (64 * l)).getD false
  s.rangeHeld held t d.members (2 * d.n) false ||
  (d.op == 5 && s.rangeHeld held t d.sched (32 * d.schedCount) false) ||
  (d.op != 5 && s.rangeHeld held t d.src d.bytes false) ||
  (d.op != 5 && d.op != 4 && s.rangeHeld held t d.dst d.bytes true) ||
  list m.members d.members (2 * d.n) || (d.op == 5 && list m.sched d.sched (32 * d.schedCount))

/-- The reads of the member list and the schedule. -/
def State.touchLists (s : State) (d : CollDesc) (m : CollMaps) : State :=
  let go (s : State) (a : Option (SMap Nat)) (va n : Nat) : State := match a with
    | some m => s.rowTouch (mappedRow m va n)
    | none => s
  let s := go s m.members d.members (2 * d.n)
  if d.op = 5 then go s m.sched d.sched (32 * d.schedCount) else s

/-- A descriptor with what its start finds out, as it begins to run. -/
def State.newRun (s : State) (e t slot : Nat) (d : CollDesc) (m : CollMaps) : CollRun :=
  { eng := e, ten := t, slot := slot, desc := d,
    members := ((memberList s m.members d).map Prod.fst).getD [],
    pages := joinMaps (m.src.getD []) (m.dst.getD []), outbox := d.firstUnits,
    moves := if d.op = 5 then ((schedule s m.sched d).map Prod.fst).getD [] else [] }

/-- The ABORT kept for a descriptor, and the state without it. -/
def State.keptAbort (s : State) (e t collId : Nat) : Option (KeptGrant × State) :=
  let mine (k : KeptGrant) : Bool := k.eng == e && k.ten == t && (match k.record with
    | .abort _ _ c => c == collId
    | _ => false)
  (s.fab.aborts.find? mine).map fun k => (k, { s with fab := { s.fab with aborts := s.fab.aborts.filter fun x => !mine x } })

/-- A descriptor whose ABORT came before it started: it faults with the ABORT's code, which goes on around the ring (R300;
log entry 143). -/
def State.startAbort (s : State) (r : CollRun) (k : KeptGrant) : State :=
  match k.record with
  | .abort code dev _ =>
    let s := s.ceFault r.eng r.ten r.slot code.toNat k.peer r.desc.collId true
    ((if r.members.isEmpty && r.desc.op != 4 then [] else r.neighbours).filter fun d => d != k.peer && s.peerReady d).foldl
      (fun s d => s.trySend r.ten r.eng d (.abort code dev r.desc.collId)) s
  | _ => s

/-- The start of a descriptor whose wait is met: it is checked, and runs or faults (R299). -/
def State.collBegin (s : State) (e t slot : Nat) (d : CollDesc) (descBz : Bool) : State :=
  let (s1, m) := s.collMaps t d
  let r := s1.newRun e t slot d m
  if s.startHeld e t d m then s
  else
  let read := s1.touchLists d m
  match s1.collCase e t d descBz m with
  | some (n, code, peer) => (if n = 3 then read.logPeer e t peer else read).startFault r code peer
  | none =>
    match read.ownPart r with
    | .held => s
    | .denied s => s.startFault r codeAccess 0
    | .ok _ s =>
      let s := s.modCeq e t fun q => { q with cons := (slot + 1) % 64, waitSent := false, waitMet := false }
      let s := { s with fab := { s.fab with runs := s.fab.runs ++ [r] } }
      let s := s.takeKept r
      match s.runAt e t slot with
      | some r => s.pump r
      | none => s

/-- The cancel of a queue's outstanding wait. -/
def State.ceCancel (s : State) (e t : Nat) : State :=
  let q := s.ceq e t
  if q.waitSent && !q.waitMet then
    s.sendSync { src := .waiter (.coll e t q.cons), ten := t, op := 3, obj := q.waitObj, x := 0, cancel := true }
  else s

/-- COLLECTIVE_START: the next descriptor of a queue sends its wait where it has one in the tenancy's ranges, and
starts once that is met; at most eight of a tenancy run (R290). One that an ABORT reached before faults (R300). -/
def execCollectiveStart (e t : Nat) (s : State) : Out :=
  let q := s.ceq e t
  let slot := q.cons
  if 4 ≤ e ∨ 4 ≤ t ∨ bit 39 (s.reg (ceReg e t 0)) = false ∨ slot = s.ceProd e t ∨ q.faulted = true ∨
      8 ≤ (s.fab.runs.filter fun r => r.eng == e && r.ten == t).length ∨ s.engHeld e (s.cePa e t slot) = true then .next s
  else
    let pa := s.cePa e t slot
    let d := readColl (s.memNat pa 128)
    let bz := s.memMark pa 128
    let s := s.touch pa 128
    match if bz then none else s.keptAbort e t d.collId with
    | some (k, u) =>
      let (u, m) := u.collMaps t d
      .next (if s.startHeld e t d m then s else ((u.touchLists d m).ceCancel e t).startAbort (u.newRun e t slot d m) k)
    | none =>
    if !bz && d.waitEn && s.inRange t d.waitObj && !q.waitMet then
      if q.waitSent then .next s
      else .next ((s.modCeq e t fun q => { q with waitSent := true, waitObj := d.waitObj }).sendSync
        { src := .waiter (.coll e t slot), ten := t, op := 3, obj := d.waitObj, x := d.waitValue })
    else .next (s.collBegin e t slot d bz)

/-! ### Records that a port denied (R338) -/

/-- What a record belongs to learns that a port denied it: a stream stops, a collective faults, a context closes (Table
13.7). -/
def State.shutRec (s : State) (x : ExpressRec) : State :=
  let t := x.ten.getD 0
  let stop (c : Nat) : State := match s.runOf x.engine t c with
    | some r => s.collStop r codeAccess x.peer
    | none => s
  match x.src, x.record with
  | some i, _ => s.externalFault t i codeAccess 0
  | none, .grant 4 _ c _ _ _ _ =>
    match s.fab.puts.find? fun p => p.eng == x.engine && p.ten == t && p.peer == x.peer && p.collId == c with
    | some p => s.dropPut p
    | none => s
  | none, .grant _ _ c _ _ _ _ => stop c
  | none, .request c _ _ _ => stop c
  | none, .putOpen _ c _ _ _ _ => stop c
  | none, _ => s

/-- The express records that wait leave, and those that a port denies are answered. -/
def State.sendWaiting (s : State) (beats : Bool := true) : State :=
  let s := s.drainExpress beats
  s.fab.shut.foldl State.shutRec { s with fab := { s.fab with shut := [] } }

/-! ### The end of a descriptor (R290, R298) -/

/-- Has a run's work at this device ended, every record acknowledged and every notice of its engine (R349)? -/
def State.runDone (s : State) (r : CollRun) : Bool :=
  r.outbox.isEmpty && r.arrivals == r.desc.expected && !s.collUnacked r.ten r.next r.desc.collId &&
  r.moves.all (fun m => m.state == .acked) && (r.desc.op != 5 || r.received == r.desc.recvCount) &&
  (SMap.get? s.fab.notices r.eng).isNone

/-- A run ends with its signal. -/
def State.collEnd (s : State) (r : CollRun) : State :=
  let s := s.dropRun r
  if r.desc.sigEn then s.signal r.ten 3 r.eng r.desc.sigObj 1 else s

/-- COLLECTIVE_COMPLETE: a run whose work is done signals. -/
def execCollectiveComplete (e t slot : Nat) (s : State) : Out :=
  match s.runAt e t slot with
  | none => .next s
  | some r =>
    let s := s.pump r
    match s.runAt e t slot with
    | none => .next s
    | some r => .next (if r.desc.op ≠ 5 ∧ s.runDone r = true then s.collEnd r else s)

/-- SORT_YARD_MEMBER_COMPLETE: a complete member advances the version of every shard it sent from or received into,
once each, then signals (R298). While an entry of the shard map is held at its stack, it waits. -/
def execSortYardMemberComplete (e t slot : Nat) (s : State) : Out :=
  match s.runAt e t slot with
  | none => .next s
  | some r =>
    let s := s.pump r
    match s.runAt e t slot with
    | none => .next s
    | some r =>
      let js := r.moves.foldl (fun m v => NSet.add m v.srcShard) r.shards
      if r.desc.op = 5 ∧ s.runDone r = true ∧ (js.any fun p => s.entryAway e p.1) = false then
        .next ((js.foldl (fun s p => s.advanceVersion (s.shard p.1)) s).collEnd r)
      else .next s

/-! ### Queue control (R300) -/

/-- CE_QPROD_WRITE. -/
def execCeQprodWrite (e t : Nat) (value : Word) (s : State) : Out :=
  if e < 4 ∧ t < 4 then .next (s.writeReg (ceReg e t 1) value.toNat) else .next s

/-- CE_QUEUE_SKIP: the faulted descriptor is discarded. -/
def execCeQueueSkip (e t : Nat) (s : State) : Out :=
  let q := s.ceq e t
  if q.faulted then
    .next (s.modCeq e t fun q => { cons := if q.atStart then (q.cons + 1) % 64 else q.cons })
  else .next s

/-- CE_QUEUE_CLEAR: every descriptor that has not started is discarded. -/
def execCeQueueClear (e t : Nat) (s : State) : Out :=
  if e < 4 ∧ t < 4 then
    let s := s.ceCancel e t
    .next (State.modCeq { s with fab := { s.fab with aborts := s.fab.aborts.filter fun k => !(k.eng == e && k.ten == t) } }
      e t fun _ => { cons := s.ceProd e t })
  else .next s

end Sys2Proof.Machine
end

