-- ==== Sys2Proof/Machine/Risk.lean ====
section
/-! DEFINITION. What pins Lookout's risk estimate, the estimate that the device shows, and its peak (R354, R365). -/

namespace Sys2Proof.Machine

/-- The stack of a journal copy: STACK_A, or STACK_B (Table 12.12). -/
def State.jrnStack (s : State) (copyB : Bool) : Nat :=
  let w := s.reg (hostBase + 0x18)
  if copyB then bits 5 3 w else bits 2 0 w

/-- The state of a journal copy: 0 OK, 1 FAILED, 2 RESYNC. -/
def State.jrnState (s : State) (copyB : Bool) : Nat := (s.stack (s.jrnStack copyB)).jrn

/-- Is a stack FAILED? -/
def State.someStackFailed (s : State) : Bool := (List.range 8).any fun i => (s.stack i).state == stFailed

/-- Does a condition of R354 hold the risk estimate at 65,535? -/
def State.pinned (s : State) : Bool :=
  s.someStackFailed || s.jrnState false == 1 || s.jrnState true == 1 || !s.noc.halted.isEmpty

/-- Lookout's risk estimate (R354). -/
def State.risk (s : State) : Nat := if s.pinned then 65535 else s.field lookBase 15 0

/-- The largest estimate since PEAK was last written: the stored one, or the present one (R365). -/
def State.peak (s : State) : Nat := max (s.field lookBase 47 32) s.risk

/-- PEAK takes the present estimate in, before what pins it may end. -/
def State.latchPeak (s : State) : State := s.setField lookBase 47 32 s.peak

end Sys2Proof.Machine
end

