-- ==== Sys2Proof/Machine/Fabric.lean ====
section
/-! DEFINITION. The fabric ports: frames received and their records, acknowledgement and resending, links, the loss of
peers, and `sy.rmt` (R268, R269, R274–R289). -/

namespace Sys2Proof.Machine

/-! ### The loss of a peer (R288, R289) -/

/-- Is a device a neighbour, the put's peer, or a Sort-yard source or destination of a run (R289)? -/
def State.concerns (s : State) (r : CollRun) (d : Nat) : Bool :=
  r.neighbours.contains d || r.moves.any (fun m => m.dstDev == d) ||
  s.fab.recvs.any (fun x => x.eng == r.eng && x.ten == r.ten && x.collId == r.desc.collId && x.peer == d)

/-- The streams of unacknowledged remote operations to a peer, each with its tenancy. -/
def State.rmtStreams (s : State) (d : Nat) : List (Nat × At) :=
  (s.fab.paths.filter fun q => q.1 / 4 == d).flatMap fun q =>
    q.2.unacked.flatMap fun f => match f.ten with
      | some t => f.srcs.map (Prod.mk t)
      | none => []

/-- The same of those that have still to leave. -/
def State.rmtWaiting (s : State) (d : Nat) : List (Nat × At) :=
  (s.fab.express.filter fun x => x.peer == d).filterMap fun x => match x.ten, x.src with
    | some t, some i => some (t, i)
    | _, _ => none

/-- A peer is declared lost (R288, R289): cause 1 silence, 2 retries, 3 link down. -/
def State.declareLost (s : State) (d cause : Nat) : State :=
  if (s.peer d).lost ≠ 0 then s
  else
    let code := lossCode cause
    let ops := (s.rmtStreams d ++ s.rmtWaiting d).eraseDups
    let s := s.modPeer d fun p => { p with lost := cause }
    let s := { s with fab := { s.fab with
      paths := s.fab.paths.map fun (q : Nat × FabPath) => if q.1 / 4 = d then (q.1, { q.2 with unacked := [] }) else q
      express := s.fab.express.filter fun x => x.peer != d
      puts := s.fab.puts.filter fun p => p.peer != d } }
    let s := ops.foldl (fun s p => s.externalFault p.1 p.2 code 0) s
    let s := (s.fab.runs.filter fun r => s.concerns r d).foldl
      (fun (s : State) r => s.collFault r code d (s.field fabBase 12 0) (some d)) s
    let s := ((s.setField (fabBase + 0x40) 12 0 d).setField (fabBase + 0x40) 14 13 cause).count (fabBase + 0x40) 31 16 1
    let s := s.lookout 8 1
    (List.range 4).foldl (fun s t =>
      if (s.jobTag t).isSome then s.sendFault ⟨6, code, t, 0, d, 0, false, 0, 0, 0⟩ else s) s

/-- A route fails (R281); where no usable route remains, the peer is lost (R288). -/
def State.failRoute (s : State) (d r cause : Nat) : State :=
  let s := (s.modPeer d fun p => if r = 0 then { p with failed0 := true } else { p with failed1 := true }).lookout 8 1
  if s.routeUsable d 0 || s.routeUsable d 1 then s.pumpAll else s.declareLost d cause

/-! ### Frames received (R278, R279, R281) -/

/-- The route by which an arriving frame comes: an enabled one of its sender's entry that names the port. -/
def State.routeBy (s : State) (peer port : Nat) : Option Nat :=
  let e := s.peerEntry peer
  if !e.valid || decide ((s.peer peer).lost ≠ 0) then none
  else if e.en 0 && e.port 0 == port then some 0
  else if e.en 1 && e.port 1 == port then some 1
  else none

/-- Is a frame acknowledged by a cumulative acknowledgement? -/
def acked (ack seq : Nat) : Bool := decide ((ack + 2 ^ 32 - seq) % 2 ^ 32 < 2 ^ 31)

/-- An acknowledgement taken on the path that it names; what waited for it goes on. -/
def State.takeAck (s : State) (peer route : Nat) (bulk : Bool) (ack : Nat) : State :=
  let k := pathKey peer route bulk
  let p := s.path k
  let left := p.unacked.filter fun f => !acked ack f.seq
  if left.length = p.unacked.length then s
  else (s.modPath k fun p => { p with unacked := left, resends := 0 }).pumpAll

/-- Is a GRANT one that comes before its descriptor has started? -/
def State.earlyGrant (s : State) (eng ten : Nat) : FabRec → Bool
  | .grant _ _ c _ _ _ _ => (s.runOf eng ten c).isNone
  | _ => false

/-- Would a frame bring an engine more than 64 grants that it must keep (R292)? -/
def State.grantsFull (s : State) (fr : FabFrame) : Bool :=
  match s.jobTenancy fr.job with
  | none => false
  | some t =>
    let new := (fr.recs.filter (s.earlyGrant fr.engine t)).length
    let old := (s.fab.grants.filter fun g => g.eng == fr.engine).length +
      (s.fab.rx.filter fun x => x.engine == fr.engine && s.earlyGrant x.engine x.ten x.record).length
    decide (0 < new) && decide (64 < old + new)

/-- One record of an accepted frame: kept for the engine it names, or discarded and counted (R279, Table 13.7). -/
def State.takeRecord (s : State) (peer route port : Nat) (fr : FabFrame) (r : FabRec) : State :=
  match s.jobTenancy fr.job with
  | none => s.count (fabBase + 0x48) 47 32 1
  | some t =>
    if s.aclOk (60 + port) (masterPeer t) peer false then
      { s with fab := { s.fab with rx := s.fab.rx ++
        [(⟨peer, route, fr.bulk, fr.engine % 4, t, fr.seq, r, port⟩ : RxRec)] } }
    else (s.denied (60 + port) (masterPeer t) peer false).count (fabBase + 0x48) 47 32 1

/-- The register that holds the status of a port: RETRAINS, FEC_CORR and FEC_UNCORR (Tables 11.12, 12.18). -/
def portStatusReg (port : Nat) : Nat :=
  if port < 12 then fabBase + 0x180 + 8 * port else hostBase + 0x110 + 8 * (port - 12)

/-- Codewords that a port's FEC corrected and could not correct while something came (R301, R323, R353). -/
def State.countFec (s : State) (port corr uncorr : Nat) : State :=
  ((s.count (portStatusReg port) 47 16 corr).count (portStatusReg port) 63 48 uncorr).lookout 4 uncorr

/-- A frame taken from a port (R279, R281). An acknowledgement-only frame takes no place in its path. -/
def State.takeFrame (s : State) (port me : Nat) (fr : FabFrame) : State :=
  if fr.etherType ≠ s.field (fabBase + 8) 15 0 ∨ fr.ver ≠ 1 then s
  else if fr.dstDev ≠ me then s.count (fabBase + 0x48) 15 0 1
  else match s.routeBy fr.srcDev port with
    | none => s.count (fabBase + 0x48) 31 16 1
    | some route =>
      let peer := fr.srcDev
      let k := pathKey peer route fr.bulk
      let s := s.takeAck peer route fr.ackBulk fr.ack
      let p := s.path k
      if fr.recs.isEmpty then s
      else if fr.seq = p.expect then
        if s.grantsFull fr then s
        else fr.recs.foldl (fun s r => s.takeRecord peer route port fr r)
          (s.modPath k fun p => { p with expect := (p.expect + 1) % 2 ^ 32, ackDue := true })
      else if acked p.expect fr.seq then
        (s.modPath k fun p => { p with ackDue := true }).count (fabBase + 0x48) 63 48 1
      else s

/-- FABRIC_FRAME_RECEIVE: bytes arrive at a port in codewords of its FEC. What an uncorrectable codeword carried, and
what is no fabric frame, is dropped (log entry 31). -/
def execFabricFrameReceive (port : Nat) (frame : Wired) (s : State) : Out :=
  if 12 ≤ port ∨ (s.port port).up = false then .next s
  else
    let s := s.countFec port frame.fecCorr frame.fecUncorr
    match s.devNum, readFrame frame.bytes with
    | some me, some fr => .next (if frame.fecUncorr = 0 then s.takeFrame port me fr else s)
    | _, _ => .next s

/-- An acknowledgement-only express frame, where the path's acknowledgement is due and can leave; it bears the number
that the path's next frame will have (log entry 31). -/
def State.ackOnly (s : State) (peer route : Nat) (bulk : Bool) : State :=
  if ((s.path (pathKey peer route bulk)).ackDue || s.fab.refusals.any fun x => x.1 == peer) && s.maySend peer && s.routeUsable peer route then
    s.sendFrame peer route false 0 0 (s.path (pathKey peer route false)).next []
  else s

/-- FABRIC_ACK_TIMER: the express records that wait leave and take acknowledgements with them; one that is still due
leaves alone, behind that of the other class and ahead of HEARTBEATs (R281, R283). -/
def execFabricAckTimer (peer route : Nat) (bulk : Bool) (s : State) : Out :=
  if 2 ≤ route then .next s
  else .next (((s.sendWaiting false).ackOnly peer route bulk).ackOnly peer route bulk).sendWaiting

/-- RETRY_LIMIT; 0 is read as 1. -/
def State.retryLimit (s : State) : Nat := max 1 (s.field (fabBase + 0x18) 35 32)

/-- RTO_EXPIRY: the oldest frame and every later one of a path are resent, or its route fails (R281). A device that takes no
part in the fabric does neither (R277). -/
def execRtoExpiry (peer route : Nat) (bulk : Bool) (s : State) : Out :=
  let k := pathKey peer route bulk
  let p := s.path k
  if 2 ≤ route ∨ s.devNum.isNone = true ∨ p.unacked = [] ∨ (s.peer peer).lost ≠ 0 ∨ (s.peer peer).failed route = true then .next s
  else if p.resends < s.retryLimit then
    let s := s.modPath k fun p => { p with resends := p.resends + 1 }
    .next (if s.routeUsable peer route then p.unacked.foldl (fun s f => s.resendFrame peer route bulk f) s else s)
  else .next (s.failRoute peer route 2)

/-! ### Records (R268, R288, R292–R300) -/

/-- The record at place `n` and the state without it, where no earlier record of its path waits. -/
def State.takeRx (s : State) (n : Nat) : Option (RxRec × State) :=
  match s.fab.rx[n]? with
  | none => none
  | some x =>
    if (s.fab.rx.take n).any (fun y => y.peer == x.peer && y.route == x.route && y.bulk == x.bulk) then none
    else some (x, { s with fab := { s.fab with rx := s.fab.rx.eraseIdx n } })

/-- SYNC_RECORD: the operation is sent to its bank under the peer's name (R268). -/
def execSyncRecord (n : Nat) (s : State) : Out :=
  match s.takeRx n with
  | some (x, t) =>
    match x.record with
    | .sync rop obj bz v =>
      .next (if [1, 2, 4, 6, 8].contains rop then
        t.sendSync { src := .peer x.peer x.seq x.port, ten := x.ten, op := rop, obj := obj % 2 ^ 18, x := v, bz := bz } else t)
    | _ => .next s
  | none => .next s

/-- GRANT_RECORD: credits for a started descriptor, or a grant kept for one that has not (R292). -/
def execGrantRecord (n : Nat) (s : State) : Out :=
  match s.takeRx n with
  | some (x, t) =>
    match x.record with
    | .grant _ _ c _ _ _ _ =>
      match t.runOf x.engine x.ten c with
      | some r => .next (t.takeGrant r x.peer x.record)
      | none => .next { t with fab := { t.fab with grants := t.fab.grants ++
          [(⟨x.engine, x.ten, x.peer, x.record⟩ : KeptGrant)] } }
    | _ => .next s
  | none => .next s

/-- Does a descriptor of a COLL_ID stand in a queue and wait for its start? -/
def State.waitsToStart (s : State) (e t collId : Nat) : Bool :=
  let q := s.ceq e t
  bit 39 (s.reg (ceReg e t 0)) && (List.range ((s.ceProd e t + 64 - q.cons) % 64)).any fun k =>
    !(k == 0 && q.faulted && q.atStart) && (readColl (s.memNat (s.cePa e t ((q.cons + k) % 64)) 128)).collId == collId

/-- ABORT_RECORD: the descriptor of the COLL_ID faults with the code, and the ABORT goes on around the ring; a put's
receiving context closes (R300). One for a descriptor that waits for its start is kept until then; a code that Table 0.5
does not list makes the record void (DESIGN CHOICE, log entry 143). -/
def execAbortRecord (n : Nat) (s : State) : Out :=
  match s.takeRx n with
  | some (x, u) =>
    match x.record with
    | .abort code dev c =>
      let t := { u with fab := { u.fab with puts := u.fab.puts.filter fun p =>
        !(p.eng == x.engine && p.ten == x.ten && p.peer == x.peer && p.collId == c) } }
      if !faultCodes.contains code.toNat then .next u
      else match t.runOf x.engine x.ten c with
      | some r => .next (t.collFault r code.toNat x.peer dev (some x.peer))
      | none => .next (if t.waitsToStart x.engine x.ten c then
          { t with fab := { t.fab with aborts := t.fab.aborts ++ [(⟨x.engine, x.ten, x.peer, x.record⟩ : KeptGrant)] } } else t)
    | _ => .next s
  | none => .next s

/-- HEARTBEAT_RECORD: the peer's risk estimate is kept as Lookout's input (R288, R354). -/
def execHeartbeatRecord (n : Nat) (s : State) : Out :=
  match s.takeRx n with
  | some (x, t) =>
    match x.record with
    | .heartbeat _ risk => .next { t with fab := { t.fab with risks := t.fab.risks ++ [(risk, 0)] } }
    | _ => .next s
  | none => .next s

/-- REQUEST_RECORD: a Sort-yard REQUEST, granted as soon as R297 allows. -/
def execRequestRecord (n : Nat) (s : State) : Out :=
  match s.takeRx n with
  | some (x, t) =>
    match x.record with
    | .request c round shard b16 =>
      let t := { t with fab := { t.fab with recvs := t.fab.recvs ++
        [({ eng := x.engine, ten := x.ten, peer := x.peer, collId := c, round := round, shard := shard,
            bytes := 16 * b16 } : SyRecv)] } }
      match t.runOf x.engine x.ten c with
      | some r => .next (t.pump r)
      | none => .next t
    | _ => .next s
  | none => .next s

/-- ABORT with ACCESS in answer to a put's sender (R295). -/
def State.refusePut (s : State) (t e peer collId : Nat) : State :=
  s.sendOrWait t e peer (.abort (BitVec.ofNat 8 codeAccess) (s.field fabBase 12 0) collId)

/-- PUT_OPEN_RECORD: a receiving context opens, or the peer answers ACCESS (R292, R295). While the engine's 16
contexts are in use, or a page-table entry is held at its stack, the record waits. -/
def execPutOpenRecord (n : Nat) (s : State) : Out :=
  match s.takeRx n with
  | some (x, t) =>
    match x.record with
    | .putOpen digest c va bytes obj en =>
      if 16 ≤ (t.fab.puts.filter fun p => p.eng == x.engine).length then .next s
      else if !t.aclOk (56 + x.engine) (masterPeer x.ten) x.peer false then
        .next ((t.denied (56 + x.engine) (masterPeer x.ten) x.peer false).refusePut x.ten x.engine x.peer c)
      else
        let (w, m) := t.mapRange x.ten va (putExtent bytes digest) true
        if t.rangeHeld (t.engHeld x.engine) x.ten va (putExtent bytes digest) true then .next s
        else let t := w
        match m with
        | none => .next (t.refusePut x.ten x.engine x.peer c)
        | some pages =>
          let p : PutCtx := { eng := x.engine, ten := x.ten, peer := x.peer, collId := c, va := va, bytes := bytes,
                              digest := digest, obj := obj, objEn := en, pages := pages }
          .next (State.grantPut { t with fab := { t.fab with puts := t.fab.puts ++ [p] } } p)
    | _ => .next s
  | none => .next s

/-! ### DATA (R293–R297) -/

/-- What a DATA record does: it is performed, its write is held at a stack, or it is denied there. -/
inductive DataRes where
  | done (s : State)
  | held
  | denied (s : State)

/-- An arrived unit counted; what the run has to pass on is queued, and it goes on. -/
def State.unitArrived (s : State) (r : CollRun) (off : Nat) (pass : List CollUnit) : State :=
  let r := { r with
    arrived := SMap.put r.arrived off (SMap.get 0 r.arrived off + 1)
    arrivals := r.arrivals + 1
    granted := r.granted - 1
    outbox := r.outbox ++ pass }
  (s.putRun r).pump r

/-- A block of a reduction arrives (R293): a partial sum is added to this member's block, and goes on or is final
here; a final sum is written, and goes on to the members that lack it. -/
def State.reduceBlock (s : State) (r : CollRun) (f : Fmt) (k off : Nat) (bz : Bool) (bs : List Byte) : DataRes :=
  let d := r.desc
  let q := off / d.chunk
  let pa (a : Nat) : Nat := paOf r.pages (a + off)
  let part := partialOf f k bz bs
  let write (s : State) (p : Option Partial) (pass : Bool) : DataRes :=
    match s.dstBlock r.eng r.ten f (pa d.dst) p with
    | .held => .held
    | .denied s => .denied s
    | .ok _ s =>
      let (b, k, bs) := partRecord f p
      .done (s.unitArrived r off (if pass then [.pass off k b bs] else []))
  if SMap.get 0 r.arrived off = 0 ∧ (q + 1) % d.n ≠ d.rank then
    match s.srcBlock r.eng r.ten f (pa d.src) with
    | .held => .held
    | .denied s => .denied s
    | .ok own s =>
      let sum := joinParts f part own
      if q = d.rank then write s sum (d.op == 0)
      else
        let (b, k, bs) := partRecord f sum
        .done (s.unitArrived r off [.pass off k b bs])
  else write s part (decide ((d.rank + 1) % d.n ≠ q))

/-- Bytes of a gather or a broadcast arrive: written with their mark, and passed on to a member that lacks them. -/
def State.copyUnit (s : State) (r : CollRun) (off : Nat) (bz : Bool) (bs : List Byte) : DataRes :=
  let d := r.desc
  let q := if d.op = 2 then off / d.chunk else d.root
  let stop := if d.op = 2 then (q + 1) * d.chunk else d.bytes
  let n := min 256 (stop - off)
  match s.engWrite r.eng r.ten (bs.take n) (fun _ _ => bz) (mappedRow r.pages (d.dst + off) n) with
  | .held => .held
  | .denied s => .denied s
  | .ok _ s => .done (s.unitArrived r off (if (d.rank + 1) % d.n ≠ q then [.pass off 0 bz (bs.take n)] else []))

/-- A DATA record of a ring, from the left neighbour. -/
def State.ringData (s : State) (r : CollRun) (k off : Nat) (bz : Bool) (bs : List Byte) : DataRes :=
  let d := r.desc
  if d.bytes ≤ off then .done s
  else if d.op ≤ 1 then s.reduceBlock r (accFmt (d.bufFmt.getD false)) k off bz bs
  else s.copyUnit r off bz bs

/-- A DATA record of a put (R295): data, or digests after it; when all is written PEER_SIG is signalled. -/
def State.putData (s : State) (p : PutCtx) (off : Nat) (bz : Bool) (bs : List Byte) : DataRes :=
  let n := if off < p.bytes then min 256 (p.bytes - off) else min 256 (putExtent p.bytes p.digest - off)
  if putExtent p.bytes p.digest ≤ off then .done s
  else match s.engWrite p.eng p.ten (bs.take n) (fun _ _ => bz) (mappedRow p.pages (p.va + off) n) with
    | .held => .held
    | .denied s => .denied s
    | .ok _ s =>
      let p := { p with got := NSet.add p.got off, granted := p.granted - 1 }
      if p.got.length = putRecords p.bytes p.digest then
        let s := s.dropPut p
        .done (if p.objEn then s.signal p.ten 3 p.eng p.obj 1 else s)
      else .done ((s.putPut p).grantPut p)

/-- A DATA record of a Sort-yard move (R296–R298); the record marked LAST is the short one. -/
def State.moveIn (s : State) (r : CollRun) (x : SyRecv) (off : Nat) (bz last : Bool) (bs : List Byte) : DataRes :=
  let n := if last then (x.bytes - 1) % 256 + 1 else 256
  let t := s.touchEntry x.shard
  if s.entryAway x.eng x.shard then .held
  else if !s.shardRange x.ten x.shard off n then .denied t
  else match t.engWrite x.eng x.ten (bs.take n) (fun _ _ => bz) (s.shardRow x.shard off n) with
    | .held => .held
    | .denied s => .denied s
    | .ok _ s =>
      let y := { x with left := x.left - n, granted := x.granted - 1 }
      let rest := s.fab.recvs.map fun z => if z = x then y else z
      if y.left = 0 then
        let r := { r with received := r.received + 1, shards := NSet.add r.shards x.shard }
        .done ((State.putRun { s with fab := { s.fab with recvs := rest.filter fun z => z ≠ y } } r).pump r)
      else
        let s := { s with fab := { s.fab with recvs := rest } }
        .done (if y.granted = 0 then s.pump r else s)

/-- A DATA record given to what it belongs to; one that belongs to nothing is discarded. A denial faults a
descriptor, or is answered to a put's sender. -/
def State.takeData (s : State) (x : RxRec) (bz last : Bool) (k c off : Nat) (bs : List Byte) : DataRes :=
  match s.fab.puts.find? (fun p => p.eng == x.engine && p.ten == x.ten && p.peer == x.peer && p.collId == c) with
  | some p =>
    match s.putData p off bz bs with
    | .denied s => .done ((s.dropPut p).refusePut p.ten p.eng p.peer c)
    | v => v
  | none =>
    match s.runOf x.engine x.ten c with
    | none => .done s
    | some r =>
      let v :=
        if r.desc.op = 5 then
          match s.fab.recvs.find? (fun y => y.open_ && y.eng == x.engine && y.ten == x.ten && y.peer == x.peer &&
              y.collId == c) with
          | some y => s.moveIn r y off bz last bs
          | none => .done s
        else if x.peer = r.prev ∧ r.desc.op ≠ 4 then s.ringData r k off bz bs
        else .done s
      match v with
      | .denied s => .done (s.collStop r codeAccess x.peer)
      | v => v

/-- DATA_RECORD: a record whose write is held at a stack waits. -/
def execDataRecord (n : Nat) (s : State) : Out :=
  match s.takeRx n with
  | some (x, t) =>
    match x.record with
    | .data bz last k c off bs =>
      match t.takeData x bz last k c off (pad256 bs) with
      | .done t => .next t
      | .denied t => .next t
      | .held => .next s
    | _ => .next s
  | none => .next s

/-! ### Heartbeats and silence (R288) -/

/-- The peers that get heartbeats: the 64 lowest that set HB_EN (R280). -/
def State.hbPeers (s : State) : List Nat :=
  ((List.range 8192).filter fun d => let e := s.peerEntry d; e.valid && e.hb).take 64

/-- HB_MISS; 0 is read as 1. -/
def State.hbMiss (s : State) : Nat := max 1 (s.field (fabBase + 0x18) 15 8)

/-- The job tag of the device's own heartbeats: the lowest valid one, or 0 (log entry 33). -/
def State.hbJob (s : State) : Nat := ((List.range 4).findSome? s.jobTag).getD 0

/-- HEARTBEAT_PERIOD: a HEARTBEAT goes to each such peer on route 0; the risks that came are a period older. -/
def execHeartbeatPeriod (s : State) : Out :=
  let s := { s with fab := { s.fab with risks :=
    (s.fab.risks.map fun (p : Nat × Nat) => (p.1, p.2 + 1)).filter fun p => decide (p.2 < s.hbMiss) } }
  match s.devNum with
  | none => .next s
  | some me =>
    .next (s.hbPeers.foldl (fun s d =>
      if (s.peer d).lost = 0 ∧ s.routeUsable d 0 = true then
        s.queueExpress ⟨d, 0, 0, s.hbJob, none, none, .heartbeat me s.risk⟩ else s) s)

/-- PEER_SILENCE_EXPIRY: no frame came for HB_MISS periods while a route was usable. -/
def execPeerSilenceExpiry (peer : Nat) (s : State) : Out :=
  if s.devNum.isSome ∧ s.hbPeers.contains peer = true ∧ s.peerReady peer = true then .next (s.declareLost peer 1)
  else .next s

/-! ### Links (R275, R284, R288) -/

/-- Routes of valid entries that use a port and have not failed, as peers with route numbers. -/
def State.routesOf (s : State) (port : Nat) : List (Nat × Nat) :=
  (List.range 8192).flatMap fun d =>
    if (s.peer d).lost ≠ 0 then []
    else (List.range 2).filterMap fun r => if s.routeLeft d r && (s.peerEntry d).port r == port then some (d, r) else none

/-- PORT_DOWN_EXPIRY: a fabric port has been down for 10 µs. -/
def execPortDownExpiry (port : Nat) (s : State) : Out :=
  if 12 ≤ port ∨ (s.port port).up = true ∨ s.devNum.isNone = true then .next s
  else .next ((s.routesOf port).foldl (fun (s : State) (p : Nat × Nat) => if (s.peer p.1).lost = 0 then s.failRoute p.1 p.2 3 else s) s)

/-- PCS_LOCK_LOSS: the port clears UP, counts a retrain and retrains (R275). -/
def execPcsLockLoss (port : Nat) (s : State) : Out :=
  if port < 14 ∧ (s.port port).up = true then
    .next (((s.modPort port fun _ => {}).count (portStatusReg port) 11 4 1).lookout 4 1)
  else .next s

/-- May a port come up at a rate: in use, and at 400 Gb/s only with FALLBACK_EN (R275)? In HALTED none comes up
(Table 16.6). -/
def State.portMay (s : State) (port : Nat) (rate400 : Bool) : Bool :=
  if s.boot.result = 4 then false
  else if port < 12 then
    let c := s.reg (fabBase + 0x100 + 8 * port)
    (bits 1 0 c == 1 || bits 1 0 c == 2) && (!rate400 || bit 3 c)
  else
    let c := s.reg (hostBase + 0x100 + 8 * (port - 12))
    bit 0 c && (!rate400 || bit 2 c)

/-- The value of PORT_CTRL that a write of `v` leaves: MODE 3 is read as 0. -/
def portCtrlValue (v : Nat) : Nat := if bits 1 0 v = 3 then v - 3 else v

/-- A PORT_CTRL write, which starts the retrain at which it takes effect (R275, R323). -/
def State.writePortCtrl (s : State) (port v : Nat) : State :=
  if port < 12 then
    (((s.writeReg (fabBase + 0x100 + 8 * port) (portCtrlValue v)).modPort port fun _ => {}).count
      (portStatusReg port) 11 4 1).lookout 4 1
  else if port < 14 then
    (((s.writeReg (hostBase + 0x100 + 8 * (port - 12)) v).modPort port fun _ => {}).count
      (portStatusReg port) 11 4 1).lookout 4 1
  else s

/-- PORT_CTRL_WRITE. -/
def execPortCtrlWrite (port : Nat) (value : Word) (s : State) : Out := .next (s.writePortCtrl port value.toNat)

/-- A write of PEER_REVIVE: with GO it clears the peer's loss and route failures, and restarts its paths at sequence
number 0 (R289). -/
def State.writeRevive (s : State) (v : Nat) : State :=
  let s := s.writeReg (fabBase + 0x50) v
  let d := bits 12 0 v
  if bit 63 v then
    let drop (q : Nat × FabPath) : Bool := q.1 / 4 != d
    State.pumpAll { s with fab := { s.fab with
      peers := SMap.del s.fab.peers d, paths := s.fab.paths.filter drop } }
  else s

/-- PEER_REVIVE_GO. -/
def execPeerReviveGo (value : Word) (s : State) : Out := .next (s.writeRevive value.toNat)

/-! ### `sy.rmt` (R268, R269) -/

/-- `sy.rmt`: the operation goes to the peer in the express class. A LOST peer stops the stream with the loss code; a
peer without a valid entry, or a tenancy that may not send, with ACCESS (Table 13.7, log entry 34). It waits under SYNC
for the control plane (R236, R241), where a payload error marks it. -/
def execSyRmt (i : At) (o : SyOp) (s : State) : Out :=
  issue i s fun s =>
    let t := s.stream i
    let ov := t.sreg o.sObj
    let v := t.sreg o.sVal
    let peer := bits 47 32 ov.val.toNat
    let ten := s.tenOf i.core
    if ! [1, 2, 4, 6, 8].contains o.rop.toNat then .illegal
    else if ov.bz || v.bz then .fault codeBlazeBite 0
    else if o.rel && s.fenceBusy i then .stall s .sync
    else if (s.peer peer).lost ≠ 0 then .fault (lossCode (s.peer peer).lost) 0
    else if 8192 ≤ peer ∨ s.devNum.isNone = true ∨ (s.jobTag ten).isNone = true ∨ (s.peerEntry peer).valid = false then
      .fault codeAccess 0
    else if s.planeFull i.core || s.cut (s.msgEntry (.rmt i.core)) then .stall s .sync
    else match s.sendExpress ten 0 peer (some i)
        (.sync o.rop.toNat (bits 17 0 ov.val.toNat) (s.core i.core).rmtBz (v.val + sext o.imm)) with
      | .ok s => .done ((s.modCore i.core fun k => { k with rmtBz := false }).sentRemote i)
      | .denied s => .faultAfter s codeAccess 0
      | .noRoute => .stall s .sync

end Sys2Proof.Machine
end

