-- ==== Sys2Proof/Machine/Stack.lean ====
section
/-! DEFINITION. The stacks' own events: link replay and retraining, refresh, the Scarf table, Cruise passes, accumulate
windows and clears (R175–R178, R185–R195, R200, R202). -/

namespace Sys2Proof.Machine

/-! ### The link (R175–R177) -/

/-- MEM.LINK_STATUS of a stack. -/
def linkStatus (st : Nat) : Nat := memBase st + 0x30

/-- A retrain of a stack's link starts; Lookout counts it (Table 14.4). -/
def State.startRetrain (s : State) (st : Nat) (once : Bool) : State :=
  ((s.modStack st fun k => { k with state := stRetraining, crcFails := 0, oneShot := once }).count
    (linkStatus st) 39 32 1).lookout 3 1

/-- One bit of the CRC with polynomial 0x8BB7 (R175). -/
def crcStep (c : Nat) : Nat := if bit 15 c then Nat.xor (2 * c % 65536) 0x8BB7 else 2 * c % 65536

/-- The CRC of bytes, each from its highest bit on, from 0 (R175; PRESUMED, log entry 125). -/
def crc16 (bs : List Byte) : Nat :=
  bs.foldl (fun c b => (List.range 8).foldl (fun c _ => crcStep c) (Nat.xor c (256 * b.toNat))) 0

/-- Does a flit of 72 bytes pass the check of its CRC, the last two bytes, over the other 70 (R175)? -/
def flitOk (flit : List Byte) : Bool := decide (flit.length = 72) && crc16 (flit.take 70) == leNat (flit.drop 70)

/-- The line that a flit carries: its 64 bytes of payload, and the Blaze bit among its 6 bytes of header (R175). -/
def flitLine (flit : List Byte) : List Byte × Bool :=
  (flit.take 64, bit (Config.flitBlaze % 48) (leNat ((flit.drop 64).take 6)))

/-- The flit of a line with its mark and the other bits of its header, closed by its CRC (R175). -/
def flitOf (line : List Byte) (bz : Bool) (header : Nat) : List Byte :=
  let k := Config.flitBlaze % 48
  let bs := line.take 64 ++ leBytes 6 (setBits k k header (b2n bz))
  bs ++ leBytes 2 (crc16 bs)

/-- Inner-code corrections of a stack counted (Table 7.4); a FAILED one reads and corrects nothing (R177, R404). -/
def State.countInner (s : State) (st n : Nat) : State :=
  if (s.stack st).state = stFailed then s else s.count (memBase st + 0x18) 63 48 n

/-- STACK_FLIT_RECEIVE: a flit of a READY stack passes with its line and mark, or fails its CRC and is replayed; after eight
failed replays of one flit the link retrains (R175, R176). -/
def execStackFlitReceive (stack : Nat) (flit : List Byte) (s : State) : Out :=
  if decide (8 ≤ stack) || decide ((s.stack stack).state ≠ stReady) then .next s
  else if flitOk flit then .next (s.modStack stack fun k => { k with crcFails := 0, flit := some (flitLine flit) })
  else
    let n := (s.stack stack).crcFails
    let s := s.count (linkStatus stack) 15 0 1
    if n < 8 then
      .next (((s.modStack stack fun k => { k with crcFails := n + 1 }).count (linkStatus stack) 31 16 1).lookout 3 1)
    else .next (s.startRetrain stack false)

/-- STACK_LINK_RETRAIN_DONE: a retrain completes, or fails; three failures in a row, or that of a retrain asked for in
FAILED, leave the stack FAILED (R176, R177). -/
def execStackLinkRetrainDone (stack : Nat) (ok : Bool) (s : State) : Out :=
  let k := s.stack stack
  if decide (8 ≤ stack) || decide (k.state ≠ stRetraining) then .next s
  else if ok then
    .next (s.modStack stack fun k => { k with state := stReady, retrainFails := 0, oneShot := false })
  else if k.oneShot || decide (2 ≤ k.retrainFails) then
    .next (s.modStack stack fun k =>
      { k with state := stFailed, retrainFails := 0, oneShot := false, jrn := 1 })
  else .next ((s.modStack stack fun k => { k with retrainFails := k.retrainFails + 1 }).startRetrain stack false)

/-- STACK_RETRAIN: one further retrain of a FAILED stack (R177). -/
def execStackRetrain (stack : Nat) (s : State) : Out :=
  if stack < 8 ∧ (s.stack stack).state = stFailed then .next (s.latchPeak.startRetrain stack true) else .next s

/-- REFRESH: the rows keep their contents and marks (R184, R202). -/
def execRefresh (_stack : Nat) (s : State) : Out := .next s

/-! ### The Scarf table (R185–R190) -/

/-- The entries in force, by index. -/
def Stack.entries (k : Stack) : List (Nat × Nat) := k.scarf

/-- KIND, place and SPARE of an entry (Table 7.5). -/
def scKind (e : Nat) : Nat := bits 2 1 e
def scSpare (e : Nat) : Nat := bits 36 34 e

/-- The key of the spares that an entry draws on: those of its bank, its subarray or its channel. -/
def scPool (e : Nat) : Nat :=
  if scKind e = 0 then bits 13 4 e * 2
  else if scKind e = 1 then bits 29 4 e * 4 + 1
  else bits 8 4 e * 4 + 3

/-- Spares of a kind. -/
def scSpares (kind : Nat) : Nat := if kind = 0 then 8 else if kind = 1 then 2 else 1

/-- The lowest free spare for a resource. -/
def Stack.freeSpare (k : Stack) (e : Nat) : Option Nat :=
  let used := (k.scarf.filter fun p => scKind p.2 == scKind e && scPool p.2 == scPool e).map fun p => scSpare p.2
  (List.range (scSpares (scKind e))).find? fun n => !used.contains n

/-- Does the resource lie within one that an entry remaps? -/
def scWithin (e f : Nat) : Bool :=
  (scKind e == scKind f && bits 33 4 e == bits 33 4 f) ||
  (scKind f == 2 && bits 13 4 e == bits 13 4 f &&
    (if scKind e = 0 then bits 29 14 e / 4096 == bits 29 14 f
     else if scKind e = 1 then bits 29 14 e / 8 == bits 29 14 f
     else false))

/-- Are the fields of a request in range (Table 7.5)? -/
def scValid (e : Nat) : Bool :=
  if scKind e = 0 then bits 33 30 e == 0
  else if scKind e = 1 then decide (bits 29 14 e < 128)
  else if scKind e = 2 then decide (bits 29 14 e < 16) && bits 33 30 e == 0
  else false

/-- The result of the checks on a request, the first of Table 7.7 that holds: 1 (BUSY) where it may be copied. -/
def Stack.scarfCheck (k : Stack) (e : Nat) : Nat :=
  if 16 ≤ k.scarf.length then 3
  else if scKind e ≠ 3 ∧ k.freeSpare e = none then 4
  else if scKind e ≠ 3 ∧ k.scarf.any (fun p => scWithin e p.2) = true then 5
  else if !scValid e then 6
  else 1

/-- MEM.SCARF_STATUS of a stack. -/
def scarfStatus (st : Nat) : Nat := memBase st + 0x188

/-- A write of SCARF_ADD with GO (R187, Table 7.6): refused at once, or the copy begins and holds its resource. -/
def State.scarfGo (s : State) (st : Nat) (v : Nat) : State :=
  let s := s.writeReg (memBase st + 0x180) v
  let k := s.stack st
  if !bit 63 v || decide (k.scarfResult = 1) then s
  else
    let e := setBits 3 3 (bits 33 1 v * 2) 0
    let r := k.scarfCheck e
    let s := s.modStack st fun k => { k with scarfResult := r, adding := if r = 1 then some e else none }
    if r = 1 then s else (s.count (scarfStatus st) 31 16 1).lookout 2 1

/-- SCARF_ADD_GO. -/
def execScarfAddGo (stack : Nat) (value : Word) (s : State) : Out :=
  if stack < 8 then .next (s.scarfGo stack value.toNat) else .next s

/-- A line of a resource as its copy holds it: as decoded, its mark kept, an uncorrectable one blazed (Table 7.6). A FAILED
stack keeps its contents (R177). Whether the copy's read counts under R181 is not stated. -/
def State.copyLine (s : State) (l : Nat) : State :=
  let v := s.lineView l
  let counted := (if Config.coin s.free then s.touchLine l else s).draw 1
  if (s.stack (stackOfLine l)).state = stFailed then s
  else match s.decoded l with
  | .clean => counted.storeLine l v.1 v.2
  | .marked _ => counted.storeLine l v.1 true
  | .corrected _ => counted.storeLine l v.1 false
  | .bad => counted.storeLine l v.1 true

/-- The stored lines with symbol errors that lie in a resource of a stack. -/
def State.scarfLines (s : State) (st e : Nat) : List Nat :=
  (s.mem.errs.map Prod.fst).filter fun l => stackOfLine l == st && inResource e (64 * l % 2 ^ 36)

/-- The lowest free index of the table. -/
def Stack.freeIndex (k : Stack) : Nat :=
  ((List.range 16).find? fun n => (SMap.get? k.scarf n).isNone).getD 0

/-- SCARF_COPY_COMPLETE: the entry is in force and reported (R187). -/
def execScarfCopyComplete (stack : Nat) (s : State) : Out :=
  match (s.stack stack).adding with
  | none => .next s
  | some e =>
    if (s.stack stack).linkDown then .next s else
    let s := (s.scarfLines stack e).foldl (fun s l => s.copyLine l) s
    let k := s.stack stack
    let n := k.freeIndex
    let w := 1 + e + 8 + 2 ^ 34 * ((k.freeSpare e).getD 0)
    .next ((s.modStack stack fun k =>
      { k with scarf := SMap.put k.scarf n w, adding := none, scarfResult := 2, scarfIndex := n,
               cruise := if k.cruise.state = 1 then { k.cruise with added := k.cruise.added ||| 2 ^ n } else k.cruise
      }).lookout 2 1)

/-! ### Symbol errors of stored lines (R180) -/

/-- Symbol errors that befall a line that has some. -/
def addErrs (old new : SymErrs) : SymErrs :=
  (List.range 72).filterMap fun i =>
    let v := ((old ++ new).filter fun p => p.1 == i).foldl (fun (x : Byte) p => x ^^^ p.2) 0
    if v = 0 then none else some (i, v)

/-- Symbol errors befall a stored line. -/
def State.befall (s : State) (l : Nat) (es : SymErrs) : State :=
  if es.isEmpty then s else s.setErrs l (addErrs (s.lineErrs l) es)

/-! ### Cruise (R191–R194) -/

/-- A counter of a summary, saturating. -/
def sat (w n : Nat) : Nat := min n (2 ^ w - 1)

/-- The summary of a pass (Table 7.9). -/
def Stack.summary (k : Stack) (st endCount : Nat) (aborted : Bool) : List Byte :=
  let c := k.cruise
  bytesOf 4 (sat 32 c.lines) ++ bytesOf 4 (sat 32 c.corrected) ++ bytesOf 4 (sat 32 c.uncorrectable) ++
  bytesOf 4 (sat 32 c.blazed) ++ bytesOf 8 (c.first.getD 0) ++ bytesOf 8 (c.last.getD 0) ++
  ((List.range 9).map fun j => bytesOf 2 (sat 16 (SMap.get 0 c.hist j))).flatten ++
  bytesOf 2 ((k.scarf.map fun p => 2 ^ p.1).foldl (· + ·) 0) ++ bytesOf 2 c.added ++ bytesOf 1 st ++
  bytesOf 1 ((if aborted then 2 else 1) + 4 * b2n c.fix + 8 * b2n c.badSel) ++ bytesOf 8 endCount

/-- The end of a pass: the summary is placed and, with DEST_EN, written; while that write is held, or the link down, the pass
stays RUNNING (R194, R404). DEST counts as it stands now (DESIGN CHOICE, log entry 146). -/
def State.cruiseEnd (s : State) (st : Nat) : State :=
  let k := s.stack st
  let dest := s.reg (memBase st + 0x218)
  let pa := bits 38 6 dest * 64
  if k.linkDown || (bit 0 dest && s.memHeld pa) then s
  else
    let sum := k.summary st (s.reg (memBase st + 0x38)) k.cruise.abort
    let s := if bit 0 dest then s.memWrite pa sum false else s
    s.modStack st fun k =>
      { k with cruise := { k.cruise with state := if k.cruise.abort then 3 else 2, sum := sum, abort := false } }

/-- A write of START (R193): ignored while a pass runs, where BASE and LIMIT are not lines of the stack in order, or while
the link is down. FIX, BAD_SEL and LIMIT count as they stand now (DESIGN CHOICE, log entry 146). -/
def State.cruiseGo (s : State) (st : Nat) : State :=
  let m := memBase st
  let a := bits 38 6 (s.reg (m + 0x200))
  let b := bits 38 6 (s.reg (m + 0x208))
  let c := s.reg (m + 0x210)
  if (s.stack st).cruise.state = 1 ∨ (s.stack st).linkDown = true ∨ b < a ∨ a / 2 ^ 30 ≠ st ∨ b / 2 ^ 30 ≠ st then s
  else s.modStack st fun k =>
    { k with cruise := { state := 1, next := a, limit := b, fix := bit 10 c, badSel := bit 11 c, sum := k.cruise.sum } }

/-- CRUISE_START. -/
def execCruiseStart (stack : Nat) (s : State) : Out :=
  if stack < 8 then .next (s.cruiseGo stack) else .next s

/-- A write of ABORT: a running pass ends after its current line, and its summary is written (Table 7.8). -/
def State.cruiseStop (s : State) (st : Nat) : State :=
  if (s.stack st).cruise.state = 1 then
    (s.modStack st fun k => { k with cruise := { k.cruise with abort := true } }).cruiseEnd st
  else s

/-- CRUISE_ABORT. -/
def execCruiseAbort (stack : Nat) (s : State) : Out := .next (s.cruiseStop stack)

/-- What a pass counts of a line: kind 0 clean, 1 corrected with its symbols, 2 uncorrectable, 3 blazed. -/
def Cruise.tally (c : Cruise) (l : Nat) (d : Decoded) : Cruise :=
  let c := { c with lines := c.lines + 1, next := c.next + 1 }
  let note (c : Cruise) : Cruise :=
    { c with first := some (c.first.getD (64 * l)), last := some (64 * l) }
  match d with
  | .clean => c
  | .marked _ => note { c with blazed := c.blazed + 1 }
  | .corrected fix =>
    let c := { c with
      corrected := c.corrected + 1
      hist := fix.foldl (fun h p => SMap.put h (p.1 / 8) (SMap.get 0 h (p.1 / 8) + 1)) c.hist }
    if c.badSel then c else note c
  | .bad => note { c with uncorrectable := c.uncorrectable + 1 }

/-- A pass rewrites a line with FIX: corrected, or in its blazed form (R191). A recognised blazed line stays as it is, also
where symbols of it were corrected (DESIGN CHOICE, log entry 146). -/
def State.cruiseFix (s : State) (l : Nat) : State :=
  let v := s.lineView l
  match s.decoded l with
  | .clean => s
  | .marked _ => s
  | .corrected _ => s.storeLine l v.1 false
  | .bad => s.storeLine l v.1 true

/-- CRUISE_LINE: a running pass reads its next line, with the symbol errors that have befallen it, as one action
(R191); after LIMIT the pass ends (R194). Corrections of the inner code count as at any read (DESIGN CHOICE, log entry
146). -/
def execCruiseLine (stack : Nat) (noise : LineNoise) (s : State) : Out :=
  let k := s.stack stack
  let l := k.cruise.next
  if k.cruise.state ≠ 1 ∨ k.linkDown = true then .next s
  else if k.cruise.abort || decide (k.cruise.limit < l) then .next (s.cruiseEnd stack)
  else if (match k.adding with
    | some e => inResource e (64 * l % 2 ^ 36)
    | none => false) then .next s
  else
    let s := (s.befall l noise.errs).countInner stack noise.inner
    let d := s.decoded l
    let s := if k.cruise.fix then s.cruiseFix l else s
    let s := s.modStack stack fun k => { k with cruise := k.cruise.tally l d }
    if l = k.cruise.limit then .next (s.cruiseEnd stack) else .next s

/-! ### Accumulate windows and clears (R195, R200) -/

/-- BASE and SIZE of a window, in MiB, and VALID. -/
def winBase (v : Nat) : Nat := bits 15 0 v
def winSize (v : Nat) : Nat := bits 27 16 v
def winValid (v : Nat) : Bool := bit 28 v

/-- Does a window written as `v` fit beside the others of its stack? -/
def winFits (others : List Nat) (v : Nat) : Bool :=
  let vs := others.filter winValid
  !winValid v ||
  (vs.all (fun o => decide (winSize v = 0) || decide (winSize o = 0) || decide (winBase v + winSize v ≤ winBase o) || decide (winBase o + winSize o ≤ winBase v)) &&
   decide ((vs.map winSize).foldl (· + ·) (winSize v) ≤ 2048))

/-- The counts of the blocks of a window, in its stack, set to zero. -/
def State.zeroCounts (s : State) (st v : Nat) : State :=
  let lo := st * 2 ^ 28 + winBase v * 4096
  let hi := min (lo + winSize v * 4096) ((st + 1) * 2 ^ 28)
  let out (b : Nat) : Bool := !(decide (lo ≤ b) && decide (b < hi))
  { s with mem := { s.mem with
      counts := s.mem.counts.filter fun p => out p.1
      badCounts := s.mem.badCounts.filter fun p => out p.1 } }

/-- A write of a window (R195). -/
def State.writeWindow (s : State) (st w v : Nat) : State :=
  let off := memBase st + 0x300 + 8 * w
  let others := ((List.range 8).filter (· ≠ w)).map fun k => s.reg (memBase st + 0x300 + 8 * k)
  let v := bits 29 0 v
  if !winFits others v then s
  else if s.reg off = v then s
  else (s.zeroCounts st v).setReg off v

/-- ACC_WIN_WRITE. -/
def execAccWinWrite (stack w : Nat) (value : Word) (s : State) : Out :=
  if stack < 8 ∧ w < 8 then .next (s.writeWindow stack w value.toNat) else .next s

/-- A write of ACC_CLEAR: GO starts a clear unless one runs; BUSY keeps the fields of the running one (R200). -/
def State.writeAccClear (s : State) (st v : Nat) : State :=
  let s := s.writeReg (memBase st + 0x348) v
  if bit 63 v && (s.stack st).clear.isNone then
    s.modStack st fun k => { k with clear := some ⟨bits 35 8 v, bits 59 36 v⟩ }
  else s

/-- ACC_CLEAR_GO. -/
def execAccClearGo (stack : Nat) (value : Word) (s : State) : Out :=
  if stack < 8 then .next (s.writeAccClear stack value.toNat) else .next s

/-- ACC_CLEAR_DONE: zero data, unblazed, and zero counts in the blocks that lie in a window (R200). -/
def execAccClearDone (stack : Nat) (s : State) : Out :=
  match (s.stack stack).clear with
  | none => .next s
  | some c =>
    let s := (List.range c.count).foldl (fun s k =>
      let b := stack * 2 ^ 28 + c.base + k
      if c.base + k < 2 ^ 28 ∧ (s.accWindow (256 * b)).isSome = true then s.clearBlock b else s) s
    .next (s.modStack stack fun k => { k with clear := none })

end Sys2Proof.Machine
end

