-- ==== Sys2Proof/Machine/Arrivals.lean ====
section
/-! DEFINITION. Messages that reach their receiver: the wakes of waiters, and the reads and writes of single lines at
a stack (R181–R184, R262–R266). -/

namespace Sys2Proof.Machine

/-! ### Wakes (R263, R266) -/

/-- Does an answer end an earlier wait than its waiter's present one: the waiter has sent the object an operation, is
registered there, or is answered by a later message (R265)? A waiter waits for one answer at a time (R262), and a bank
answers in the order of its operations. -/
def State.staleWake (s : State) (n : Nat) (m : SyncWakeMsg) : Bool :=
  (s.sync.wakes.drop (n + 1)).any (fun w => w.waiter == m.waiter && w.ten == m.ten && w.obj == m.obj) ||
  s.sync.regs.any (fun r => r.waiter == m.waiter && r.ten == m.ten && r.obj == m.obj) ||
  s.sync.ops.any fun o => !o.cancel && o.src == .waiter m.waiter && o.ten == m.ten && o.obj == m.obj

/-- Does the stream's wait name the object? -/
def State.waitsOn (s : State) (t : Nat) (i : At) (obj : Nat) : Bool :=
  match (s.tenStream t i).wait with
  | some w => w.obj == obj
  | none => false

/-- The first descriptor of a unit that waits for the object has its wait met. -/
def meetWait (obj : Nat) : List DmaDesc → List DmaDesc
  | [] => []
  | d :: ds =>
    if d.waitSent && !d.waitMet && d.waitObj == obj then { d with waitMet := true } :: ds else d :: meetWait obj ds

/-- An answer delivered to its waiter. -/
def State.deliverWake (s : State) (m : SyncWakeMsg) : State :=
  match m.waiter with
  | .stream i =>
    if s.waitsOn m.ten i m.obj then
      match m.kind with
      | .value => s.wakeStream m.ten i m.value m.bz
      | .cancelled gen => s.waitCancelled m.ten i gen
      | .refused _ => s.modTenStream m.ten i fun x => { x with wait := none }
    else s
  | .dma c => s.modDma c m.ten fun u => { u with descs := meetWait m.obj u.descs }
  | .flume e t => s.modFlq e t fun q =>
      match q.reqs with
      | r :: _ => if q.waitSent && r.waitObj == m.obj then { q with waitMet := true } else q
      | [] => q
  | .coll e t slot => s.modCeq e t fun q =>
      if q.waitSent && q.cons == slot && q.waitObj == m.obj then { q with waitMet := true } else q

/-- A refusal is a fault of the stream, whatever it does now (R261, R432). -/
def State.refused (s : State) (m : SyncWakeMsg) : State :=
  match m.waiter, m.kind with
  | .stream i, .refused code => s.externalFault m.ten i code 0
  | _, _ => s

/-- Does an earlier wake go from the same bank to the same node, in another message (R32)? -/
def State.earlierWake (s : State) (n : Nat) (m : SyncWakeMsg) : Bool :=
  (s.sync.wakes.take n).any fun w =>
    w.id != m.id && bankOf w.obj == bankOf m.obj && s.waiterNode w.waiter == s.waiterNode m.waiter

/-- Can a wake not be at its waiter: a later one of its path, one that the control plane has not accepted, that still
travels, or that a halted node cuts off (R32, R236, R241)? -/
def State.wakeWaits (s : State) (n : Nat) (m : SyncWakeMsg) : Bool :=
  let site := match s.waiterNode m.waiter with
    | .site k => some k
    | .stop _ => none
  s.earlierWake n m || !s.accepted (.wake m.id) || s.onWay (.control (.wake m.id)) site ||
    s.cut (s.msgEntry (.wake m.id)) site

/-- SYNC_WAKE: answer `n` reaches its waiter and ends its wait, a refusal with a fault of the stream; one of an earlier wait
ends none. -/
def execSyncWake (n : Nat) (s : State) : Out :=
  match s.sync.wakes[n]? with
  | none => .next s
  | some m =>
    if s.wakeWaits n m then .next s
    else
      let t := s.takeWake n m
      .next ((if s.staleWake n m then t else t.deliverWake m).refused m)

/-! ### Lines at a stack (R181–R184, R334) -/

/-- The master under which a stack checks an issuer; internal engines are not checked (R335). -/
def State.issuerMaster (s : State) : Issuer → Option Nat
  | .core i _ => some (masterTen (s.tenOf i.core))
  | .dma c => some (masterTen (s.tenOf c))
  | .session n => some (masterSession n)
  | .collective _ t => some (masterTen t)
  | .internal => none

/-- The result of a denial at the issuer (Table 13.7). -/
def State.issuerDenied (s : State) (by_ : Issuer) (write : Bool) : State :=
  match by_ with
  | .core i va => s.externalFault (s.tenOf i.core) i codeAccess (va % 2 ^ 48)
  | .dma c =>
    let t := s.tenOf c
    match (s.dmaOf c t).descs.zipIdx.find? (fun p => p.1.started) with
    | some (d, k) => (s.dmaEnd c t k).sendFault
        ⟨1, codeAccess, t, dmaEngine c, (if write then (rowAt d.dstAddr d.dstStride d.row).toNat
          else (rowAt d.srcAddr d.srcStride d.row).toNat), 0, write, 0, 0, 0⟩
    | none => s
  | .session _ => s
  | .collective e t =>
    match s.fab.runs.find? (fun r => r.eng == e && r.ten == t) with
    | some r => s.collStop r codeAccess 0
    | none => s
  | .internal => s

/-- Is an issuer cut off from a stack by a halted node (R236)? -/
def State.issuerCut (s : State) (by_ : Issuer) (pa : Nat) : Bool :=
  match by_ with
  | .core i _ => s.cutOff i.core pa
  | .dma c => s.cutOff c pa
  | .session n => s.stopCut (portStop (12 + (SMap.get {} s.host.sessions n : Session).port % 2)) pa
  | .collective e _ => s.stopCut (Machine.collStop e) pa
  | .internal => false

/-- An access to a line at its stack: it waits while it is held or cut off, is denied by the windows, or goes on. -/
def State.atStack (s : State) (pa : Nat) (by_ : Issuer) (write : Bool) (k : State → State) : State :=
  if 8 ≤ stackOf pa ∨ (s.memHeld pa || s.issuerCut by_ pa) = true then s
  else match s.issuerMaster by_ with
    | none => k s
    | some m =>
      if s.memOk m (pa / 64 * 64) 64 write then k s
      else (s.memDenied m pa write).issuerDenied by_ write

/-- The stored count of an address's block, where it has one, is uncorrectable from now on (R195, R197). -/
def State.spoilCount (s : State) (pa : Nat) : State :=
  if (s.accWindow pa).isSome then { s with mem := { s.mem with badCounts := NSet.add s.mem.badCounts (pa / 256) } } else s

/-- MEM_LINE_READ: the symbol errors befall the stored line, and it is decoded and delivered (R181, R183); `countUe`: the
count of its block is found uncorrectable. -/
def execMemLineRead (pa : Nat) (by_ : Issuer) (noise : LineNoise) (countUe : Bool) (s : State) : Out :=
  .next (s.atStack pa by_ false fun s =>
    let s := (s.befall (pa / 64) noise.errs).countInner (stackOf pa) noise.inner
    let s := if countUe then s.spoilCount pa else s
    let v := s.lineView (pa / 64)
    let s := s.touchLine (pa / 64)
    { s with mem := { s.mem with reply := some ⟨pa / 64 * 64, BitVec.ofNat 512 (packBytes v.1), v.2⟩ } })

/-- MEM_LINE_WRITE: bytes of one line are written; a partial write reads the line, which the symbol errors have
befallen, with the inner code's corrections, and merges (R179, R184). -/
def execMemLineWrite (pa : Nat) (by_ : Issuer) (data : List Byte) (blaze : Bool) (noise : LineNoise) (s : State) : Out :=
  .next (s.atStack pa by_ true fun s =>
    let bs := data.take (64 - pa % 64)
    if bs.isEmpty then s
    else
      let s := (s.befall (pa / 64) noise.errs).writePiece blaze (pa / 64, pa % 64, bs)
      if bs.length < 64 then s.countInner (stackOf pa) noise.inner else s)

end Sys2Proof.Machine
end

