-- ==== Sys2Proof/Machine/Lookout.lean ====
section
/-! DEFINITION. Lookout (R347–R355): non-finite notices, loss samples, the risk estimate with its crossings, and the
decay of scores. -/

namespace Sys2Proof.Machine

/-! ### Notices (R348, R349) -/

/-- An add of one to an object of a tenancy sent by Lookout, for the notice of a source or for a crossing (R348, R355). -/
def State.lookAdd (s : State) (t obj : Nat) (ack : Option NfSource) : State :=
  s.sendSync { src := .engine 5 0, ten := t, op := 1, obj := obj, x := 1, ack := ack }

/-- The completions that waited for a notice of a stack's engine. -/
def State.releaseAcc (s : State) (st : Nat) : State :=
  let n := s.accNotices
  let go := n.held.filter fun p => p.1 == st
  go.foldl (fun s p => s.accComplete p.2 false)
    { s with accNotices := { out := SMap.del n.out st, held := n.held.filter fun p => p.1 != st } }

/-- A notice acknowledged (R348). -/
def State.ackNotice (s : State) (src : NfSource) : State :=
  match src with
  | .stream i => s.setNotice i false
  | .accEngine st => s.releaseAcc st
  | .collEngine e _ => { s with fab := { s.fab with notices := SMap.del s.fab.notices e } }

/-- Can a notice not be at Lookout: the control plane has not accepted it, it still travels, or a halted node cuts it off
(R236, R241)? -/
def State.noticeWaits (s : State) (src : NfSource) : Bool :=
  !s.accepted (.notice src) || s.onWay (.control (.notice src)) none || s.cut (s.msgEntry (.notice src))

/-- NF_NOTICE: the notice of a source reaches Lookout: it counts, is an event of input 6, and with NF_EN adds to NF_OBJ.
It is acknowledged at once, or once the add is performed or refused. -/
def execNfNotice (src : NfSource) (s : State) : Out :=
  match s.openNotice src with
  | none => .next s
  | some t =>
    if s.noticeWaits src then .next s
    else
      let s := ((s.takeOut (.control (.notice src))).count (lookBase + 0x2C0 + 8 * t) 31 0 1).lookout 6 1
      let c := s.reg (lookBase + 0x200 + 8 * t)
      .next (if bit 12 c then s.lookAdd t (bits 49 32 c) (some src) else s.ackNotice src)

/-! ### Operations at their bank (R260, R261, R355) -/

/-- What follows an operation at its bank: the report of a refusal, REFUSED for one of Lookout, and the notice's
acknowledgement. -/
def State.bankDone (s : State) (o : SyncOp) (code : Nat) : State :=
  let s := if code = 0 then s else s.reportRefusal o code
  let s := match o.src with
    | .engine 5 _ => if code = 0 then s else s.count (lookBase + 0x2C0 + 8 * o.ten) 47 32 1
    | _ => s
  match o.ack with
  | some src => s.ackNotice src
  | none => s

/-- SYNC_OP_ARRIVAL: message `n` arrives at its bank, with the mark it got on its way (R236, R260). One that cannot
arrive yet leaves all as it is. -/
def execSyncOpArrival (n : Nat) (s : State) : Out :=
  match s.sync.ops[n]? with
  | none => .next s
  | some o =>
    if o.cancel || s.opWaits n o then .next s
    else
      let (s, code) := (s.takeOp n o).atBank o o.bz
      .next (s.bankDone o code)

/-! ### Loss samples (R351, R352) -/

/-- LOSS_SAMPLE: a write to LOSS_IN. -/
def execLossSample (t : Nat) (value : W32) (s : State) : Out :=
  if t < 4 then .next (s.lossSample t value.toNat) else .next s

/-- CLEAR of LOSS_CFG: MEAN, VAR and SAMPLES become zero. -/
def State.lossClear (s : State) (t : Nat) : State := (s.setReg (lossEst t) 0).setField (lossStat t) 31 0 0

/-- LOSS_CLEAR. -/
def execLossClear (t : Nat) (s : State) : Out := if t < 4 then .next (s.lossClear t) else .next s

/-! ### The risk estimate (R354, R355) -/

/-- The hottest junction reading with its sensor: a site, or a stop with `true` (R397). -/
def State.hottest (s : State) : Nat × Nat × Bool :=
  let pick (ring : Bool) (best : Nat × Nat × Bool) (p : Nat × Nat) : Nat × Nat × Bool :=
    if best.1 < p.2 then (p.2, p.1, ring) else best
  let a := (s.power.sites.filter fun p => s.siteOn p.1).foldl (pick false) (0, 0, false)
  s.power.stops.foldl (pick true) a

/-- m_T: 95 °C minus the hottest junction. -/
def State.thermMargin (s : State) : Int := 95 - (s.hottest.1 : Int)

/-- The least core supply at a clock, in mV, rounded up between the points of Table 19.5 (R417). -/
def vMin (f : Nat) : Nat :=
  let seg (f0 v0 dv : Nat) : Nat := v0 + ((f - f0) * dv + 199) / 200
  if f ≤ 800 then 660
  else if f ≤ 1000 then seg 800 660 20
  else if f ≤ 1200 then seg 1000 680 20
  else if f ≤ 1400 then seg 1200 700 30
  else if f ≤ 1600 then seg 1400 730 30
  else seg 1600 760 50

/-- The highest clock in force on any core island. -/
def State.maxFreq (s : State) : Nat := (List.range s.coreCount).foldl (fun m c => max m (s.core c).freq) 0

/-- m_V: the supply minimum less the least supply at the frequency in force, with a floor of 0 (R397). -/
def State.droopMargin (s : State) : Nat := s.power.supplyMin - vMin s.maxFreq

/-- P: the largest risk that a heartbeat has brought. -/
def State.peerRisk (s : State) : Nat := s.fab.risks.foldl (fun m p => max m p.1) 0

/-- The sum of the level terms; the thermal and droop terms are zero until the sensors are sampled. -/
def State.levelSum (s : State) : Nat :=
  let c := s.reg (lookBase + 0x18)
  let therm := ((bits 7 0 c : Int) - s.thermMargin).toNat * bits 23 8 c
  let droop := (bits 31 24 c - s.droopMargin) * bits 47 32 c
  (if s.power.sampled then therm + droop else 0) + s.peerRisk * bits 55 48 c / 256

/-- The sum of the scores. -/
def State.scores (s : State) : Nat := (List.range 9).foldl (fun n k => n + s.field (lookBase + 0x100 + 8 * k) 31 16) 0

/-- The part of LOOK.LEVELS that a recomputation sets. -/
def State.levelsWord (s : State) : Nat :=
  (if s.power.sampled then (s.thermMargin % 256).toNat + 256 * min 255 s.droopMargin else 0) +
  65536 * s.peerRisk + 2 ^ 32 * min 65535 s.levelSum

/-- SECURE_AT and the REARM_AT in force. -/
def State.secureAt (s : State) : Nat := s.field (lookBase + 8) 15 0
def State.rearmAt (s : State) : Nat := min (s.field (lookBase + 8) 31 16) (s.secureAt - 1)

/-- The estimate at or above SECURE_AT while ARMED: a crossing (R355). -/
def State.cross (s : State) : State :=
  let s := (s.setField lookBase 16 16 0).count lookBase 63 48 1
  (List.range 4).foldl (fun s t =>
    let c := s.reg (lookBase + 0x220 + 8 * t)
    if bit 18 c then s.lookAdd t (bits 17 0 c) none else s) s

/-- LOOKOUT_RECOMPUTE. -/
def execLookoutRecompute (s : State) : Out :=
  let est := if s.pinned then 65535 else min 65535 (s.scores + s.levelSum)
  let s := (s.setField lookBase 15 0 est).setReg (lookBase + 0x20) s.levelsWord
  let s := if s.field lookBase 47 32 < est then s.setField lookBase 47 32 est else s
  if s.secureAt ≤ est ∧ s.field lookBase 16 16 = 1 then .next s.cross
  else if est < s.rearmAt then .next (s.setField lookBase 16 16 1)
  else .next s

/-- LOOKOUT_DECAY: each score loses its share (R354). -/
def execLookoutDecay (s : State) : Out :=
  let k := max 1 (s.field (lookBase + 0x10) 11 8)
  .next ((List.range 9).foldl (fun s n =>
    let off := lookBase + 0x100 + 8 * n
    s.setField off 31 16 (s.field off 31 16 - s.field off 31 16 >>> k)) s)

end Sys2Proof.Machine
end

