-- ==== Sys2Proof/Machine/NearCache.lean ====
section
/-! DEFINITION. The M class and the events of the near cache and the translation cache (R91–R95, R226–R229, R435). -/

namespace Sys2Proof.Machine

/-- The physical lines of virtual ones for maintenance: of those that have a valid translation (R91). While a walk is held,
which they are is not known. -/
def State.linesFor (s : State) (i : At) : List Nat → Res (List Nat)
  | [] => .ok [] s
  | l :: ls =>
    match s.translate i.core (some i.stream) (64 * l) false with
    | .page s _ _ _ => s.linesFor i ls
    | .denied s _ => s.linesFor i ls
    | .held s c => .held s c
    | .ok pa s =>
      match s.linesFor i ls with
      | .ok xs s => .ok (pa / 64 :: xs) s
      | .page s va l c => .page s va l c
      | .denied s va => .denied s va
      | .held s c => .held s c

/-- The lines that a range form names: all of the cache for a length of zero; otherwise the lines of
[sa, sa + sb) that have a translation (R91). -/
def State.rangeLines (s : State) (i : At) (sa sb : Nat) : Res (List Nat) :=
  if sb = 0 then .ok ((s.core i.core).nc.map Prod.fst) s
  else s.linesFor i (unitsOf 64 sa (min (sa + sb) (2 ^ 48) - sa))

/-- Dirty lines written back. -/
def State.flushLines (s : State) (c : Nat) (ls : List Nat) : State := ls.foldl (fun s l => s.writeBack c l) s

/-- Lines invalidated; what is dirty in them is lost. -/
def State.invLines (s : State) (c : Nat) (ls : List Nat) : State := ls.foldl (fun s l => s.ncDrop c l) s

/-- What holds back a stream's write-back of some of these lines: a stack or a halted node, the tracker, or the local port
(R96, R176, R187, R236, R238). -/
def State.flushHeld (s : State) (i : At) (ls : List Nat) : Option Cause :=
  if !ls.any (s.ncDirty i.core) then none
  else if ls.any (s.dirtyHeld i.core) || !s.trackFree i then some .memLimit
  else if !s.canInject i.core 1 then some .nocBp
  else none

/-- The lines of a core's near cache. -/
def State.ncLines (s : State) (c : Nat) : List Nat := (s.core c).nc.map Prod.fst

/-- Every dirty line whose write-back can go written back. -/
def State.flushFree (s : State) (c : Nat) : State :=
  s.flushLines c ((s.ncLines c).filter fun l => !s.writeWaits c l)

/-- Every line of a core invalidated; what is dirty in it is lost. -/
def State.invAll (s : State) (c : Nat) : State := s.modCore c fun k => { k with nc := [] }

/-- A write-back of the whole near cache that is in progress goes on; when no dirty line is left it is complete, and the
invalidation that was asked for with it follows (R94). -/
def State.ncSettle (s : State) (c : Nat) : State :=
  match (s.core c).ncOp with
  | none => s
  | some inv =>
    let s := s.flushFree c
    if (s.ncLines c).any (s.writeWaits c) then s
    else
      let s := s.modCore c fun k => { k with ncOp := none }
      if inv then s.invAll c else s

/-- NC_CTRL written: the write-back of every dirty line begins, and the invalidation follows it (R94). -/
def State.ncStart (s : State) (c : Nat) (flush inv : Bool) : State :=
  if flush then
    (s.modCore c fun k => { k with ncOp := some (inv || k.ncOp == some true) }).ncSettle c
  else if inv then s.invAll c
  else s

/-- A maintenance instruction over a range. -/
def ncRange (i : At) (sa sb : SReg) (flush inv : Bool) (s : State) : Out :=
  issue i s fun s =>
    let t := s.stream i
    (s.rangeLines i (t.sreg sa).val.toNat (t.sreg sb).val.toNat).bind false fun ls s =>
      match if flush then s.flushHeld i ls else none with
      | some c => .stall s c
      | none =>
        let s := if flush then s.flushLines i.core ls else s
        .done (if inv then s.invLines i.core ls else s)

/-- `ncflush`: write back the dirty lines of a range. -/
def execNcflush (i : At) (sa sb : SReg) (s : State) : Out := ncRange i sa sb true false s

/-- `ncinv`: invalidate the lines of a range. -/
def execNcinv (i : At) (sa sb : SReg) (s : State) : Out := ncRange i sa sb false true s

/-- `ncfi`: write back, then invalidate. -/
def execNcfi (i : At) (sa sb : SReg) (s : State) : Out := ncRange i sa sb true true s

/-- `mfence`: it retires once every earlier access is complete and every notice of the stream acknowledged (R92,
R158, R267, R349). -/
def execMfence (i : At) (s : State) : Out :=
  issue i s fun s => if s.fenceBusy i then .stall s .sync else .done s

/-- Translations of an address dropped; all of them for address 0 (Table 3.13). -/
def State.xlateInv (s : State) (c va : Nat) : State :=
  s.modCore c fun k => { k with tlb := if va = 0 then [] else k.tlb.filter fun e => !e.maps va }

/-- `xcinv`. -/
def execXcinv (i : At) (sa : SReg) (s : State) : Out :=
  issue i s fun s => .done (s.xlateInv i.core ((s.stream i).sreg sa).val.toNat)

/-! ### Events -/

/-- NEAR_CACHE_FILL: the line of an access is filled, checked and kept with its grants; a denial or a page fault
ends as it does within an instruction (R435, Table 13.7). -/
def execNearCacheFill (i : At) (va : Nat) (write : Bool) (s : State) : Out :=
  if !s.canIssue i || decide (2 ^ 48 ≤ va) then .next s
  else match s.prepLine i va write false with
    | .ok _ s => .next s
    | .page s va l c => .next (s.finish i (.page s va write l c))
    | .denied s va => .next (s.finish i (.faultAfter s codeAccess (low48 va)))
    | .held s c => .next (s.stall i c)

/-- NEAR_CACHE_WRITEBACK: one dirty line is written back, and a write-back of the whole cache goes on. -/
def execNearCacheWriteback (core line : Nat) (s : State) : Out :=
  .next ((if s.writeWaits core line then s else s.writeBack core line).ncSettle core)

/-- One line of run-ahead: an ordinary fill; a denied one brings no line and raises no fault (R435). -/
def State.runAheadLine (s : State) (c l : Nat) : State :=
  if (s.ncLine c l).isSome || s.memHeld (64 * l) || s.cutOff c (64 * l) || s.roomHeld c l || !s.poolFree c ||
      !s.canInject c 1 then s
  else
    let m := masterTen (s.tenOf c)
    if s.memOk m (64 * l) 64 false then s.ncFill c l false else (s.request c 1).memDenied m (64 * l) false

/-- The physical line at `va` that a `tld` in progress on a stream may read ahead: in a row that it names beyond the one
in progress, in the page of that one or in one with RA (R229). -/
def State.tldAhead (s : State) (i : At) (va : Nat) (inPage : Bool) : Option Nat :=
  let t := s.stream i
  match t.part with
  | some (o, true) =>
    let tile := (s.core i.core).img.tile o.tile.toNat
    let a0 := (t.rowAddr o t.restartRow.toNat).toNat
    let named := (List.range tile.rows).any fun r =>
      decide (t.restartRow.toNat < r) &&
      decide ((t.rowAddr o r).toNat / 64 ≤ va / 64) && decide (va / 64 ≤ ((t.rowAddr o r).toNat + tile.len - 1) / 64)
    let page := match (s.core i.core).lookup va false with
      | some e => e.maps a0
      | none => false
    if t.restartValid && o.space && !o.na && named && (page || !inPage) then s.mayRunAhead i.core a0 va true else none
  | _ => none

/-- The physical line at `va` that the prefetcher may read: at most 8 lines past the last of an ascending run of lines
that a stream has demanded, in a page with RA (R229). Two lines of a stream make a run (DESIGN CHOICE, log entry 156). -/
def State.runAhead (s : State) (i : At) (va : Nat) : Option Nat :=
  match SMap.get? (s.core i.core).runs i.stream.idx with
  | some (l, n) =>
    if 2 ≤ n ∧ l < va / 64 ∧ va / 64 ≤ l + 8 then s.mayRunAhead i.core 0 va false else none
  | none => none

/-- One line at `va` read ahead for the first of the streams that may. -/
def State.aheadAt (s : State) (c va : Nat) (fromTld inPage : Bool) : State :=
  let f (x : StreamId) : Option Nat := if fromTld then s.tldAhead ⟨c, x⟩ va inPage else s.runAhead ⟨c, x⟩ va
  match ((f .f).or (f .b)).or (f .u) with
  | some l => s.runAheadLine c l
  | none => s

/-- RUN_AHEAD_PREFETCH: lines from `va` are read ahead: by a `tld` in progress beyond its row, `inPage` in the page of
that row alone; or by the prefetcher past a run of demanded lines (R229). -/
def execRunAheadPrefetch (core va lines : Nat) (fromTld inPage : Bool) (s : State) : Out :=
  if (s.core core).res.isNone then .next s
  else .next ((List.range (min lines 2048)).foldl
    (fun s k => s.aheadAt core (va / 64 * 64 + 64 * k) fromTld inPage) s)

/-- NC_FLUSH_ALL: every dirty line of a core is written back. -/
def execNcFlushAll (core : Nat) (s : State) : Out := .next (s.ncStart core true false)

/-- NC_INV_ALL: every line of a core is invalidated. -/
def execNcInvAll (core : Nat) (s : State) : Out := .next (s.ncStart core false true)

/-- XLATE_INV_GO: ADDR is written and its translations dropped (R94). -/
def execXlateInvGo (core : Nat) (addr : BitVec 48) (s : State) : Out :=
  .next ((s.setReg (coreBase core + 0x408) addr.toNat).xlateInv core addr.toNat)

end Sys2Proof.Machine
end

