-- ==== Sys2Proof/Machine/Sequencer.lean ====
section
/-! DEFINITION. The sequencers' control (R66–R70, R432) and the interleave with its shims (R116–R118, R122–R126, R33). -/

namespace Sys2Proof.Machine

/-- Does a core take commands for its resident tenancy: enabled, with one resident, outside a switch and a reset? -/
def State.coreLive (s : State) (c : Nat) : Bool :=
  decide (c < s.coreCount) && (s.core c).res.isSome && !(s.core c).switching && !(s.core c).resetBusy

/-- A command on a stream of a live core. -/
def onStream (core : Nat) (stream : StreamId) (s : State) (f : At → State → State) : Out :=
  if s.coreLive core then .next (f ⟨core, stream⟩ s) else .next s

/-- A command on a live core. -/
def onCore (core : Nat) (s : State) (f : State → State) : Out :=
  if s.coreLive core then .next (f s) else .next s

/-! ### START, PAUSE, RESUME, ABORT (Table 3.2) -/

/-- START in an image: an IDLE stream starts at its program counter. -/
def Stream.start (t : Stream) : Stream := if t.state = .idle then { t with state := .running } else t

/-- SEQ_START. -/
def execSeqStart (core : Nat) (stream : StreamId) (s : State) : Out :=
  onStream core stream s fun i s => s.modStream i (·.start)

/-- The pause is released (R69, R70). -/
def State.unpause (s : State) (i : At) : State :=
  let t := s.stream i
  if t.state ≠ .paused then s
  else if t.fromSuspended then
    let s' := s.modStream i fun t => { t with state := .suspended, fromSuspended := false, heldResume := false }
    if t.heldResume then s'.rewalk i else s'
  else (s.modStream i fun t => { t with state := .running }).resumeWait (s.tenOf i.core) i

/-- PAUSE takes the value written. -/
def State.setPause (s : State) (i : At) (v : Bool) : State :=
  let s := s.modStream i fun t => { t with pauseReq := v }
  if v then s.pauseNow i else s.unpause i

/-- SEQ_PAUSE. -/
def execSeqPause (core : Nat) (stream : StreamId) (value : Bool) (s : State) : Out :=
  onStream core stream s fun i s => s.setPause i value

/-- A running stream stops at its instruction or row boundary; a `tcfg` that is held has not begun and is issued
again on release (R69, R80). An array instruction is not ready while its stream is PAUSED (R125, R126). -/
def State.pauseBoundary (s : State) (i : At) : State :=
  let t := s.stream i
  if t.state = .running ∧ t.pauseReq = true ∧ t.wait = none then
    s.modStream i fun t => { t.unready with state := .paused, heldTcfg := none }
  else s

/-- SERVICE_PAUSE_TAKE_EFFECT. -/
def execServicePauseTakeEffect (core : Nat) (stream : StreamId) (s : State) : Out :=
  onStream core stream s fun i s => s.pauseBoundary i

/-- RESUME: judged in SUSPENDED, held in PAUSED entered from it, otherwise ignored. -/
def State.resume (s : State) (i : At) : State :=
  let t := s.stream i
  if t.state = .suspended then s.rewalk i
  else if t.state = .paused ∧ t.fromSuspended = true then s.modStream i fun t => { t with heldResume := true }
  else s

/-- SEQ_RESUME. -/
def execSeqResume (core : Nat) (stream : StreamId) (s : State) : Out :=
  onStream core stream s fun i s => s.resume i

/-- ABORT: what is in flight is dropped, a wait cancelled, and the stream is IDLE (R66, R265); a fault not yet taken
leaves as a record (R432). -/
def State.abort (s : State) (i : At) : State :=
  let s := (s.dropStream i).cancelWait (s.tenOf i.core) i
  let s := s.modStream i fun t =>
    { t with state := .idle, faultCode := 0, wait := none, heldTcfg := none, page := none, part := none,
             restartRow := 0, restartValid := false, fromSuspended := false, heldResume := false,
             beforeSlice := none, slotWait := none, held := none, prepared := [] }
  s.settle (s.tenOf i.core) i

/-- SEQ_ABORT. -/
def execSeqAbort (core : Nat) (stream : StreamId) (s : State) : Out :=
  onStream core stream s fun i s => s.abort i

/-- EXTERNAL_FAULT_ARRIVAL: a fault from outside the issue path reaches a stream (R432): the resident tenancy's, or with a
peer's refusal the saved one that sent the `sy.rmt` (R268). Where several may be meant, which one is free (DESIGN CHOICE, log
entry 157). -/
def execExternalFaultArrival (core : Nat) (stream : StreamId) (code : Byte) (addr : BitVec 48) (s : State) : Out :=
  let i : At := ⟨core, stream⟩
  if !faultCodes.contains code.toNat || decide (s.coreCount ≤ core) || (s.core core).resetBusy then .next s
  else match s.faultTens i code.toNat addr.toNat with
    | [] => .next s
    | [t] => .next (s.externalFault t i code.toNat addr.toNat)
    | t :: ts =>
      .next ((s.draw 1).externalFault ((t :: ts).getD (Config.number s.free % (ts.length + 1)) t) i code.toNat addr.toNat)

/-- VCAP_CLEAR_ALL: VALID and STALE of every capture entry become 0 (Table 5.9). -/
def execVcapClearAll (core : Nat) (s : State) : Out :=
  onCore core s fun s => s.modImg core fun m =>
    { m with caps := m.caps.map fun p => (p.1, { p.2 with valid := false, stale := false }) }

/-! ### The interleave (R122–R126) -/

/-- ILV_PATTERN_WRITE: the value is held until the next rotation (R124). -/
def execIlvPatternWrite (core : Nat) (ctrl : Bool) (value : Word) (s : State) : Out :=
  onCore core s fun s => s.modImg core fun m =>
    if ctrl then { m with ilvNextLen := some (BitVec.ofNat 10 value.toNat) }
    else { m with ilvNext := some (BitVec.ofNat 32 value.toNat) }

/-- Slot 0 begins: a held pattern and slot length take effect (R124). -/
def CoreImage.rotate (m : CoreImage) : CoreImage :=
  { m with ilvPattern := m.ilvNext.getD m.ilvPattern, ilvLen := m.ilvNextLen.getD m.ilvLen,
           ilvNext := none, ilvNextLen := none }

/-- The array cycles of the slot in progress that are still to come: to its nominal end, or to the end of its last
instruction (R116, R125). -/
def State.slotLeft (s : State) (c : Nat) : Nat :=
  let k := s.core c
  max k.img.slotCycles (k.arr.slotUsed + k.arr.needs (s.shimLevel c) (s.shimOn c)) - k.arr.slotUsed

/-- The slot after one; after slot 15 a new rotation starts (R124). -/
def CoreState.nextSlot (k : CoreState) : CoreState :=
  let wrap := decide (k.arr.slot = 15)
  { k with
    img := if wrap then k.img.rotate else k.img
    arr := { k.arr with slot := (k.arr.slot + 1) % 16, slotUsed := 0, slotRun := false,
                        rotations := (k.arr.rotations + b2n wrap) % 2 ^ 32 } }

/-- The slot in progress ends, its remaining cycles having passed, and the next begins (R125, R126). -/
def State.endSlot (s : State) (c : Nat) : State :=
  (s.corePass c (s.slotLeft c) none false).modCore c (·.nextSlot)

/-- SLOT_END. -/
def execSlotEnd (core : Nat) (s : State) : Out := onCore core s fun s => s.endSlot core

/-- ROTATION_START: slot 15 ends and slot 0 begins (R124); in another slot none starts. -/
def execRotationStart (core : Nat) (s : State) : Out :=
  onCore core s fun s => if (s.core core).arr.slot = 15 then s.endSlot core else s

/-! ### Shims (R116–R118) -/

/-- The array of a core changed. -/
def State.modArr (s : State) (c : Nat) (g : ArrayState → ArrayState) : State :=
  s.modCore c fun k => { k with arr := g k.arr }

/-- The cycles to the end of a gap's horizon: the rest of it, or, where no gap has begun, all of it behind the work that is
still to come. -/
def State.horizonLeft (s : State) (c : Nat) : Nat :=
  let a := (s.core c).arr
  if a.gap then s.shimHorizon c - a.gapUsed else a.needs (s.shimLevel c) (s.shimOn c) + s.shimHorizon c

/-- The array past the horizon of a gap, where the first period of the falling ramp begins (R116). -/
def ArrayState.pastHorizon (a : ArrayState) (level : Nat) (on : Bool) : ArrayState :=
  { (if a.gap then a else a.openGap level on) with horizonPassed := true, rampUsed := 0 }

/-- SHIM_HORIZON_EXPIRY: a gap outlasts HORIZON × 64 cycles, which pass. A gap whose horizon has passed is left as it is. -/
def execShimHorizonExpiry (core : Nat) (s : State) : Out :=
  let a := (s.core core).arr
  if core < s.coreCount ∧ s.stopped = false ∧ (a.gap = true → a.horizonPassed = false) then
    .next ((s.corePass core (s.horizonLeft core) none false).modArr core fun a =>
      a.pastHorizon (s.shimLevel core) (s.shimOn core))
  else .next s

/-- RAMP_STEP of a core; 0 is read as 1. -/
def State.rampStep (s : State) (c : Nat) : Nat := max 1 (s.field (coreBase c + 0x600) 31 24)

/-- Array cycles of a ramp period; 0 is read as 1. -/
def State.rampPeriod (s : State) (c : Nat) : Nat := 16 * max 1 (s.field (coreBase c + 0x600) 39 32)

/-- The cap at the end of a ramp period (R116, R118): it rises to LEVEL while an instruction is ready, and falls
past the horizon of a gap, or towards a LEVEL that was lowered below it. -/
def ArrayState.ramp (a : ArrayState) (level step : Nat) (ready : Bool) : ArrayState :=
  if ready && decide (a.cap < level) then
    let c := min level (a.cap + step)
    { a with cap := if c = level ∧ a.gap = false then 256 else c }
  else if !ready && a.gap then
    if a.horizonPassed then { a with cap := a.cap - step }
    else { a with cap := min a.cap (max level (a.cap - step)) }
  else a

/-- RAMP_PERIOD_END: the rest of the period passes, in which the ramp withholds from a `ready` instruction what the cap does
not give it, and the cap moves by RAMP_STEP (R116). The period begins with its ramp or at the last such end (DESIGN CHOICE,
log entry 136). -/
def execRampPeriodEnd (core : Nat) (ready : Bool) (s : State) : Out :=
  let level := s.shimLevel core
  if !s.shimOn core || decide (s.coreCount ≤ core) || s.stopped then .next s
  else
    .next ((s.corePass core (s.rampPeriod core - (s.core core).arr.rampUsed) none ready).modArr core fun a =>
      { a.ramp level (s.rampStep core) ready with
        rampUsed := 0, rising := ready && decide ((a.ramp level (s.rampStep core) ready).cap < level) })

/-- The array as LEVEL changes: with the cap at or above it an instruction runs at full rate, and the cap is 256; in a gap a
cap above it begins to fall (R116, R118). -/
def ArrayState.relevel (a : ArrayState) (level : Nat) (on : Bool) : ArrayState :=
  if !on || decide (a.cap < level) then a
  else if a.gap then { a with rising := false, rampUsed := if level < a.cap then 0 else a.rampUsed }
  else { a with rising := false, cap := 256 }

/-- A write to SHIM_CTRL: LEVEL never below LEVEL_FLOOR. One that lowers LEVEL below the cap begins a ramp (R118). -/
def State.writeShim (s : State) (c v : Nat) : State :=
  let off := coreBase c + 0x600
  let s := s.writeReg off v
  let s := if s.field off 7 0 < s.field off 48 41 then s.setField off 7 0 (s.field off 48 41) else s
  s.modArr c fun a => a.relevel (s.shimLevel c) (s.shimOn c)

/-- SHIM_CTRL_WRITE. -/
def execShimCtrlWrite (core : Nat) (value : Word) (s : State) : Out :=
  if core < s.coreCount then .next (s.writeShim core value.toNat) else .next s

/-- A core's clock set, within 800 to 1,800 MHz (R30, Table 17.2). Its arithmetic pauses; how long is open, at most 1 µs
(R33). -/
def State.setClock (s : State) (c mhz : Nat) : State :=
  let f := max 800 (min 1800 mhz)
  if (s.core c).freq = f then s
  else
    let s := (s.modCore c fun k => { k with freq := f }).count (coreBase c + 0xF08) 47 16 1
    (s.corePause c (Config.number s.free % (f + 1))).draw 1

end Sys2Proof.Machine
end

