-- ==== Sys2Proof/Machine/Power.lean ====
section
/-! DEFINITION. The power manager with its telemetry, and the I3C sideband (R397–R400, R407, R416–R424). -/

namespace Sys2Proof.Machine

/-- The power manager's part changed. -/
def State.modPower (s : State) (g : PowerState → PowerState) : State := { s with power := g s.power }

/-! ### Clocks (R33, R407, R417, R418) -/

/-- FREQ_MAX_MHZ and FREQ_MIN_MHZ as they are read (Table 18.4). -/
def State.freqMax (s : State) : Nat := max 800 (min 1800 (s.field pwrBase 10 0))
def State.freqMin (s : State) : Nat := min s.freqMax (max 800 (s.field pwrBase 21 11))

/-- The cap in force, in watts (R407). -/
def State.powerCap (s : State) : Nat := min (s.field (pwrBase + 8) 10 0) s.power.cap

/-- The tenancies among which a reduction for power is spread: those resident on a core, or, where none is, the first,
which stands for the cores that have none (R422; log entry 35). -/
def State.sharers (s : State) : List Nat :=
  let ts := (List.range 4).filter fun t => s.cores.any fun p => p.2.res == some t
  if ts.isEmpty then [0] else ts

/-- The reduction for power of a tenancy, and of a core: a core with no tenancy takes the largest. -/
def State.cutOf (s : State) (t : Nat) : Nat := SMap.get 0 s.power.cut t
def State.coreCut (s : State) (c : Nat) : Nat :=
  match (s.core c).res with
  | some t => s.cutOf t
  | none => s.sharers.foldl (fun m t => max m (s.cutOf t)) 0

/-- The clock that a core is to have: the lower of those that the power and thermal limits set; 800 MHz in an
emergency (R400, R407, R422). -/
def State.clockTarget (s : State) (c : Nat) : Nat :=
  if s.power.emergency then 800
  else min (max s.freqMin (s.freqMax - s.coreCut c)) (max 800 (s.freqMax - s.power.thermCut))

/-- The setpoint of a clock, in mV (R417). -/
def vSet (f : Nat) : Nat := vMin f + 40

/-- Every core given the clock that `f` names. -/
def State.setClocks (s : State) (f : State → Nat → Nat) : State :=
  (List.range s.coreCount).foldl (fun s c => s.setClock c (f s c)) s

/-- The highest clock that the cores are to have. -/
def State.maxTarget (s : State) : Nat := (List.range s.coreCount).foldl (fun m c => max m (s.clockTarget c)) 0

/-- The clocks that the cores are to have. -/
def State.targets (s : State) : List Nat := (List.range s.coreCount).map s.clockTarget

/-- Clocks brought to their targets (R418): lower ones at once, with the setpoint after; higher ones at once where the
setpoint serves them, or else after the regulator acknowledges a higher setpoint. One that it did not acknowledge in time
is asked for again once a target has changed. -/
def State.applyClocks (s : State) : State :=
  let need := vSet s.maxTarget
  if need ≤ s.power.setpoint then
    (s.setClocks fun s c => s.clockTarget c).modPower fun p =>
      { p with setpoint := need, wanted := none, raises := [], gaveUp := none }
  else
    (s.setClocks fun s c => min (s.core c).freq (s.clockTarget c)).modPower fun p =>
      if p.gaveUp = some s.targets then p else { p with wanted := some need, gaveUp := none }

/-- The setpoint of the highest clock in force (R417). -/
def State.dropSetpoint (s : State) : State := s.modPower fun p => { p with setpoint := vSet s.maxFreq }

/-- The manager gives one core a clock, at least 800 MHz and at most its target (R407). It lowers the clock first and the
setpoint after; it raises a clock that the setpoint serves at once, and else asks for the setpoint first (R418). -/
def State.changeClock (s : State) (c mhz : Nat) : State :=
  let f := max 800 (min mhz (s.clockTarget c))
  if f ≤ (s.core c).freq ∨ vSet f ≤ s.power.setpoint then
    let s := (s.setClock c f).modPower fun p => { p with raises := SMap.del p.raises c }
    if s.power.wanted.isSome then s else s.dropSetpoint
  else s.modPower fun p =>
    { p with wanted := some (max (vSet f) (p.wanted.getD 0)), raises := SMap.put p.raises c f, gaveUp := none }

/-- CLOCK_CHANGE. -/
def execClockChange (core mhz : Nat) (s : State) : Out :=
  if core < s.coreCount ∧ s.stopped = false then .next (s.changeClock core mhz) else .next s

/-- A clock raised as a CLOCK_CHANGE asked, as far as its target and the setpoint now in force let it. -/
def State.raiseClock (s : State) (c mhz : Nat) : State :=
  let f := min mhz (s.clockTarget c)
  if (s.core c).freq < f ∧ vSet f ≤ s.power.setpoint then s.setClock c f else s

/-- REGULATOR_ACK: the setpoint is in force, and the raised clocks follow. -/
def execRegulatorAck (s : State) : Out :=
  match if s.stopped then none else s.power.wanted with
  | none => .next s
  | some v =>
    let t := s.modPower fun p => { p with setpoint := max p.setpoint v, wanted := none, raises := [] }
    .next (s.power.raises.foldl (fun t p => t.raiseClock p.1 p.2) t).applyClocks

/-- GATE_EVENTS of THROTTLE. -/
def State.gateEvent (s : State) : State := s.count (pwrBase + 0x10) 47 16 1

/-- REGULATOR_ACK_TIMEOUT: the lower frequencies stay, and the event counts (R418). -/
def execRegulatorAckTimeout (s : State) : Out :=
  if s.power.wanted.isSome && !s.stopped then
    .next ((s.modPower fun p => { p with wanted := none, raises := [], gaveUp := some s.targets }).dropSetpoint.gateEvent)
  else .next s

/-- PWR.CTRL or PWR.LIMIT written: a cap outside 400 to 1,100 W leaves the field unchanged. -/
def State.writePwr (s : State) (limit : Bool) (v : Nat) : State :=
  if limit then
    (if 400 ≤ bits 10 0 v ∧ bits 10 0 v ≤ 1100 then s.writeReg (pwrBase + 8) v else s)
  else (s.writeReg pwrBase v).applyClocks

/-- PWR_CTRL_WRITE: none while every island is stopped (R424, R427). -/
def execPwrCtrlWrite (limit : Bool) (value : Word) (s : State) : Out :=
  if s.stopped then .next s else .next (s.writePwr limit value.toNat)

/-! ### Power limits (R421, R422) -/

/-- Power gating set; a beginning counts. -/
def State.setPowerGate (s : State) (v : Bool) : State :=
  let s' := s.modPower fun p => { p with powerGate := v }
  if v && !s.power.powerGate then s'.gateEvent else s'

/-- PWR_WEIGHT of a tenancy; 0 is read as 1 (R333). -/
def State.pwrWeight (s : State) (t : Nat) : Nat := max 1 (s.field (0x620 + 8 * t) 31 24)

/-- The tenancy to lower next: of those with a core and above FREQ_MIN_MHZ, the one whose reduction, weighted, is least
(R333, DESIGN CHOICE, log entry 35). In an emergency every island runs at 0.8 GHz already, and none can be lowered (R400).
-/
def State.toLower (s : State) : Option Nat :=
  if s.power.emergency then none else
  (s.sharers.filter fun t => decide (s.freqMin < s.freqMax - s.cutOf t)).foldl (fun best t =>
    match best with
    | none => some t
    | some b => if s.cutOf t * s.pwrWeight t < s.cutOf b * s.pwrWeight b then some t else some b) none

/-- The tenancy to raise next: the one whose reduction, weighted, is largest. -/
def State.toRaise (s : State) : Option Nat :=
  (s.sharers.filter fun t => decide (0 < s.cutOf t)).foldl (fun best t =>
    match best with
    | none => some t
    | some b => if s.cutOf b * s.pwrWeight b < s.cutOf t * s.pwrWeight t then some t else some b) none

/-- A tenancy's reduction changed. -/
def State.setCut (s : State) (t n : Nat) : State := s.modPower fun p => { p with cut := SMap.put p.cut t n }

/-- The envelope allowance E of a cap, in watts (R421). -/
def envelopeOf (c : Nat) : Nat := 12 * c / 11

/-- Is one of the four limits of R421 broken, or would a further millisecond like this one break the second: it is the tenth
on end above the cap? -/
def State.powerOver (s : State) (v : PowerAverages) : Bool :=
  let c := s.powerCap
  decide (envelopeOf c < v.us100) || decide (c < v.s1) ||
  (decide (c < v.ms1) && (s.power.recovering || decide (10 ≤ s.power.excess + 1)))

/-- The allowance of R421 after a millisecond: the length of an excursion above the cap, whether it stands under the
allowance (ENVELOPE), and whether one must be made good before the next. -/
def PowerState.excursion (p : PowerState) (c : Nat) (v : PowerAverages) : PowerState :=
  if c < v.ms1 then
    { p with excess := p.excess + 1
             envelope := !p.recovering && decide (p.excess + 1 ≤ 10) && decide (v.us100 ≤ envelopeOf c) }
  else
    { p with excess := 0, envelope := false
             recovering := (p.recovering || decide (0 < p.excess)) && decide (c < v.s1) }

/-- One millisecond of the thermal measures: while cooling, clocks fall a step; after it they rise (Table 19.8). -/
def PowerState.thermStep (p : PowerState) (most : Nat) : PowerState :=
  if p.cooling then { p with thermCut := min most (p.thermCut + 50) } else { p with thermCut := p.thermCut - 50 }

/-- POWER_LIMIT_STEP: one millisecond of the power manager (R421–R423); its energy counts in PWR.ENERGY. -/
def execPowerLimitStep (v : PowerAverages) (s : State) : Out :=
  if s.stopped then .next s else
  let s := s.count (pwrBase + 0x828) 63 0 (1000 * v.ms1)
  let c := s.powerCap
  let excess := s.powerOver v
  let s := s.modPower fun p => (p.excursion c v).thermStep (s.freqMax - 800)
  let s :=
    if excess then
      match s.toLower with
      | some t => s.setCut t (s.cutOf t + 50)
      | none => s.setPowerGate true
    else if v.ms1 * 100 < c * 97 then
      (if s.power.powerGate then s.setPowerGate false
       else match s.toRaise with
        | some t => s.setCut t (s.cutOf t - 50)
        | none => s)
    else s
  .next s.applyClocks

/-! ### Sensors and thermal actions (R397, R423, R424) -/

/-- The device after a thermal trip: every island has stopped and nothing is kept but fuses and flash; only a cold
reset ends it (R424). -/
def State.tripped (s : State) : State :=
  { State.reset with
    pending := s.pending
    fuses := s.fuses
    boot := { flash := s.boot.flash }
    pins := { coldLow := false, thermtrip := true }
    free := s.free }

/-- A stack's temperature taken; HOT follows (Table 7.2). While its link is down both keep their last values (R404). -/
def State.stackTemp (s : State) (p : Nat × Nat) : State :=
  if p.1 < 8 ∧ (s.stack p.1).linkDown = false then
    s.modStack p.1 fun k => { k with temp := p.2, hot := decide (85 ≤ p.2) || (k.hot && decide (83 < p.2)) }
  else s

/-- Does the sampling show a trip (Table 19.8)? -/
def State.mustTrip (s : State) : Bool :=
  decide (103 ≤ s.hottest.1) || (List.range 8).any fun i => decide (100 ≤ (s.stack i).temp)

/-- The conditions of Table 19.8 judged on a sampling: each stands until its release. -/
def PowerState.judge (p : PowerState) (t : Nat) : PowerState :=
  { p with cooling := decide (88 ≤ t) || (p.cooling && decide (85 < t))
           thermalGate := decide (92 ≤ t) || (p.thermalGate && decide (90 < t)) }

/-- SENSOR_SAMPLE. -/
def execSensorSample (v : Samples) (s : State) : Out :=
  if s.stopped then .next s else
  let s := v.stackTemps.foldl State.stackTemp (s.modPower fun p =>
    { p with sampled := true, sites := v.sites.foldl (fun m x => SMap.put m x.1 x.2) p.sites,
             stops := v.stops.foldl (fun m x => SMap.put m x.1 x.2) p.stops,
             supplyMin := v.supplyMv, power8 := v.power8 })
  if s.mustTrip then .next s.tripped
  else
    let gated := s.power.thermalGate
    let s := s.modPower fun p => p.judge s.hottest.1
    .next (if s.power.thermalGate && !gated then s.gateEvent else s)

/-! ### I3C (R398–R400) -/

/-- POWER_CAP written: a value outside 400 to 1,100 is ignored. -/
def State.writeCap (s : State) (v : Nat) : State :=
  if 400 ≤ v ∧ v ≤ 1100 then s.modPower fun p => { p with cap := v } else s

/-- Does the I3C target answer: from step 1 of the boot onward, whatever its result (R398)? -/
def State.i3cUp (s : State) : Bool := decide (0 < s.boot.step)

/-- An I3C transfer with the given effect; a target that does not answer changes nothing. -/
def State.overI3c (s : State) (f : State → State) : Out := if s.i3cUp then .next (f s) else .next s

/-- POWER_CAP_WRITE. -/
def execPowerCapWrite (value : BitVec 16) (s : State) : Out := s.overI3c fun s => s.writeCap value.toNat

/-- EMERGENCY written: set, it takes every core island to 800 MHz; cleared, it releases them. -/
def State.writeEmergency (s : State) (v : Bool) : State := (s.modPower fun p => { p with emergency := v }).applyClocks

/-- EMERGENCY_WRITE. -/
def execEmergencyWrite (value : Bool) (s : State) : Out := s.overI3c fun s => s.writeEmergency value

/-- DEVICE_ID (R3, R405). -/
def State.deviceId (s : State) : Nat := if s.fuses.kt702 then 0x4B540702 else 0x4B540704

/-- THROTTLE's gating bits and EMERGENCY, as I3C reads them. -/
def PowerState.throttle (p : PowerState) : Nat := b2n p.powerGate + 2 * b2n p.thermalGate + 4 * b2n p.emergency

/-- The fields of Table 17.9 that are read: start, bytes and value. -/
def State.i3cFields (s : State) : List (Nat × Nat × Nat) :=
  [(0x00, 4, s.deviceId),
   (0x04, 1, s.boot.result + 8 * b2n s.power.sampled),
   (0x05, 1, s.boot.step),
   (0x06, 1, s.hottest.1),
   (0x07, 1, (List.range 8).foldl (fun m i => max m (s.stack i).temp) 0),
   (0x08, 2, s.power.power8),
   (0x0A, 2, s.power.supplyMin),
   (0x0C, 8, s.reg (pwrBase + 0x828)),
   (0x14, 2, s.risk),
   (0x16, 2, s.power.cap),
   (0x18, 1, b2n s.power.emergency),
   (0x19, 1, s.power.throttle),
   (0x20, 8, s.fuses.serial)]

/-- One byte read at an index: the first byte of a field latches the field whole; a later one comes from the latch. -/
def State.i3cByte (s : State) (k : Nat) : Byte × State :=
  match s.i3cFields.find? (fun f => decide (f.1 ≤ k) && decide (k < f.1 + f.2.1)) with
  | none => (0, s)
  | some (a, _, v) =>
    let s := if k = a then s.modPower fun p => { p with i3cLatch := SMap.put p.i3cLatch a v } else s
    (BitVec.ofNat 8 (SMap.get 0 s.power.i3cLatch a >>> (8 * (k - a))), s)

/-- Bytes read from the index upward. -/
def State.i3cRead (s : State) : Nat → List Byte → State
  | 0, bs => s.modPower fun p => { p with i3cOut := bs }
  | n + 1, bs =>
    let (b, s) := s.i3cByte s.power.i3cIndex.toNat
    (s.modPower fun p => { p with i3cIndex := p.i3cIndex + 1 }).i3cRead n (bs ++ [b])

/-- I3C_PRIVATE_READ. -/
def execI3cPrivateRead (n : Nat) (s : State) : Out := s.overI3c fun s => s.i3cRead n []

/-- Bytes written from an index: POWER_CAP takes effect with both bytes, CONTROL with its one. -/
def State.i3cWrite (s : State) : List Byte → State
  | [] => s
  | b :: bs =>
    let k := s.power.i3cIndex.toNat
    let s := s.modPower fun p => { p with i3cIndex := p.i3cIndex + 1 }
    match bs with
    | c :: _ =>
      if k = 0x16 then (s.writeCap (b.toNat + 256 * c.toNat)).i3cWrite bs
      else if k = 0x18 then (s.writeEmergency (b.getLsbD 0)).i3cWrite bs
      else s.i3cWrite bs
    | [] => if k = 0x18 then s.writeEmergency (b.getLsbD 0) else s

/-- I3C_PRIVATE_WRITE: the first byte sets the index; bytes after it are written from there. -/
def execI3cPrivateWrite (bytes : List Byte) (s : State) : Out :=
  match bytes with
  | [] => .next s
  | b :: bs => s.overI3c fun s => (s.modPower fun p => { p with i3cIndex := b }).i3cWrite bs

/-- The static address of R414: 0x48 and the two address lands as the cold reset sampled them. -/
def State.i3cStatic (s : State) : BitVec 7 := 0x48 + s.power.i3cLands.setWidth 7

/-- The 48-bit provisional ID: its low half is SERIAL[31:0]; its high half is left open (R398, log entry 36). -/
def State.i3cPid (s : State) : BitVec 48 := Config.pidHigh ++ BitVec.ofNat 32 s.fuses.serial

/-- I3C_ADDRESS_ASSIGN: ENTDAA, in which the target shows its provisional ID, or SETDASA from its static address. -/
def execI3cAddressAssign (addr : BitVec 7) (byStatic : Option (BitVec 7)) (s : State) : Out :=
  s.overI3c fun s =>
    match byStatic with
    | none => s.modPower fun p => { p with i3cAddr := some addr, i3cPid := some s.i3cPid }
    | some a => if a = s.i3cStatic then s.modPower fun p => { p with i3cAddr := some addr } else s

end Sys2Proof.Machine
end

