-- ==== Sys2Proof/Machine/Kernels.lean ====
section
/-! DEFINITION. The K class: the fused kernels `fnb` and `fsb` (R131–R136). -/

namespace Sys2Proof.Machine

/-! ### FP32 intermediates (R133) -/

/-- A value rounded to FP32, with the flushing of the mode. -/
def toFp32 (strict : Bool) (v : FVal) : FVal := readElement strict .fp32 (result strict .fp32 v).bits

/-- An FP32 product. -/
def mulFp32 (strict : Bool) (a b : FVal) : FVal := toFp32 strict (mulVal strict a b)

/-- An FP32 difference. -/
def subFp32 (strict : Bool) (a b : FVal) : FVal := toFp32 strict (addVal strict a b.negate)

/-- An FP32 division: within 2 ulp in fast mode, correctly rounded in strict mode (R47). -/
def divFp32 (strict : Bool) (a b : FVal) : FVal :=
  let r := divVal strict a b
  let e :=
    if strict then result strict .fp32 r.1 r.2
    else resultWithin 2 (Config.ulpOffset 0x38 32 (fp32Bits strict a) (fp32Bits strict b)) strict .fp32 r.1 r.2
  readElement strict .fp32 e.bits

/-! ### The checks of R134 -/

/-- Do the tiles a kernel uses agree in one of the three formats and in row length? -/
def kernelShape (ts : List Tile) : Option Fmt :=
  match ts with
  | [] => none
  | t :: _ =>
    match Fmt.ofCode t.fmt with
    | some f =>
      if ts.all Tile.configured && (f = .fp32 || f = .bf16 || f = .fp16) &&
          ts.all (fun x => x.fmt == t.fmt && x.len == t.len) then some f
      else none
    | none => none

/-- The elements of a row of a tile in one of the three formats. -/
def kernelRow (strict : Bool) (f : Fmt) (t : Tile) (r : Nat) : List FVal :=
  (unpack f.width (f.elements t.len) (t.row r).val.toNat).map (readElement strict f)

/-- The FP32 lanes of a vector register. -/
def fp32Lanes (strict : Bool) (v : VData) : List FVal := (lanesOf .fp32 v).map (readElement strict .fp32)

/-- Lane `j`. -/
def laneAt (vs : List FVal) (j : Nat) : FVal := vs.getD j (FVal.zero false)

/-- A row sum added to its lane (R133); `op` names the tree. -/
def addRow (strict : Bool) (op : Nat) (lane : FVal) (vs : List FVal) : Elt :=
  result strict .fp32 (addVal strict lane (treeSum (addFp32 strict) 10 (treeLeaves op vs)))

/-- A sum over rows added to an accumulator word; the order is open (log entry 19). -/
def addRows (strict : Bool) (op : Nat) (word : FVal) (vs : List FVal) : Elt :=
  if Config.rowsInTurn then
    let v := (treeLeaves op vs).foldl (addFp32 strict) word
    result strict .fp32 v
  else result strict .fp32 (addVal strict word (treeSum (addFp32 strict) 6 (treeLeaves op vs)))

/-- Rows written to TD by APPLY, converted (R54); their events count under TD's format unless marked. -/
def applyRows (i : At) (td : Nat) (f : Fmt) (rows : List (Nat × List FVal × Bool)) (s : State) : State :=
  let t := s.stream i
  let conv (k : Nat) (vs : List FVal) : List Elt := vs.zipIdx.map fun p => convert (t.ctl (s.free + 512 * k + p.2)) f p.1
  let out := rows.zipIdx.map fun p => (p.1.1, conv p.2 p.1.2.1, p.1.2.2)
  let tile := out.foldl
    (fun x p => x.setRow p.1 (BitVec.ofNat 4096 (pack f.width (p.2.1.map Elt.bits))) p.2.2)
    ((s.core i.core).img.tile td)
  let s := (s.setTile i.core td tile).event i.core (some i.stream) evBlazeWritten (out.filter fun p => p.2.2).length
  (s.nonFinite i (nfPlace f)
    ((out.map fun p => if p.2.2 then 0 else (p.2.1.filter Elt.nf).length).foldl (· + ·) 0)).draw (512 * rows.length)

/-! ### `fnb` -/

/-- The accumulator words that STAT of `fnb` writes: the gain gradient at c, the bias gradient at 256 + c. -/
def fnbWords (strict : Bool) (acc : Acc) (xs ys : List (List FVal)) (e : Nat) : List (Nat × Elt) :=
  let col (rows : List (List FVal)) (c : Nat) : List FVal := rows.map fun r => laneAt r c
  let word (w : Nat) : FVal := readElement strict .fp32 (acc.word w).toNat
  let gain := (List.range e).map fun c =>
    (c, addRows strict 0x180 (word c) (((col ys c).zip (col xs c)).map fun p => mulFp32 strict p.1 p.2))
  let bias := (List.range e).map fun c => (256 + c, addRows strict 0x280 (word (256 + c)) (col ys c))
  gain ++ bias

/-- The segments of 32 words that hold words of a list. -/
def segmentsOf (ws : List Nat) : List Nat := (List.range 32).filter fun g => ws.any fun w => w / 32 == g

/-- `fnb` in STAT mode (Table 5.7, R136). Each 32-word segment of the accumulator is judged alone (DESIGN CHOICE, log
entry 116). -/
def fnbStat (i : At) (o : FnbOp) (f : Fmt) (s : State) : State :=
  let t := s.stream i
  let m := (s.core i.core).img
  let tx := m.tile o.tx.toNat
  let tg := m.tile o.tg.toNat
  let n := o.countM1.toNat + 1
  let r0 := o.row0.toNat
  let gamma := kernelRow t.strict f (m.tile o.tp.toNat) o.grow.toNat
  let rows := (List.range n).map (· + r0)
  let xs := rows.map (kernelRow t.strict f tx)
  let ys := rows.map (kernelRow t.strict f tg)
  let gs := ys.map fun y => (y.zip gamma).map fun p => mulFp32 t.strict p.1 p.2
  let vS := t.vreg o.vS
  let old := lanesOf .fp32 vS.val
  let lane (k : Nat) : Nat :=
    let l := readElement t.strict .fp32 (old.getD k 0)
    if 2 * n ≤ k then old.getD k 0
    else if k % 2 = 0 then (addRow t.strict 0x80 l (gs.getD (k / 2) [])).bits
    else (addRow t.strict 0x80 l (((gs.getD (k / 2) []).zip (xs.getD (k / 2) [])).map fun p =>
      mulFp32 t.strict p.1 p.2)).bits
  let marked := rows.any fun r => (tx.row r).bz || (tg.row r).bz
  let acc := m.acc o.acc.toNat
  let ws := fnbWords t.strict acc xs ys (f.elements tx.len)
  let segs := (segmentsOf (ws.map Prod.fst)).map fun g => (g, acc.seg g || marked)
  let acc' := (acc.setWords (ws.map fun p => (p.1, BitVec.ofNat 32 p.2.bits))).setSegs segs
  let s := s.putV i o.vS (ofLanes .fp32 ((List.range 64).map lane)) (vS.bz || marked)
  let s := (s.setAcc i.core o.acc.toNat acc').event i.core (some i.stream) evBlazeWritten
    (segs.filter Prod.snd).length
  s.nonFinite i 0 ((ws.filter fun p => p.2.nf && !(acc'.seg (p.1 / 32))).length)

/-- `fnb` in APPLY mode (Table 5.7). -/
def fnbApply (i : At) (o : FnbOp) (f : Fmt) (s : State) : State :=
  let t := s.stream i
  let st := t.strict
  let m := (s.core i.core).img
  let tx := m.tile o.tx.toNat
  let tg := m.tile o.tg.toNat
  let tp := m.tile o.tp.toNat
  let gamma := kernelRow st f tp o.grow.toNat
  let h := toFp32 st (FVal.ofInt (t.sreg o.sH).val.toNat)
  let sums := fp32Lanes st (t.vreg o.vS).val
  let recs := fp32Lanes st (t.vreg o.vR).val
  let row (j : Nat) : Nat × List FVal × Bool :=
    let r := o.row0.toNat + j
    let mean := divFp32 st (laneAt sums (2 * j)) h
    let els := ((kernelRow st f tx r).zip ((kernelRow st f tg r).zip gamma)).map fun p =>
      let g := mulFp32 st p.2.1 p.2.2
      let g0 := if o.kind then g else subFp32 st g mean
      let corr := divFp32 st (mulFp32 st p.1 (laneAt sums (2 * j + 1))) h
      mulFp32 st (laneAt recs j) (subFp32 st g0 corr)
    (r, els, (tx.row r).bz || (tg.row r).bz || (tp.row o.grow.toNat).bz || (t.vreg o.vS).bz || (t.vreg o.vR).bz)
  applyRows i o.td.toNat f ((List.range (o.countM1.toNat + 1)).map row) s

/-- The cycles that a kernel occupies the vector engine: COUNT × ceil(E / W) (R135). -/
def kernelCycles (f : Fmt) (len n : Nat) : Nat :=
  let w := if f = .fp32 then 64 else 128
  n * ((f.elements len + (w - 1)) / w)

/-- `fnb`: a marked sH bites; R134 faults; R64 orders it on the tiles and the accumulator it uses. -/
def execFnb (i : At) (o : FnbOp) (s : State) : Out :=
  issueOn .vector i s fun s =>
    let m := (s.core i.core).img
    let used := [o.tx.toNat, o.tg.toNat] ++ (if o.mode then [o.td.toNat] else []) ++ [o.tp.toNat]
    let n := o.countM1.toNat + 1
    s.unheld i used fun s =>
      if ((s.stream i).sreg o.sH).bz then .fault codeBlazeBite 0
      else match kernelShape (used.map m.tile) with
        | none => .fault codeTileBounds 0
        | some f =>
          let busy := Eff.vectorBusy i (kernelCycles f (m.tile o.tx.toNat).len n)
          if used.any (fun t => decide ((m.tile t).rows < o.row0.toNat + n)) then .fault codeTileBounds 0
          else if (m.tile o.tp.toNat).rows ≤ o.grow.toNat then .fault codeTileBounds 0
          else if o.mode then
            s.ordered i [o.tx.toNat, o.tg.toNat, o.tp.toNat] [o.td.toNat] [] fun s => busy (.done (fnbApply i o f s))
          else
            s.ordered i [o.tx.toNat, o.tg.toNat, o.tp.toNat] [] [o.acc.toNat] fun s => busy (.done (fnbStat i o f s))

/-! ### `fsb` -/

/-- `fsb` in STAT mode. -/
def fsbStat (i : At) (o : FsbOp) (f : Fmt) (s : State) : State :=
  let t := s.stream i
  let st := t.strict
  let m := (s.core i.core).img
  let ty := m.tile o.ty.toNat
  let tg := m.tile o.tg.toNat
  let n := o.countM1.toNat + 1
  let vS := t.vreg o.vS
  let old := lanesOf .fp32 vS.val
  let lane (k : Nat) : Nat :=
    if n ≤ k then old.getD k 0
    else
      let r := o.row0.toNat + k
      (addRow st 0x81 (readElement st .fp32 (old.getD k 0))
        (((kernelRow st f tg r).zip (kernelRow st f ty r)).map fun p => mulFp32 st p.1 p.2)).bits
  let marked := (List.range n).any fun j => (ty.row (o.row0.toNat + j)).bz || (tg.row (o.row0.toNat + j)).bz
  s.putV i o.vS (ofLanes .fp32 ((List.range 64).map lane)) (vS.bz || marked)

/-- `fsb` in APPLY mode: (s · y) · (dy − vS[j]). -/
def fsbApply (i : At) (o : FsbOp) (f : Fmt) (s : State) : State :=
  let t := s.stream i
  let st := t.strict
  let m := (s.core i.core).img
  let ty := m.tile o.ty.toNat
  let tg := m.tile o.tg.toNat
  let sC := t.sreg o.sC
  let scale := readElement st .fp32 (sC.val.toNat % 2 ^ 32)
  let sums := fp32Lanes st (t.vreg o.vS).val
  let row (j : Nat) : Nat × List FVal × Bool :=
    let r := o.row0.toNat + j
    let els := ((kernelRow st f ty r).zip (kernelRow st f tg r)).map fun p =>
      mulFp32 st (mulFp32 st scale p.1) (subFp32 st p.2 (laneAt sums j))
    (r, els, (ty.row r).bz || (tg.row r).bz || (t.vreg o.vS).bz || sC.bz)
  applyRows i o.td.toNat f ((List.range (o.countM1.toNat + 1)).map row) s

/-- `fsb`. -/
def execFsb (i : At) (o : FsbOp) (s : State) : Out :=
  issueOn .vector i s fun s =>
    let m := (s.core i.core).img
    let used := [o.ty.toNat, o.tg.toNat] ++ (if o.mode then [o.td.toNat] else [])
    let n := o.countM1.toNat + 1
    s.unheld i used fun s =>
      match kernelShape (used.map m.tile) with
      | none => .fault codeTileBounds 0
      | some f =>
        let busy := Eff.vectorBusy i (kernelCycles f (m.tile o.ty.toNat).len n)
        if used.any (fun t => decide ((m.tile t).rows < o.row0.toNat + n)) then .fault codeTileBounds 0
        else if o.mode then
          s.ordered i [o.ty.toNat, o.tg.toNat] [o.td.toNat] [] fun s => busy (.done (fsbApply i o f s))
        else s.ordered i [o.ty.toNat, o.tg.toNat] [] [] fun s => busy (.done (fsbStat i o f s))

end Sys2Proof.Machine
end

