-- ==== Sys2Proof/Machine/Update.lean ====
section
/-! DEFINITION. The P class: `gset`, the updates, the Tally table and `upd.commit` (R146–R171). -/

namespace Sys2Proof.Machine

/-! ### Counters (Table 6.11) and stack access -/

/-- A field of UPD_STATUS counted, saturating (R171). -/
def State.updCount (s : State) (c lo : Nat) : State :=
  s.modImg c fun m =>
    let w := m.updStatus.toNat
    { m with updStatus := BitVec.ofNat 64 (setBits (lo + 15) lo w (min (bits (lo + 15) lo w + 1) 65535)) }

/-- The first 64-byte unit of a range, in order of address, that a core reads marked: in the stack, or on the way (R236). -/
def State.blazedIn (s : State) (c pa n : Nat) : Option Nat :=
  ((unitsOf 64 pa n).map (64 * ·)).find? fun a => s.memMark a 1 || s.readBad c (a / 64)

/-- A core's read of bytes at their stack; their replies come to it. -/
def State.coreTouch (s : State) (c pa n : Nat) : State := (s.touch pa n).replied c (unitsOf 64 pa n)

/-- A core's write of bytes at their stack: a line whose packet was marked on its way is left marked (R236). -/
def State.coreWrite (s : State) (c pa : Nat) (bs : List Byte) : State :=
  (unitsOf 64 pa bs.length).foldl (fun s l => s.writeMark c l) (s.memWrite pa bs false)

/-! ### One element (R146) -/

/-- The square root's reciprocal and the reciprocal, with the accuracy of R47 in the mode. -/
def rsqrtFp32 (strict : Bool) (a : FVal) : FVal :=
  let r := rsqrtVal strict a
  readElement strict .fp32
    (resultWithin (if strict then 1 else 2) (Config.ulpOffset 0x3B 32 (fp32Bits strict a) 0) strict .fp32 r.1 r.2).bits

/-- The reciprocal. -/
def rcpFp32 (strict : Bool) (a : FVal) : FVal :=
  let r := divVal strict oneVal a
  let e := if strict then result strict .fp32 r.1 r.2
    else resultWithin 2 (Config.ulpOffset 0x3A 32 (fp32Bits strict a) 0) strict .fp32 r.1 r.2
  readElement strict .fp32 e.bits

/-- sgn: +1.0, −1.0, +0 for either zero, a NaN kept. -/
def sgnVal (strict : Bool) (q : FVal) : FVal :=
  if q.isNan then nanOf strict [q]
  else if q.isZero then .zero false
  else if q.neg? then oneVal.negate
  else oneVal

/-- What the recurrence gives one element: w′, m′ and v′. -/
structure UpdOut where
  w : FVal
  m : FVal
  v : FVal

/-- An FP32 constant of a descriptor. -/
def Gdesc.f32 (d : Gdesc) (strict : Bool) (n : Nat) : FVal := readElement strict .fp32 (d.word n)

/-- 1 − η·λ, computed once per instruction. -/
def Gdesc.keep (d : Gdesc) (strict : Bool) : FVal :=
  subFp32 strict oneVal (mulFp32 strict (d.f32 strict 9) (d.f32 strict 10))

/-- The pseudocode of R146 for one element with g′ given. Where the clip bound h is a NaN, −h keeps its sign, which the
manual does not say (DESIGN CHOICE, log entry 115). -/
def updElement (strict : Bool) (d : Gdesc) (keep gp w m v : FVal) : UpdOut :=
  let c (n : Nat) : FVal := d.f32 strict n
  let mul := mulFp32 strict
  let add := addFp32 strict
  let mp := add (mul (c 0) m) (mul (c 1) gp)
  let vp := add (mul (c 2) v) (mul (c 3) (mul gp gp))
  let n := add (mul (c 4) mp) (mul (c 5) gp)
  let den := add (mul (c 6) vp) (c 7)
  let dd := match d.ctrl 1 0 with
    | 0 => oneVal
    | 1 => rsqrtFp32 strict den
    | _ => rcpFp32 strict den
  let q := mul n dd
  let h := c 8
  let u := match d.ctrl 3 2 with
    | 0 => q
    | 1 => sgnVal strict q
    | _ => minVal strict (maxVal strict q h.negate) h
  ⟨subFp32 strict (mul w keep) (mul (c 9) u), mp, vp⟩

/-! ### Stored values (R148, R151, R162) -/

/-- Elements of an unscaled format at an address, decoded to FP32 (R148); FP32 and FP16 subnormals read as zero in fast mode
(R47, Table 2.7). -/
def State.elemsAt (s : State) (strict : Bool) (f : Fmt) (pa n : Nat) : List FVal :=
  (unpack f.width n (s.memNat pa (n * elemBytes f))).map fun w => toFp32 strict (readElement strict f w)

/-- Elements of a moment: `n` of block `b`, as FP32 values. A block-scaled one beyond the range of FP32, of which the manual
does not speak, rounds to infinity (R162; DESIGN CHOICE, log entry 123). -/
def State.momentAt (s : State) (strict : Bool) (f : Fmt) (pa scalePa n : Nat) : List FVal :=
  if f.isMx then
    let sc := s.memNat scalePa 1
    (unpack 8 n (s.memNat pa n)).map fun w => toFp32 strict (scaledElement f sc w)
  else s.elemsAt strict f pa n

/-- The narrowing control of an update: the descriptor's RND, or the stream's mode (R54, R148). -/
def updCtl (t : Stream) (d : Gdesc) (free : Nat) : Ctl :=
  let c := t.ctl free
  match d.ctrl 26 25 with
  | 0 => c
  | 1 => { c with rmode := .rne }
  | 2 => { c with rmode := .rtz }
  | _ => { c with rmode := .sr (Config.rho free % 65536) }

/-- Values of an unscaled format stored from an address, with their non-finite events; draws from `free`. -/
def State.storeElems (s : State) (i : At) (d : Gdesc) (f : Fmt) (free pa : Nat) (vs : List FVal) : State :=
  let t := s.stream i
  let es := vs.zipIdx.map fun p => convert (updCtl t d (free + p.2)) f p.1
  let s := s.coreWrite i.core pa (bytesOf (vs.length * elemBytes f) (pack f.width (es.map Elt.bits)))
  s.nonFinite i (nfPlace f) (es.filter Elt.nf).length

/-- A moment stored: its elements, and for a block-scaled format its scale afresh (R162); a block written with scale 0xFF
counts as its 32 NaNs (R58). -/
def State.storeMoment (s : State) (i : At) (d : Gdesc) (f : Fmt) (free pa scalePa : Nat) (vs : List FVal) : State :=
  if f.isMx then
    let t := s.stream i
    let all := vs ++ List.replicate (32 - vs.length) (FVal.zero false)
    let r := encodeBlock (updCtl t d free) f (fun j => (updCtl t d (free + j)).rmode) all
    let s := (s.coreWrite i.core pa (bytesOf vs.length (pack 8 r.1))).coreWrite i.core scalePa (bytesOf 1 r.2.1)
    s.nonFinite i (nfPlace f) r.2.2
  else s.storeElems i d f free pa vs

/-- Where an update finds the arrays of a shard (R151). -/
structure UpdAddr where
  g : Int
  w : Int
  c : Int
  m : Int
  ms : Int
  v : Int
  vs : Int

/-- The gradient format (Table 6.2). -/
def Gdesc.gFmt (d : Gdesc) : Fmt := if bit 21 (d.word 11) then .bf16 else .fp32

/-- Formats of a valid descriptor. -/
def Gdesc.w! (d : Gdesc) : Fmt := d.wFmt.getD .fp32
def Gdesc.m! (d : Gdesc) : Fmt := (momentFmt (d.ctrl 11 8)).getD .fp32
def Gdesc.v! (d : Gdesc) : Fmt := (momentFmt (d.ctrl 15 12)).getD .fp32
def Gdesc.c! (d : Gdesc) : Fmt := (copyFmt (d.ctrl 19 16)).getD .fp32
def Gdesc.copy (d : Gdesc) : Bool := bit 20 (d.word 11)
def Gdesc.mEn (d : Gdesc) : Bool := bit 22 (d.word 11)
def Gdesc.vEn (d : Gdesc) : Bool := bit 23 (d.word 11)
def Gdesc.gclr (d : Gdesc) : Bool := bit 27 (d.word 11)
def Gdesc.nfSkip (d : Gdesc) : Bool := bit 28 (d.word 11)
def Gdesc.ovfFault (d : Gdesc) : Bool := bit 29 (d.word 11)

/-- Addresses of block `b` of a shard under a descriptor. -/
def updAddr (e : Shard) (d : Gdesc) (b : Nat) : UpdAddr :=
  let i : Int := 32 * b
  let base : Int := e.base
  let mom (f : Fmt) : Int := i * (elemBytes f : Int)
  ⟨base + d.off 17 + i * elemBytes d.gFmt, base + d.off 12 + i * elemBytes d.w!, base + i * elemBytes d.c!,
   base + d.off 13 + mom d.m!, base + d.off 14 + b, base + d.off 15 + mom d.v!, base + d.off 16 + b⟩

/-- Do `n` bytes from an address lie in a stack (R24)? -/
def inStack (st : Nat) (a : Int) (n : Nat) : Bool :=
  decide (((st * 2 ^ 36 : Nat) : Int) ≤ a) && decide (a + n ≤ (((st + 1) * 2 ^ 36 : Nat) : Int))

/-- Do the state addresses of a block lie in the owning stack (Table 6.7 case 8)? -/
def addrOk (e : Shard) (d : Gdesc) (n b : Nat) : Bool :=
  let a := updAddr e d b
  let st := e.stack
  inStack st a.g (n * elemBytes d.gFmt) && inStack st a.w (n * elemBytes d.w!) &&
  (!d.copy || inStack st a.c (n * elemBytes d.c!)) &&
  (!d.mEn || (inStack st a.m (n * elemBytes d.m!) && (!d.m!.isMx || inStack st a.ms 1))) &&
  (!d.vEn || (inStack st a.v (n * elemBytes d.v!) && (!d.v!.isMx || inStack st a.vs 1)))

/-- Elements of block `b`. -/
def Shard.blockLen (e : Shard) (b : Nat) : Nat := min 32 (e.elements - 32 * b)

/-! ### Blocks -/

/-- A gradient block as an instruction read it: its number, its bytes, the marks of its lines and its count. -/
structure GradRead where
  blk : Nat
  data : List Byte
  marks : List Bool
  count : Nat

/-- The read of a gradient block with its count, as one action with the clear of GCLR (R159). -/
def State.readGrad (s : State) (c : Nat) (d : Gdesc) (blk : Nat) : GradRead × State :=
  let ls := unitsOf 64 (256 * blk) 256
  let r : GradRead := ⟨blk, s.memBytes (256 * blk) 256, ls.map fun l => (s.lineView l).2 || s.readBad c l, s.accCount blk⟩
  let s := (s.touchLines ls).replied c ls
  (r, if d.gclr then s.clearBlock blk else s)

/-- What an update instruction does with its blocks. -/
structure UpdCtx where
  i : At
  e : Shard
  d : Gdesc
  gf : FVal
  keep : FVal
  skip : Bool

/-- The ranges that a block with a written result reads and then writes: address, bytes, and whether it is a write. -/
def updRanges (x : UpdCtx) (b : Nat) : List (Nat × Nat × Bool) :=
  let n := x.e.blockLen b
  let a := updAddr x.e x.d b
  let d := x.d
  let mom (on : Bool) (f : Fmt) (pa scalePa : Int) : List (Nat × Nat) :=
    if !on then [] else (pa.toNat, n * elemBytes f) :: (if f.isMx then [(scalePa.toNat, 1)] else [])
  let rs := (a.w.toNat, n * elemBytes d.w!) :: (mom d.mEn d.m! a.m a.ms ++ mom d.vEn d.v! a.v a.vs)
  let ws := rs ++ (if d.copy then [(a.c.toNat, n * elemBytes d.c!)] else [])
  rs.map (fun p => (p.1, p.2, false)) ++ ws.map (fun p => (p.1, p.2, true))

/-- The first of some ranges that no window of its stack permits (R334). -/
def State.firstShut (s : State) (x : UpdCtx) (rs : List (Nat × Nat × Bool)) : Option (Nat × Bool) :=
  (rs.find? fun p => p.2.1 != 0 && !s.memOk (masterTen (s.tenOf x.i.core)) p.1 p.2.1 p.2.2).map fun p => (p.1, p.2.2)

/-- A denied access of an update: recorded, and the stream stops at the block (R338; DEDUCED, log entry 104). -/
def State.updShut (s : State) (x : UpdCtx) (p : Nat × Bool) : State × Option (Nat × Nat) :=
  (s.memDenied (masterTen (s.tenOf x.i.core)) p.1 p.2, some (codeAccess, p.1))

/-- The first marked granule that an update reads for a block (R161). The manual gives no order among several: the order
here is gradient, w, m and its scale, v and its scale (DESIGN CHOICE, log entry 121). -/
def State.bite (s : State) (x : UpdCtx) (b : Nat) (r : GradRead) : Option Nat :=
  let n := x.e.blockLen b
  let a := updAddr x.e x.d b
  let d := x.d
  let g := ((unitsOf 64 a.g.toNat (n * elemBytes d.gFmt)).map (64 * ·)).find? fun p => r.marks.getD (p % 256 / 64) false
  let marked := s.blazedIn x.i.core
  let m := if d.mEn then
      (marked a.m.toNat (n * elemBytes d.m!)).orElse fun _ => if d.m!.isMx then marked a.ms.toNat 1 else none
    else none
  let v := if d.vEn then
      (marked a.v.toNat (n * elemBytes d.v!)).orElse fun _ => if d.v!.isMx then marked a.vs.toNat 1 else none
    else none
  g.orElse fun _ => (marked a.w.toNat (n * elemBytes d.w!)).orElse fun _ => m.orElse fun _ => v

/-- The reads of a block's stored state. -/
def State.touchBlock (s : State) (x : UpdCtx) (b : Nat) : State :=
  let n := x.e.blockLen b
  let a := updAddr x.e x.d b
  let d := x.d
  let c := x.i.core
  let s := s.coreTouch c a.w.toNat (n * elemBytes d.w!)
  let s := if d.mEn then s.coreTouch c a.m.toNat (n * elemBytes d.m!) else s
  let s := if d.mEn && d.m!.isMx then s.coreTouch c a.ms.toNat 1 else s
  let s := if d.vEn then s.coreTouch c a.v.toNat (n * elemBytes d.v!) else s
  if d.vEn && d.v!.isMx then s.coreTouch c a.vs.toNat 1 else s

/-- The new values of a block, from its g′. -/
def State.blockValues (s : State) (x : UpdCtx) (b : Nat) (gps : List FVal) : List UpdOut :=
  let t := s.stream x.i
  let st := t.strict
  let n := x.e.blockLen b
  let a := updAddr x.e x.d b
  let d := x.d
  let ws := s.elemsAt st d.w! a.w.toNat n
  let ms := if d.mEn then s.momentAt st d.m! a.m.toNat a.ms.toNat n else List.replicate n (FVal.zero false)
  let vs := if d.vEn then s.momentAt st d.v! a.v.toNat a.vs.toNat n else List.replicate n (FVal.zero false)
  ((gps.zip ws).zip (ms.zip vs)).map fun p => updElement st d x.keep p.1.1 p.1.2 p.2.1 p.2.2

/-- The writes of a block (R148); each block takes 128 draws. -/
def State.writeBlock (s : State) (x : UpdCtx) (b : Nat) (us : List UpdOut) : State :=
  let a := updAddr x.e x.d b
  let d := x.d
  let f := s.free
  let s := s.storeElems x.i d d.w! f a.w.toNat (us.map UpdOut.w)
  let s := if d.mEn then s.storeMoment x.i d d.m! (f + 32) a.m.toNat a.ms.toNat (us.map UpdOut.m) else s
  let s := if d.vEn then s.storeMoment x.i d d.v! (f + 64) a.v.toNat a.vs.toNat (us.map UpdOut.v) else s
  let s := if d.copy then s.storeElems x.i d d.c! (f + 96) a.c.toNat (us.map UpdOut.w) else s
  s.draw 128

/-- One block with its gradient read: skipped, written, denied or bitten (R147, R161, R170, R334). Under SKIP a block whose
count is zero does not count in SKIP_ZERO, which the manual does not say (DESIGN CHOICE, log entry 119). -/
def updBlock (x : UpdCtx) (b : Nat) (r : GradRead) (s : State) : State × Option (Nat × Nat) :=
  let t := s.stream x.i
  let st := t.strict
  let n := x.e.blockLen b
  if x.d.frozen || x.skip then (s, none)
  else if r.count = 0 then (s.updCount x.i.core 0, none)
  else
    let inv := divVal st oneVal (FVal.ofInt r.count)
    let sc := mulFp32 st x.gf (readElement st .fp32 (result st .fp32 inv.1 inv.2).bits)
    let off := (updAddr x.e x.d b).g.toNat % 256
    let f := x.d.gFmt
    let gs := (unpack f.width n (packBytes (r.data.drop off))).map (readElement st f)
    let gps := gs.map (mulFp32 st sc)
    if x.d.nfSkip && gps.any (fun g => g.isNan || g.isInf) then (s.updCount x.i.core 16, none)
    else match s.firstShut x (updRanges x b) with
      | some p => s.updShut x p
      | none =>
        let s' := s.touchBlock x b
        match s.bite x b r with
        | some a => (s', some (codeBlazeBite, a))
        | none => (s'.writeBlock x b (s.blockValues x b gps), none)

/-- The read of a gradient block that an instruction has not read yet, and the windows' answer to it (R159, R334). -/
def State.gradFor (s : State) (x : UpdCtx) (blk : Nat) (last : Option GradRead) : Option (Nat × Bool) × GradRead × State :=
  match last.filter fun r => r.blk == blk with
  | some r => (none, r, s)
  | none =>
    let rs := (256 * blk, 256, false) :: (if x.d.gclr then [(256 * blk, 256, true)] else [])
    match s.firstShut x rs with
    | some p => (some p, ⟨blk, [], [], 0⟩, s)
    | none => (none, s.readGrad x.i.core x.d blk)

/-- Blocks in order; each gradient block is read once by the instruction (R159, R161). A frozen group without GCLR reads
nothing (R148). Blocks after a bitten one are not touched, nor is their gradient read or cleared, which the manual does
not say (DESIGN CHOICE, log entry 122). -/
def updBlocks (x : UpdCtx) : List Nat → Option GradRead → State → State × Option (Nat × Nat)
  | [], _, s => (s, none)
  | b :: bs, last, s =>
    if x.d.frozen && !x.d.gclr then (s, none)
    else match s.gradFor x ((updAddr x.e x.d b).g.toNat / 256) last with
      | (some p, _, s) => s.updShut x p
      | (none, r, s) =>
        match updBlock x b r s with
        | (s, some a) => (s, some a)
        | (s, none) => updBlocks x bs (some r) s

/-! ### Checks (Table 6.7) -/

/-- Cases 2 and 3 for a shard that must be owned by the core's home stack. -/
def State.shardFault (s : State) (i : At) (e : Shard) (home : Bool) : Option Nat :=
  if !s.shardOk (s.tenOf i.core) e then some codeAccess
  else if home && decide (s.homeStack i.core ≠ e.stack) then some codeAccess
  else none

/-- Does a halted node cut a core off from some of the state of an update's blocks (R236)? -/
def State.blocksCut (s : State) (c : Nat) (e : Shard) (d : Gdesc) (bs : List Nat) : Bool :=
  !s.noc.halted.isEmpty && bs.any fun b =>
    let a := updAddr e d b
    let n := e.blockLen b
    let cut (on : Bool) (f : Fmt) (pa : Int) : Bool := on && s.cutOffAny c pa.toNat (n * elemBytes f)
    cut true d.gFmt a.g || cut true d.w! a.w || cut d.copy d.c! a.c || cut d.mEn d.m! a.m ||
      (d.mEn && d.m!.isMx && s.cutOff c a.ms.toNat) || cut d.vEn d.v! a.v || (d.vEn && d.v!.isMx && s.cutOff c a.vs.toNat)

/-- The reads of a shard-map entry and of a descriptor by an instruction. -/
def State.touchTables (s : State) (e : Shard) (g : Option Nat) : State :=
  let s := s.touch e.pa 32
  match g with
  | some pa => s.touch pa 128
  | none => s

/-- What holds back an instruction's requests for the tables and the state of a shard (R96, R176, R187, R236, R238). -/
def State.tablesHeld (s : State) (i : At) (e : Shard) (gpa : Nat) : Option Cause :=
  ((s.requestHeld i e.pa).or (s.requestHeld i gpa)).or (s.requestHeld i e.base)

/-- Cases 2 to 5 of an update, with the descriptor. -/
def updCheck (i : At) (e : Shard) (d : Gdesc) (s : State) : Option (Nat × Nat) :=
  match s.shardFault i e true with
  | some c => some (c, 0)
  | none =>
    match d.blazedAt with
    | some a => some (codeBlazeBite, a)
    | none => if d.valid then none else some (codeTileBounds, 0)

/-- An update of blocks of a shard, once its checks have passed (R156, R170). Its cycles of the vector engine are not
given: they are open (Table 17.5; log entry 124). -/
def runUpdate (i : At) (e : Shard) (d : Gdesc) (sc : Word) (bs : List Nat) (s : State) : State × Option (Nat × Nat) :=
  let st := (s.stream i).strict
  let skip := bit 32 sc.toNat
  let n := Config.number s.free
  let s := (((s.draw 1).request i.core 1).event i.core (some i.stream) evVector n).occupyVector i.core n
  let s := if skip then s.updCount i.core 32 else s
  updBlocks ⟨i, e, d, readElement st .fp32 (sc.toNat % 2 ^ 32), d.keep st, skip⟩ bs none s

/-- `upd`. -/
def execUpd (i : At) (sShard sBlk sSc : SReg) (countM1 : BitVec 4) (s : State) : Out :=
  issueOn .vector i s fun s =>
    let t := s.stream i
    let a := t.sreg sShard
    let b := t.sreg sBlk
    let c := t.sreg sSc
    if a.bz || b.bz || c.bz then .fault codeBlazeBite 0
    else
      let e := s.shard (a.val.toNat % 65536)
      let d := s.gdesc e.group
      let n := countM1.toNat + 1
      match s.tablesHeld i e d.pa with
      | some c => .stall s c
      | none => match updCheck i e d s with
        | some (code, addr) => .fault code addr
        | none =>
          if e.blocks < b.val.toNat + n then .fault codeTileBounds 0
          else
            let bs := (List.range n).map (· + b.val.toNat)
            if !bs.all (fun k => addrOk e d (e.blockLen k) k) then .fault codeAccess 0
            else if s.blocksCut i.core e d bs then .stall s .memLimit
            else
              match runUpdate i e d c.val bs (s.touchTables e (some d.pa)) with
              | (s, none) => .done s
              | (s, some f) => .faultAfter s f.1 f.2

/-! ### The Tally table (R163–R169) -/

/-- The marks of a stack's unit. -/
def State.marks (s : State) (st : Nat) : List Mark := SMap.get [] s.tally.marks st

/-- The marks of a unit replaced. -/
def State.setMarks (s : State) (st : Nat) (ms : List Mark) : State :=
  { s with tally := { s.tally with marks := SMap.put s.tally.marks st ms } }

/-- Is a group's overflow flag set in a unit? -/
def State.tallyOvf (s : State) (st g : Nat) : Bool := NSet.has s.tally.ovf (4096 * st + g)

/-- Entries of a unit (R163). -/
def tallyEntries : Nat := 131072

/-- Is a row in part `q` of `p`? -/
def inPart (p q r : Nat) : Bool := if p = 0 then Config.zeroPart r q else r % p == q

/-- Does a walk treat the row as marked (R165, R167)? -/
def State.rowMarked (s : State) (e : Shard) (j r : Nat) : Bool :=
  s.tallyOvf e.stack e.group || (s.marks e.stack).any fun m => m.shard == j && m.row == r

/-- The smallest marked row of the part from `r` on; `k` rows are looked at. -/
def State.nextRow (s : State) (e : Shard) (j p q : Nat) : Nat → Nat → Option Nat
  | 0, _ => none
  | k + 1, r => if inPart p q r && s.rowMarked e j r then some r else s.nextRow e j p q k (r + 1)

/-- The row and block at which a walk continues (R165 step 1). -/
def State.walkFromCursor (s : State) (e : Shard) (j p q cur : Nat) : Option (Nat × Nat) :=
  let r := bits 31 0 cur
  if r < e.rows && inPart p q r && s.rowMarked e j r then some (r, bits 47 32 cur)
  else (s.nextRow e j p q (e.rows - (r + 1)) (r + 1)).map fun r => (r, 0)

/-- Update blocks of row `r`. -/
def Shard.rowBlocks (e : Shard) (r : Nat) : Nat := min (e.rowLen / 32) (e.blocks - r * (e.rowLen / 32))

/-- Is a walk's entry one of a row? -/
def TallyWalk.isAt (w : TallyWalk) (st j r : Nat) : Bool := w.stack == st && w.mark.shard == j && w.mark.row == r

/-- A row's mark cleared as a walk completes the row; a mark that came for it meanwhile remains (R166). -/
def State.clearRow (s : State) (st j r : Nat) : State :=
  let again := s.tally.walks.any fun w => w.isAt st j r && w.again
  let s := { s with tally := { s.tally with walks := s.tally.walks.filter fun w => !w.isAt st j r } }
  if again then s else s.setMarks st ((s.marks st).filter fun m => !(m.shard == j && m.row == r))

/-- A walk takes a row from its first block: what an abandoned walk left there, and the mark that came after it, are now this
walk's (R166). -/
def State.takeRow (s : State) (st j : Nat) : Option (Nat × Nat) → State
  | some (r, 0) => { s with tally := { s.tally with walks := s.tally.walks.filter fun w => !w.isAt st j r } }
  | _ => s

/-- A walk stands in a row that it has not completed. -/
def State.standIn (s : State) (st : Nat) (m : Mark) : State :=
  if s.tally.walks.any fun w => w.isAt st m.shard m.row then s
  else { s with tally := { s.tally with walks := s.tally.walks ++ [⟨st, m, false⟩] } }

/-- The cursor that says a walk is complete. -/
def cursorDone : Word := BitVec.allOnes 64

/-- The walk of `upd.tally` once its first checks have passed (R165, R167). A cursor whose BLOCK is at or past the blocks of
its marked row faults with TILE_BOUNDS, and a next block past 65,535 runs into bits [63:48] of the cursor: R165 says neither
(DESIGN CHOICE, log entry 141). -/
def tallyWalk (i : At) (e : Shard) (d : Gdesc) (j : Nat) (sCur : SReg) (cur sc part : Word) (cnt : Nat)
    (s : State) : Eff :=
  let p := bits 15 0 part.toNat
  let q := bits 31 16 part.toNat
  let target := s.walkFromCursor e j p q cur.toNat
  let bs := match target with
    | some (r, b) => (List.range (min cnt (e.rowBlocks r - b))).map (· + r * (e.rowLen / 32) + b)
    | none => []
  if e.rowLen % 32 ≠ 0 then .fault codeTileBounds 0
  else if (match target with
      | some (r, b) => decide (e.rowBlocks r ≤ b)
      | none => false) then .fault codeTileBounds 0
  else if !bs.all (fun k => addrOk e d (e.blockLen k) k) then .fault codeAccess 0
  else if d.ovfFault && s.tallyOvf e.stack e.group then .fault codeTallyOverflow 0
  else if s.blocksCut i.core e d bs then .stall s .memLimit
  else
    let s := (s.touchTables e (some d.pa)).takeRow e.stack j target
    let s := if cur = 0 && s.tallyOvf e.stack e.group then s.updCount i.core 48 else s
    match runUpdate i e d sc bs s with
    | (s, some f) => .faultAfter s f.1 f.2
    | (s, none) =>
      match target with
      | none => .done (s.putS i sCur cursorDone false)
      | some (r, b) =>
        if e.rowBlocks r ≤ b + bs.length then
          .done ((s.clearRow e.stack j r).putS i sCur (BitVec.ofNat 64 (r + 1)) false)
        else .done ((s.standIn e.stack ⟨j, r, e.group⟩).putS i sCur (BitVec.ofNat 64 (r + 2 ^ 32 * (b + bs.length))) false)

/-- `upd.tally`. The walk reads the Tally unit at once, behind none of the marks that its core has on their way: the spec
names no path for it (DESIGN CHOICE, log entry 149). -/
def execUpdTally (i : At) (sShard sCur sSc sPart : SReg) (countM1 : BitVec 4) (s : State) : Out :=
  issueOn .vector i s fun s =>
    let t := s.stream i
    let a := t.sreg sShard
    let cur := t.sreg sCur
    let c := t.sreg sSc
    let part := t.sreg sPart
    if a.bz || cur.bz || c.bz || part.bz then .fault codeBlazeBite 0
    else
      let j := a.val.toNat % 65536
      let e := s.shard j
      let d := s.gdesc e.group
      match s.tablesHeld i e d.pa with
      | some c => .stall s c
      | none => match updCheck i e d s with
        | some (code, addr) => .fault code addr
        | none => tallyWalk i e d j sCur cur.val c.val part.val (countM1.toNat + 1) s

/-- Marks put on their way, each as a message. -/
def State.sendMarkMsgs (s : State) (ms : List MarkMsg) : State :=
  let n := s.noc.nextId
  { s with tally := { s.tally with msgs := s.tally.msgs ++ ms.zipIdx.map fun p => { p.1 with id := n + p.2 } }
           noc := { s.noc with nextId := n + ms.length } }

/-- Marks sent to the shard's unit (R164): rows, and whether their indices are marked. While the core has 16 messages in the
control plane, the stream waits under SYNC (R241; log entry 138). -/
def sendMarks (i : At) (j : Nat) (rows : List Nat) (bz : Bool) (s : State) : Eff :=
  let e := s.shard j
  match s.requestHeld i e.pa with
  | some c => .stall s c
  | none => match s.shardFault i e false with
    | some c => .fault c 0
    | none =>
      if !bz && rows.any (fun r => decide (e.rows ≤ r)) then .fault codeTileBounds 0
      else if s.planeFull i.core then .stall s .sync
      else
        .done (((s.touchTables e none).request i.core 1).sendMarkMsgs
          (rows.map fun r => { stack := e.stack, mark := ⟨j, r, e.group⟩, bz := bz, src := i }))

/-- `tally.add`. -/
def execTallyAdd (i : At) (sShard sRow : SReg) (s : State) : Out :=
  issue i s fun s =>
    let t := s.stream i
    let r := t.sreg sRow
    sendMarks i ((t.sreg sShard).val.toNat % 65536) [r.val.toNat] r.bz s

/-- `tally.addv`: the INT32 lanes of va that the predicate names, each read as an unsigned row number (DESIGN CHOICE, log
entry 154). -/
def execTallyAddv (i : At) (sShard : SReg) (va : VReg) (pred : BitVec 4) (pneg : Bool) (s : State) : Out :=
  issue i s fun s =>
    let t := s.stream i
    match predMask t pred pneg with
    | none => .illegal
    | some mask =>
      let v := t.vreg va
      let rows := ((lanesOf .int32 v.val).zipIdx.filter fun p => laneOn mask (4 * p.2)).map Prod.fst
      sendMarks i ((t.sreg sShard).val.toNat % 65536) rows v.bz s

/-- A mark for a row that a walk stands in is one of the next walk (R166). -/
def State.markAgain (s : State) (x : MarkMsg) : State :=
  let mark (w : TallyWalk) : TallyWalk :=
    if w.isAt x.stack x.mark.shard x.mark.row then { w with again := true } else w
  { s with tally := { s.tally with walks := s.tally.walks.map mark } }

/-- A mark at its unit: dropped, known already, stored, or refused (R163, R164, R166). -/
def State.takeMark (s : State) (x : MarkMsg) : State :=
  let off := memBase x.stack + 0x8000
  let ms := s.marks x.stack
  let s := if x.bz then s else s.markAgain x
  if x.bz then s.count off 63 48 1
  else if ms.any (fun m => m.shard == x.mark.shard && m.row == x.mark.row) then s
  else if ms.length < tallyEntries then s.setMarks x.stack (ms ++ [x.mark])
  else
    { (s.count off 47 32 1) with
      tally := { s.tally with ovf := NSet.add s.tally.ovf (4096 * x.stack + x.mark.group) } }

/-- Is a mark of a core still on its way to a stack's unit? -/
def marksOut (ms : List MarkMsg) (core st : Nat) : Bool := ms.any fun m => m.src.core == core && m.stack == st

/-- Can a mark not be at its unit: behind an earlier one of its path, not accepted by the control plane, still travelling, or
cut off by a halted node (R32, R236, R241)? -/
def State.markWaits (s : State) (n : Nat) (x : MarkMsg) : Bool :=
  marksOut (s.tally.msgs.take n) x.src.core x.stack || !s.accepted (.mark x.id) ||
  s.onWay (.control (.mark x.id)) none || s.cut (s.msgEntry (.mark x.id))

/-- TALLY_MARK_ARRIVAL: mark `n` of those on their way arrives. -/
def execTallyMarkArrival (n : Nat) (s : State) : Out :=
  match s.tally.msgs[n]? with
  | none => .next s
  | some x =>
    if s.markWaits n x then .next s
    else .next (({ s with tally := { s.tally with msgs := s.tally.msgs.eraseIdx n } }.takeOut (.control (.mark x.id))).takeMark x)

/-- `tally.clr`: the marks of a group and its overflow flag in the home stack's unit (R168). It comes there behind the
core's own marks for that unit, and waits for them under SYNC (R32; log entry 138). -/
def execTallyClr (i : At) (sGrp : SReg) (s : State) : Out :=
  issue i s fun s =>
    let g := (s.stream i).sreg sGrp
    let n := g.val.toNat % 4096
    if g.bz then .fault codeBlazeBite 0
    else if !s.groupOk (s.tenOf i.core) n then .fault codeAccess 0
    else if marksOut s.tally.msgs i.core (s.homeStack i.core) || s.planeFull i.core then .stall s .sync
    else
      let st := s.homeStack i.core
      let s := s.setMarks st ((s.marks st).filter fun m => m.group != n)
      .done { s with tally := { s.tally with
        ovf := NSet.sub s.tally.ovf (4096 * st + n)
        walks := s.tally.walks.filter fun w => !(w.stack == st && w.mark.group == n) } }

/-! ### `gset` and `upd.commit` -/

/-- `gset`: a word of a group's descriptor (R153). -/
def execGset (i : At) (sGrp sVal : SReg) (word : BitVec 5) (imm : Imm) (s : State) : Out :=
  issue i s fun s =>
    let t := s.stream i
    let g := t.sreg sGrp
    let v := t.sreg sVal
    let n := g.val.toNat % 4096
    let pa := s.gdescPa n + 4 * word.toNat
    if g.bz then .fault codeBlazeBite 0
    else if !s.groupOk (s.tenOf i.core) n then .fault codeAccess 0
    else match s.requestHeld i pa with
      | some c => .stall s c
      | none =>
        if !s.memOk (masterTen (s.tenOf i.core)) pa 4 true then
          .faultAfter ((s.request i.core 1).memDenied (masterTen (s.tenOf i.core)) pa true) codeAccess pa
        else
          .done (((s.request i.core 1).memWrite pa (bytesOf 4 ((v.val + sext imm).toNat % 2 ^ 32)) v.bz).writeMark i.core (pa / 64))

/-- `upd.commit`: the shard's version advances by one, and sd receives it (R160). -/
def execUpdCommit (i : At) (sd sShard : SReg) (s : State) : Out :=
  issue i s fun s =>
    let a := (s.stream i).sreg sShard
    if a.bz then .fault codeBlazeBite 0
    else
      let e := s.shard (a.val.toNat % 65536)
      match s.requestHeld i e.pa with
      | some c => .stall s c
      | none => match s.shardFault i e true with
        | some c => .fault c 0
        | none =>
          if !s.memOk (masterTen (s.tenOf i.core)) (e.pa + 16) 4 true then
            .faultAfter ((s.request i.core 1).memDenied (masterTen (s.tenOf i.core)) (e.pa + 16) true) codeAccess (e.pa + 16)
          else
          .done ((((s.request i.core 1).touchTables e none).advanceVersion e).putS i sd (BitVec.ofNat 64 ((e.version + 1) % 2 ^ 32)) false)

end Sys2Proof.Machine
end

