-- ==== Sys2Proof/Machine/Tenancy.lean ====
section
/-! DEFINITION. Tenancies: VALID and reset (R324, R386), phases and the switch of a core (R326–R330), and the reset of
a core (R387). -/

namespace Sys2Proof.Machine

/-! ### VALID (R324) -/

/-- TEN_CTRL of a tenancy. -/
def tenCtrl (t : Nat) : Nat := 0x620 + 8 * t

/-- Does an enabled core name the tenancy in some phase: in its ALLOC as written, or as in force? -/
def State.namedBy (s : State) (t : Nat) : Bool :=
  (List.range s.coreCount).any fun c =>
    s.allocated t c || (List.range 4).any fun p => s.allocIn (s.reg (coreBase c + 0xA00)) p == some t

/-- Is a session bound to the tenancy? -/
def State.hasSession (s : State) (t : Nat) : Bool := s.host.sessions.any fun p => p.2.state != 0 && p.2.ten == t

/-- A write of VALID: a 0 is ignored while the tenancy is in use (R324). -/
def State.writeTenValid (s : State) (t : Nat) (v : Bool) : State :=
  if !v && (s.namedBy t || s.hasSession t || NSet.has s.tenReset t) then s
  else s.setField (tenCtrl t) 0 0 (b2n v)

/-- TEN_VALID_WRITE. -/
def execTenValidWrite (t : Nat) (value : Bool) (s : State) : Out :=
  if t < 4 then .next (s.writeTenValid t value) else .next s

/-! ### Tenancy reset (R273, R386) -/

/-- Is any core in a switch, or about to be? -/
def State.switchBusy (s : State) : Bool := !s.switchPhase.isEmpty || s.cores.any fun p => p.2.switching

/-- An image at its reset values, with a core store kept. -/
def CoreImage.clean (m : CoreImage) : CoreImage := { store := m.store, storeBlz := m.storeBlz }

/-- A core of the tenancy: its streams are IDLE, its tiles released, its accumulators zero, its near cache invalid
without write-back, its capture table and DMA unit clear. -/
def CoreState.tenancyReset (k : CoreState) : CoreState :=
  { k with img := k.img.clean, latches := [], nc := [], ncOp := none, runs := [], inflight := [] }

/-- The queues of the Flume engines that belong to the tenancy are cleared; a started request runs to its end. -/
def State.clearFlume (s : State) (t : Nat) : State :=
  (List.range 16).foldl (fun s e => s.modFlq e t fun _ => {}) s

/-- The tenancy's collective descriptors fault with STATE; what has not started is discarded (R300). -/
def State.clearColl (s : State) (t : Nat) : State :=
  let s := (s.fab.runs.filter fun r => r.ten == t).foldl (fun (s : State) r => s.collStop r codeState 0) s
  let s := { s with fab := { s.fab with aborts := s.fab.aborts.filter fun k => k.ten != t } }
  (List.range 4).foldl (fun s e => s.modCeq e t fun q =>
    { q with cons := s.ceProd e t, waitSent := false, waitMet := false, atStart := false }) s

/-- The groups of the tenancy lose their marks and overflow flags (R152). -/
def State.clearTally (s : State) (t : Nat) : State :=
  { s with tally := { s.tally with
      marks := s.tally.marks.map fun (p : Nat × List Mark) => (p.1, p.2.filter fun m => !s.groupOk t m.group)
      ovf := s.tally.ovf.filter fun p => !s.groupOk t (p.1 % 4096)
      walks := s.tally.walks.filter fun w => !s.groupOk t w.mark.group } }

/-- The tenancy's registrations are removed without a wake; the objects in its ranges return to the initial state of
their type (R273). -/
def State.clearSync (s : State) (t : Nat) : State :=
  { s with sync := { s.sync with
      regs := s.sync.regs.filter fun r => r.ten != t
      objs := s.sync.objs.map fun (p : Nat × SyncObj) => if s.inRange t p.1 then (p.1, { p.2 with value := 0 }) else p } }

/-- Commands of a tenancy's sessions: a RUN in progress completes INTERRUPTED. -/
def State.interruptRuns (s : State) (t : Nat) : State :=
  { s with host := { s.host with cmds := s.host.cmds.map fun c =>
      if (SMap.get {} s.host.sessions c.session).ten = t ∧ c.phase = .started ∧ c.bytes.head? = some 5 then
        { c with phase := .done, status := 3, code := 0, detail := 0 } else c } }

/-- What a tenancy reset does once no switch is in progress (R386). -/
def State.resetTenancy (s : State) (t : Nat) : State :=
  let s := { s with
    cores := s.cores.map fun (p : Nat × CoreState) => if p.2.res = some t then (p.1, p.2.tenancyReset) else p
    images := s.images.filter fun p => p.1 % 4 != t }
  ((((s.clearFlume t).clearColl t).clearTally t).clearSync t).interruptRuns t

/-- A tenancy reset starts: RESET_BUSY reads 1, and the reset acts as soon as no switch is in progress. -/
def State.startTenReset (s : State) (t : Nat) : State :=
  if NSet.has s.tenReset t then s
  else
    let s := { s with tenReset := NSet.add s.tenReset t, pins := { s.pins with ready := false } }
    if s.switchBusy then { s with tenWait := NSet.add s.tenWait t } else s.resetTenancy t

/-- TENANCY_RESET. -/
def execTenancyReset (t : Nat) (s : State) : Out := if t < 4 then .next (s.startTenReset t) else .next s

/-- TENANCY_RESET_DONE: the reset completes, once no switch is in progress. -/
def execTenancyResetDone (t : Nat) (s : State) : Out :=
  if !NSet.has s.tenReset t || s.switchBusy then .next s
  else
    let s := if NSet.has s.tenWait t then s.resetTenancy t else s
    .next { s with tenReset := NSet.sub s.tenReset t, tenWait := NSet.sub s.tenWait t }

/-! ### The switch of a core (R328–R330) -/

/-- A stream saved by a time slice. -/
def Stream.slice (t : Stream) : Stream :=
  { t.unready with state := .sliced, beforeSlice := some t.state, heldTcfg := none, held := none, prepared := [] }

/-- A stream restored: it is in the state that it was saved in. -/
def Stream.unslice (t : Stream) : Stream :=
  match t.state, t.beforeSlice with
  | .sliced, some st => { t with state := st, beforeSlice := none }
  | _, _ => t

/-- The streams of a core. -/
def allStreams : List StreamId := [.f, .b, .u]

/-- CORE_SWITCH: the switch message arrives, where no halted node cuts it off (R236, R327). The outgoing tenancy's streams
stop as for a service pause, their waits and that of the DMA unit are cancelled, and SWITCHING becomes 1 (Table 13.3). -/
def execCoreSwitch (core : Nat) (s : State) : Out :=
  if !NSet.has s.switchPhase core || (s.core core).resetBusy ||
      s.cut (some (entryFor (.stop configStop) 7 1 (.site (s.siteOf core)))) then .next s
  else
    let s := { s with switchPhase := NSet.sub s.switchPhase core }
    let s := match (s.core core).res with
      | none => s
      | some t =>
        let s := allStreams.foldl (fun (s : State) x => s.cancelWait t ⟨core, x⟩) s
        let s := (s.dmaCancel core t).modImg core fun m =>
          { m with f := m.f.slice, b := m.b.slice, u := m.u.slice,
                   dma := { m.dma with descs := m.dma.descs.map fun (d : DmaDesc) =>
                     if d.waitMet then d else { d with waitSent := false } } }
        s
    .next (s.modCore core fun k => { k with switching := true })

/-- May the core save: its array instructions have retired, its tracker has drained, its notices are acknowledged and
no write-back is held? -/
def State.drained (s : State) (c : Nat) : Bool :=
  let k := s.core c
  k.inflight.isEmpty && decide (s.trackAll c = 0) && !k.noticeF && !k.noticeB && !k.noticeU &&
  !(k.nc.map Prod.fst).any (s.writeWaits c)

/-- Is the writing or reading of an image held at the stacks, or a part of it cut off? The exits of its units repeat after
64 (R243). -/
def State.imageHeld (s : State) (c : Nat) : Bool :=
  let at? (t : Option Nat) : Bool := t.any fun t =>
    s.memHeld (s.saveAt c t) || s.cutOffAny c (s.saveAt c t) (64 * 256)
  at? (s.core c).res || at? ((s.core c).next.getD none)

/-- A granule of an image for each of its units whose packet was marked on its way, as it is saved or restored; the layout is
not architected, so which one is open (R236, R328). -/
def State.takeImageMarks (s : State) (c : Nat) (restore : Bool) (m : CoreImage) : CoreImage × State :=
  let mine (u : Nat) : Bool := u % 2 == b2n restore
  let us := ((s.core c).imageBz.map Prod.fst).filter mine
  let bad := (List.range us.length).map fun k => Config.number (s.free + k) % 32768
  ({ m with storeBlz := bad.foldl NSet.add m.storeBlz },
    (s.draw us.length).modCore c fun k => { k with imageBz := k.imageBz.filter fun p => !mine p.1 })

/-- The outgoing image saved in its save area, and the caches and latches cleared (R93, R328). -/
def State.saveCore (s : State) (c : Nat) : State :=
  let s := s.flushLines c ((s.core c).nc.map Prod.fst)
  let s := match (s.core c).res with
    | some t =>
      let (m, s) := s.takeImageMarks c false (s.core c).img
      { s.writeArea (s.saveAt c t / 64) 36864 with images := SMap.put s.images (4 * c + t) m }
    | none => s
  s.modCore c fun k =>
    let a := { k.arr with prev := none, slot := 0, slotUsed := 0, slotRun := false }
    { k with img := {}, res := none, nc := [], ncOp := none, runs := [], tlb := [], latches := [], arr := a }

/-- The incoming image restored; one that has never run on the core starts at reset values. The interleave begins at slot
0, where a held pattern takes effect (R124), and a fault that was saved with a stream is taken before it issues (R432).
Its streams go on. -/
def State.restoreCore (s : State) (c : Nat) (t : Nat) : State :=
  let m : CoreImage := SMap.get {} s.images (4 * c + t)
  let m := { m.rotate with f := m.f.unslice, b := m.b.unslice, u := m.u.unslice }
  let (m, s) := s.takeImageMarks c true m
  let s := { s.modCore c fun k => { k with img := m, res := some t } with images := SMap.del s.images (4 * c + t) }
  allStreams.foldl (fun (s : State) x => (s.settleRestored t ⟨c, x⟩).resumeWait t ⟨c, x⟩) s

/-- CORE_SWITCH_DONE: a core that has drained is saved and restored; SWITCHING returns to 0. How many cycles the steps
take is open; they count under SLICE (R329). -/
def execCoreSwitchDone (core : Nat) (s : State) : Out :=
  let k := s.core core
  if !k.switching || k.resetBusy || !s.drained core || s.imageHeld core then .next s
  else
    let s := ((s.draw 1).corePass core (Config.number s.free) none false).saveCore core
    let s := match k.next with
      | some (some t) => s.restoreCore core t
      | _ => s
    .next (s.modCore core fun k => { k with switching := false, next := none })

/-! ### Phases (R326, R327) -/

/-- The phase now running. -/
def State.phase (s : State) : Nat := s.field 0x600 17 16

/-- The next phase begins at a core: its ALLOC as written comes into force, and a core whose tenancy changes is sent a
switch message. With one phase nothing is switched: a core with no tenancy resident takes up the one that its ALLOC
names, and one with another resident keeps it, and its ALLOC (R327; DESIGN CHOICE, log entry 100). -/
def State.corePhase (s : State) (p c : Nat) : State :=
  let w := s.reg (coreBase c + 0xA00) % 2 ^ 16
  let k := s.core c
  let n := s.allocIn w p
  let inForce : CoreState := { k with alloc := BitVec.ofNat 16 w }
  if k.res = n then (if k.alloc.toNat = w then s else s.setCore c inForce)
  else if s.phases = 1 then
    match k.res, n with
    | none, some t => (s.setCore c inForce).restoreCore c t
    | _, _ => s
  else { s.setCore c { inForce with next := some n } with switchPhase := NSet.add s.switchPhase c }

/-- PHASE_END: the next phase; it is not reached while a core still switches. -/
def execPhaseEnd (s : State) : Out :=
  if s.switchBusy then .next s
  else
    let p := (s.phase + 1) % s.phases
    let s := if p = s.phase then s else (s.setField 0x600 17 16 p).count 0x600 63 32 1
    .next ((List.range s.coreCount).foldl (fun s c => s.corePhase p c) s)

/-! ### The reset of a core (R387) -/

/-- The RW fields of a core's registers at their reset values; ALLOC and the RWL fields of SHIM_CTRL are kept. DESIGN
CHOICE (log entry 118): LEVEL becomes 0xC0 also where the locked LEVEL_FLOOR is greater. -/
def State.resetCoreRegs (s : State) (c : Nat) : State :=
  let b := coreBase c
  let shim := s.reg (b + 0x600)
  let s := { s with regs := s.regs.filter fun p => !(decide (b ≤ p.1) && decide (p.1 < b + 0x1_0000)) ||
    p.1 == b + 0xA00 }
  s.setReg (b + 0x600) (setBits 23 0 shim (regReset (b + 0x600)))

/-- What a core reset does to a core: its streams and DMA unit are aborted, its tiles, accumulators, caches and
latches cleared. What the core store then holds is not defined (Table 16.9): it reads as a store that nothing has
written (DESIGN CHOICE, log entry 3). -/
def State.resetCore (s : State) (c : Nat) : State :=
  let s := match (s.core c).res with
    | none => s
    | some t =>
      let s := allStreams.foldl (fun (s : State) x => s.abort ⟨c, x⟩) s
      (s.dmaCancel c t).modDma c t fun _ => {}
  let k := s.core c
  let s := s.setCore c { k with
    img := {}, latches := [], nc := [], ncOp := none, runs := [], tlb := [], inflight := [], arr := {}, resetBusy := true }
  s.resetCoreRegs c

/-- A core reset starts; while one is in progress none does. -/
def State.startCoreReset (s : State) (c : Nat) : State :=
  if s.boot.coreReset.isSome || decide (s.coreCount ≤ c) then s
  else { s.resetCore c with boot := { s.boot with coreReset := some c }, pins := { s.pins with ready := false } }

/-- CORE_RESET_GO. -/
def execCoreResetGo (core : Nat) (s : State) : Out :=
  .next ((s.setField (bootBase + 0x18) 9 0 core).startCoreReset core)

/-- CORE_RESET_DONE: the self-test has run, and its result stands in BOOT.SELFTEST. -/
def execCoreResetDone (core : Nat) (pass : Bool) (s : State) : Out :=
  if s.boot.coreReset = some core then
    .next { s.modCore core fun k => { k with resetBusy := false } with
      boot := { s.boot with coreReset := none, selftest := NSet.mark s.boot.selftest core (!pass) } }
  else .next s

end Sys2Proof.Machine
end

