-- ==== Sys2Proof/Machine/Tiles.lean ====
section
/-! DEFINITION. The T class: `tcfg`, `tld`, `tst`, `tvrd`, `tvwr`, and the release of a held `tcfg` (R77–R88). -/

namespace Sys2Proof.Machine

/-! ### `tcfg` -/

/-- Rows and row length that a `tcfg` names (R77). -/
def TcfgOp.rows (o : TcfgOp) : Nat := o.rowsM1.toNat + 1
def TcfgOp.len (o : TcfgOp) : Nat := 16 * (o.lenM1.toNat + 1)

/-- Lines in use by the tiles of an image other than `t` (R78). -/
def CoreImage.linesBut (m : CoreImage) (t : Nat) : Nat :=
  (((List.range 16).filter (· ≠ t)).map fun n => (m.tile n).lines).foldl (· + ·) 0

/-- Lines in use by all tiles (Table 3.9). -/
def CoreImage.linesInUse (m : CoreImage) : Nat := ((List.range 16).map fun n => (m.tile n).lines).foldl (· + ·) 0

/-- The shape a `tcfg` gives its tile: released, or configured with every row zero (R77). -/
def TcfgOp.shape (o : TcfgOp) : Tile :=
  if o.clear then {} else { rows := o.rows, len := o.len, fmt := o.fmt.toNat, data := [] }

/-- The reason code of Table 3.8 with which a `tcfg` faults, where it does. -/
def tcfgReason (m : CoreImage) (o : TcfgOp) : Option Nat :=
  if o.clear then
    (if o.rowsM1 ≠ 0 ∨ o.lenM1 ≠ 0 ∨ o.fmt ≠ 0 then some 5 else none)
  else match Fmt.ofCode o.fmt.toNat with
    | none => some 4
    | some f =>
      if f = .int32 then some 4
      else if !f.validLen o.len then some 3
      else if 8192 < o.rows * o.len then some 1
      else if 2048 < m.linesBut o.tile.toNat + o.shape.lines then some 2
      else none

/-- A `tcfg` performed (R77, R78). -/
def performTcfg (i : At) (o : TcfgOp) (s : State) : Eff :=
  match tcfgReason (s.core i.core).img o with
  | some r =>
    .faultAfter (s.modImg i.core fun m => { m with tcfgFaultTile := o.tile.toNat, tcfgFaultReason := r })
      codeTileShape 0
  | none => .done (s.setTile i.core o.tile.toNat o.shape)

/-- `tcfg`: held while an instruction of any stream has the tile in flight (R80). -/
def execTcfg (i : At) (tile : TReg) (rowsM1 : BitVec 8) (lenM1 : BitVec 5) (fmt : BitVec 4) (clear : Bool)
    (s : State) : Out :=
  issue i s fun s =>
    let o : TcfgOp := ⟨tile, rowsM1, lenM1, fmt, clear⟩
    s.unheld i [tile.toNat] fun s =>
      if s.tileWriteBusy i tile.toNat then
        .stall (s.modStream i fun t => { t with heldTcfg := some o }) .tcfgHold
      else performTcfg i o s

/-- TCFG_HOLD_RELEASE: a held `tcfg` proceeds once its tile is in no flight (R80). -/
def execTcfgHoldRelease (core : Nat) (stream : StreamId) (s : State) : Out :=
  let i : At := ⟨core, stream⟩
  match (s.stream i).heldTcfg with
  | none => .next s
  | some o =>
    if (s.stream i).state ≠ .running ∨ s.tileWriteBusy i o.tile.toNat = true then .next s
    else
      let s := s.modStream i fun t => { t with heldTcfg := none }
      .next (s.finish i (performTcfg i o s))

/-! ### `tld` and `tst` -/

/-- Do the rows lie in their space, at multiples of 16 (R83)? -/
def rowsOk (t : Stream) (o : TileMemOp) (rows len : Nat) : Bool :=
  decide ((t.rowAddr o 0).toNat % 16 = 0) && decide ((t.sreg o.sStride).val.toNat % 16 = 0) &&
  (List.range rows).all fun r =>
    decide (0 ≤ t.rowAddr o r) && inSpace o.space (t.rowAddr o r).toNat len

/-- The bytes of a tile row as `tst` writes them: the padding of a block-scaled row is zero (R43). -/
def rowImage (tile : Tile) (v : RowData) : List Byte :=
  let bs := bytesOf tile.len v.toNat
  match Fmt.ofCode tile.fmt with
  | some f =>
    if f.isMx then
      let n := f.blocks tile.len * (f.blockBytes + 1)
      bs.take n ++ List.replicate (tile.len - n) 0
    else bs
  | none => bs

/-- May a request of a stream for a line go to its stack, and is it permitted there (R96, R334)? -/
def State.farOk (s : State) (i : At) (pa : Nat) (write : Bool) : Bool :=
  (s.requestHeld i pa).isNone && s.memOk (masterTen (s.tenOf i.core)) (pa / 64 * 64) 64 write

/-- A byte that may already have been read for a row of a `tld` whose row in progress begins at `a0`, with the mark of its
line: through a cached translation, of a line that run-ahead may read there, and that its grant or window permits (R87,
R229, R435). -/
def State.peekByte (s : State) (i : At) (a0 va : Nat) : Option (Byte × Bool) :=
  match s.mayRunAhead i.core a0 va true with
  | none => none
  | some l =>
    let ok := match s.ncLine i.core l with
      | some v => v.r
      | none => s.farOk i (64 * l) false
    if ok then
      let v := s.readyLine i.core l
      some (v.1.getD (va % 64) 0, v.2)
    else none

/-- Does a byte stand in a line of the near cache? -/
def State.nearByte (s : State) (i : At) (va : Nat) : Bool :=
  ((s.core i.core).lookup va false).any fun e => (s.ncLine i.core (e.pa va / 64)).isSome

/-- Row `k` of a `tld` that stands at row `r`: each byte its old one, or one already read for it; the row is marked where
a line that it took bytes from is, and stays so where old bytes remain (R62, R84, R87). -/
def State.mixRow (s : State) (i : At) (o : TileMemOp) (t : Stream) (r k : Nat) : State :=
  let tile := (s.core i.core).img.tile o.tile.toNat
  let old := tile.row k
  let a0 := (t.rowAddr o r).toNat
  let a := (t.rowAddr o k).toNat
  let peek (va : Nat) : Option (Byte × Bool) :=
    if o.space then s.peekByte i a0 va
    else
      let m := (s.core i.core).img
      some ((m.storeRead va 1).getD 0 0, m.storeMark va 1)
  let bs := (bytesOf tile.len old.val.toNat).zipIdx.map fun p =>
    match (if Config.coin (s.free + p.2) then peek (a + p.2) else none) with
    | some v => v
    | none => (p.1, old.bz)
  let far (va : Nat) : Bool := o.space && (s.peekByte i a0 va).isSome && !s.nearByte i va
  let s := if (List.range tile.len).any fun n => Config.coin (s.free + n) && far (a + n) then s.request i.core 1 else s
  (s.setTile i.core o.tile.toNat
    (tile.setRow k (BitVec.ofNat 4096 (packBytes (bs.map Prod.fst))) (bs.any Prod.snd))).draw tile.len

/-- Row `k` of a `tst` that stands part-way: bytes of it may already stand in the core store, in lines that the near cache
holds, or at their stacks (R87). -/
def State.mixStore (s : State) (i : At) (o : TileMemOp) (t : Stream) (k : Nat) : State :=
  let tile := (s.core i.core).img.tile o.tile.toNat
  let v := tile.row k
  let a := (t.rowAddr o k).toNat
  let may (va : Nat) : Bool :=
    if o.space then
      match (s.core i.core).lookup va true with
      | some e => (match s.ncLine i.core (e.pa va / 64) with
        | some l => l.w
        | none => s.farOk i (e.pa va) true)
      | none => false
    else true
  let runs := activeRuns 0 ((rowImage tile v.val).zipIdx.map fun p => (p.1, Config.coin (s.free + p.2) && may (a + p.2)))
  let s' := runs.foldl (fun s run =>
    if o.space then (piecesOf 64 (a + run.1) run.2).foldl (fun s p =>
      match (s.core i.core).lookup (64 * p.1 + p.2.1) true with
      | some e =>
        let l := e.pa (64 * p.1 + p.2.1) / 64
        (if (s.ncLine i.core l).isNone then s.request i.core 1 else s).writeReady i.core v.bz l p
      | none => s) s
    else s.modImg i.core fun m => m.storeWrite (a + run.1) run.2 v.bz) s
  s'.draw tile.len

/-- A `tld` or `tst` that stands at row `r` (R87): its restart point, and the rows from `r` on as the manual leaves
them. -/
def stopAt (i : At) (o : TileMemOp) (load : Bool) (r : Nat) (s : State) : State :=
  let t := s.stream i
  let tile := (s.core i.core).img.tile o.tile.toNat
  let rs := (List.range (tile.rows - r)).map (· + r)
  let s := rs.foldl (fun s k => if load then s.mixRow i o t r k else s.mixStore i o t k) s
  s.modStream i fun t => { t with restartRow := BitVec.ofNat 8 r, restartValid := true, part := some (o, load) }

/-- One row of a `tld` (R83, R84). -/
def tldRow (i : At) (o : TileMemOp) (r : Nat) (s : State) : Res Unit :=
  let tile := (s.core i.core).img.tile o.tile.toNat
  match s.load i o.space ((s.stream i).rowAddr o r).toNat tile.len o.na with
  | .page s va l c => .page s va l c
  | .denied s va => .denied s va
  | .held s c => .held s c
  | .ok v s =>
    let s := s.setTile i.core o.tile.toNat
      (((s.core i.core).img.tile o.tile.toNat).setRow r (BitVec.ofNat 4096 (packBytes v.1)) v.2)
    .ok () (if v.2 then (s.blazeWritten i true).event i.core none evBlazeArrived 1 else s)

/-- One row of a `tst` (R83, R84). -/
def tstRow (i : At) (o : TileMemOp) (r : Nat) (s : State) : Res Unit :=
  let tile := (s.core i.core).img.tile o.tile.toNat
  let v := tile.row r
  s.storeTo i o.space ((s.stream i).rowAddr o r).toNat (rowImage tile v.val) v.bz o.na

/-- May a `tld` or `tst` of the stream be found part-way at a row boundary: a pause is asked for, or a switch message is
on its way (R69, R87)? Where it stands then is open, as the coin of this boundary says. -/
def State.mayStop (s : State) (i : At) : Bool := (s.stream i).pauseReq || NSet.has s.switchPhase i.core

/-- Rows `r` on, `k` of them, in increasing order; `begun` once a row has been moved. -/
def tileRows (i : At) (o : TileMemOp) (load : Bool) : Bool → Nat → Nat → State → Eff
  | _, 0, _, s => .done (s.modStream i fun t => { t with restartValid := false, part := none })
  | begun, k + 1, r, s =>
    if begun && s.mayStop i && Config.coin s.free then .part (stopAt i o load r (s.draw 1))
    else
      match (if load then tldRow i o r else tstRow i o r) (if begun && s.mayStop i then s.draw 1 else s) with
      | .ok _ s => tileRows i o load true k (r + 1) s
      | .page s va l c => .page (stopAt i o load r s) va (!load) l c
      | .denied s va => .faultAfter (stopAt i o load r s) codeAccess (low48 va)
      | .held s c => .stall (if begun then stopAt i o load r s else s) c

/-- The banks of the core store that the granules of the rows of a `tld` or `tst` lie in (R90). -/
def rowBanks (t : Stream) (o : TileMemOp) (rows len : Nat) : List Nat :=
  ((List.range rows).map fun r => (unitsOf 64 (t.rowAddr o r).toNat len).map (· % 32)).flatten

/-- The cycles that a `tld` or `tst` on the core store loses to bank conflicts: between its own granules where two of them
lie in one bank, and with deliveries (R90). -/
def State.bankLoss (s : State) (i : At) (o : TileMemOp) (rows len : Nat) : State :=
  let bs := rowBanks (s.stream i) o rows len
  let own := if (List.range 32).all (fun b => decide (bs.count b ≤ 1)) then 0 else bs.length - 1
  if o.space then s else s.bankWait i own

/-- Is a row of `n` bytes from `a` in a core's store one that a started Flume request still has to deliver for the
tenancy on the core (R233)? -/
def State.undelivered (s : State) (c a n : Nat) : Bool :=
  s.flume.deliveries.any fun d => d.core == c && (match s.flume.runs.find? fun r => r.id == d.run with
    | none => false
    | some r => (s.core c).res == some r.ten && (List.range r.req.rows).any fun k =>
        let b := rowAt r.req.dstAddr r.req.dstStride k
        !NSet.has d.got k && decide (b < a + n) && decide ((a : Int) < b + r.req.rowBytes))

/-- Does a `tld` wait for a weight buffer not yet delivered: do rows of its own core's store that it reads have to come
(R233, DEDUCED, log entry 114)? -/
def State.starved (s : State) (i : At) (o : TileMemOp) (load : Bool) (rows len : Nat) : Bool :=
  load && !o.space && (List.range rows).any fun k => s.undelivered i.core ((s.stream i).rowAddr o k).toNat len

/-- What holds back the access of a row, a cause that stands before OPERAND in Table 17.3. -/
def rowHeld (i : At) (o : TileMemOp) (load : Bool) (r : Nat) (s : State) : Option Cause :=
  match (if load then tldRow i o r s else tstRow i o r s) with
  | .held _ c => some c
  | .ok _ _ => none
  | .page _ _ _ _ => none
  | .denied _ _ => none

/-- `tld` and `tst`. A resumed one goes on at RESTART_ROW (R87). One that waits for its tile counts under what else holds it
back, where that stands first (R394). -/
def tileMem (i : At) (o : TileMemOp) (load : Bool) (s : State) : Out :=
  issue i s fun s =>
    let t := s.stream i
    let n := o.tile.toNat
    s.unheld i [n] fun s =>
      let tile := (s.core i.core).img.tile n
      if (t.sreg o.sBase).bz || (t.sreg o.sStride).bz then .fault codeBlazeBite 0
      else if !tile.configured then .fault codeTileBounds 0
      else if !rowsOk t o tile.rows tile.len then .fault codeTileBounds 0
      else
        let r := if t.restartValid then t.restartRow.toNat else 0
        if s.starved i o load tile.rows tile.len then .stall s .weightStarve
        else match if (if load then s.tileWriteBusy i n else s.tileReadBusy i n) then rowHeld i o load r s else none with
        | some c => .stall s c
        | none => s.ordered i (if load then [] else [n]) (if load then [n] else []) [] fun s =>
          tileRows i o load t.restartValid (tile.rows - r) r (s.bankLoss i o (tile.rows - r) tile.len)

/-- `tld`. -/
def execTld (i : At) (o : TileMemOp) (s : State) : Out := tileMem i o true s

/-- `tst`. -/
def execTst (i : At) (o : TileMemOp) (s : State) : Out := tileMem i o false s

/-! ### `tvrd` and `tvwr` -/

/-- The common checks of `tvrd` and `tvwr` (R79, R86, R341); `k` receives the tile and the row index. -/
def tileVec (i : At) (tile : TReg) (sRow : SReg) (half : Bool) (write : Bool) (k : Tile → Nat → State → Eff)
    (s : State) : Out :=
  issue i s fun s =>
    let r := (s.stream i).sreg sRow
    let n := tile.toNat
    s.unheld i [n] fun s =>
      let v := (s.core i.core).img.tile n
      if r.bz then .fault codeBlazeBite 0
      else if !v.configured then .fault codeTileBounds 0
      else if v.rows ≤ r.val.toNat % 256 then .fault codeTileBounds 0
      else if half && decide (v.len ≤ 256) then .fault codeTileBounds 0
      else s.ordered i (if write then [] else [n]) (if write then [n] else []) [] (k v (r.val.toNat % 256))

/-- The first byte of a half. -/
def halfByte (half : Bool) : Nat := if half then 256 else 0

/-- `tvrd`: 256 bytes of a row; those beyond L read as zero. -/
def execTvrd (i : At) (tile : TReg) (vreg : VReg) (sRow : SReg) (half : Bool) (s : State) : Out :=
  tileVec i tile sRow half false (fun v r s =>
    let row := v.row r
    let bs := ((bytesOf v.len row.val.toNat).drop (halfByte half)).take 256
    .done (s.putV i vreg (BitVec.ofNat 2048 (packBytes bs)) row.bz)) s

/-- `tvwr`: the register's bytes into a half of a row, none beyond L; with L over 256 the mark is ORed (R84). -/
def execTvwr (i : At) (tile : TReg) (vreg : VReg) (sRow : SReg) (half : Bool) (s : State) : Out :=
  tileVec i tile sRow half true (fun v r s =>
    let row := v.row r
    let x := (s.stream i).vreg vreg
    let old := bytesOf v.len row.val.toNat
    let h := halfByte half
    let new := (old.take h ++ (bytesOf 256 x.val.toNat).take (v.len - h) ++ old.drop (h + 256)).take v.len
    let bz := destMark (decide (256 < v.len)) row.bz x.bz
    .done ((s.setTile i.core tile.toNat (v.setRow r (BitVec.ofNat 4096 (packBytes new)) bz)).blazeWritten i bz)) s

end Sys2Proof.Machine
end

