-- ==== Sys2Proof/Machine/Views.lean ====
section
/-! DEFINITION. What a configuration read returns (R16, R17, R401–R409): plain registers, with the fields that present
a unit's state. Offsets are from 0xF0_0000_0000. -/

namespace Sys2Proof.Machine

/-- Does the offset lie in a block (R401)? -/
def inBlock (off : Nat) : Bool :=
  decide (off < 0x0480_0000) || (decide (0x0500_0000 ≤ off) && decide (off < 0x0900_0000)) ||
  (decide (0x1000_0000 ≤ off) && decide (off < 0x1280_0000))

/-- A word of fields: low bit and value of each. -/
def fieldWord (fs : List (Nat × Nat)) : Nat := fs.foldl (fun n p => n + p.2 * 2 ^ p.1) 0

/-- 64 members of a set as a word. -/
def setWord (m : NSet) (base : Nat) : Nat := fieldWord ((List.range 64).map fun b => (b, b2n (NSet.has m (base + b))))

/-- Word `k` of a 256-bit value. -/
def quarter (x k : Nat) : Nat := x / 2 ^ (64 * k) % 2 ^ 64

/-! ### GLOBAL, BOOT and SEC -/

/-- Is a column of the array of a core bypassed (R113)? -/
def State.bypassOf (s : State) (c : Nat) : Option Nat := SMap.get? s.fuses.bypass (s.siteOf c)

/-- Enabled cores with a bypassed column. -/
def State.bypassCores (s : State) : Nat := (s.sites.filter fun n => (SMap.get? s.fuses.bypass n).isSome).length

/-- Enabled cores of a home region (R28). -/
def State.regionCores (s : State) (i : Nat) : Nat := (s.sites.filter fun n => homeOfSite n == i).length

/-- GLOBAL. -/
def State.viewGlobal (s : State) (lo : Nat) : Nat :=
  if lo = 0 then s.deviceId
  else if lo = 8 then fieldWord [(0, s.coreCount), (10, s.bypassCores), (20, s.fuses.stepping % 256)]
  else if lo = 0x10 then fieldWord ((List.range 8).map fun i => (8 * i, s.regionCores i))
  else if 0x620 ≤ lo ∧ lo < 0x640 then s.reg lo + 4 * b2n (NSet.has s.tenReset ((lo - 0x620) / 8))
  else s.reg lo

/-- The key hash that SEC.KEY_SEL names; 0 where its slot is not programmed or is reserved. -/
def State.keyHash (s : State) : Nat :=
  let k := s.field (bootBase + 0x1010) 2 0
  if k < 2 then SMap.get 0 s.fuses.vendorHash k
  else if k < 6 then SMap.get 0 s.fuses.ownerHash (k - 2)
  else 0

/-- Does a flash command run: is one dispatched and without a result? -/
def State.flashBusy (s : State) : Bool := s.host.cmds.any fun c =>
  (c.phase == .atDispatch || c.phase == .started) &&
  (c.bytes.head? == some 0x40 || c.bytes.head? == some 0x41 || c.bytes.head? == some 0x42)

/-- BOOT and SEC (Table 16.10). -/
def State.viewBoot (s : State) (lo : Nat) : Nat :=
  let b := s.boot
  if lo = 0 then
    fieldWord [(0, b.step), (4, b.result), (7, b2n b.slotB), (8, b2n b.fallback), (9, b2n b.warm), (16, b.reason)]
  else if lo = 8 then b.seq
  else if lo = 0x18 then s.reg (bootBase + lo) + 2 ^ 62 * b2n b.coreReset.isSome
  else if lo = 0x20 then fieldWord [(0, b2n b.octal), (1, b2n s.flashBusy), (8, b.clockMhz)]
  else if 0x40 ≤ lo ∧ lo < 0x90 then setWord b.selftest (64 * ((lo - 0x40) / 8))
  else if lo = 0x1000 then
    fieldWord [(0, setWord (s.fuses.vendorHash.map fun p => (p.1, ())) 0), (2, setWord s.fuses.vendorRev 0),
      (4, setWord (s.fuses.ownerHash.map fun p => (p.1, ())) 0), (8, setWord s.fuses.ownerRev 0),
      (16, s.fuses.svnMin), (24, b.svn), (32, min 65535 b.fuseOps), (48, min 65535 b.attests)]
  else if lo = 0x1008 then s.fuses.serial
  else if 0x1020 ≤ lo ∧ lo < 0x1040 then quarter s.keyHash ((lo - 0x1020) / 8)
  else if 0x1040 ≤ lo ∧ lo < 0x1060 then quarter b.idPk ((lo - 0x1040) / 8)
  else if 0x1060 ≤ lo ∧ lo < 0x1080 then quarter b.measV ((lo - 0x1060) / 8)
  else if 0x1080 ≤ lo ∧ lo < 0x10A0 then quarter b.measO ((lo - 0x1080) / 8)
  else s.reg (bootBase + lo)

/-! ### HOST (Table 12.12) -/

/-- Counts of the ring counter in a millisecond (R389). -/
def msCounts : Nat := 2000000

/-- When the lease ends, on the ring counter (R319). -/
def State.leaseStop (s : State) : Nat := min s.host.leaseEnd (s.host.lostEnd.getD s.host.leaseEnd)

/-- A session. -/
def State.session (s : State) (n : Nat) : Session := SMap.get {} s.host.sessions n

/-- SESSION_s. -/
def State.viewSession (s : State) (n : Nat) : Nat :=
  let x := s.session n
  if x.state = 0 then 0
  else fieldWord [(0, x.state), (2, x.ten), (4, x.port), (5, b2n x.manager),
    (6, b2n (SMap.get? s.host.bind x.ten == some n)), (16, x.next)]

/-- HOST. -/
def State.viewHost (s : State) (lo : Nat) : Nat :=
  let h := s.host
  let r := s.reg (hostBase + lo)
  if lo = 0 then fieldWord [(0, s.jrnState false), (2, s.jrnState true), (4, b2n h.accepting), (5, b2n h.hold)]
  else if lo = 8 then h.epoch
  else if lo = 0x20 then r + min h.cmds.length 131072
  else if lo = 0x30 then
    match h.lease with
    | none => r
    | some n => r + fieldWord [(0, 1), (1, n), (16, min 65535 ((s.leaseStop - s.reg 0x700) / msCounts))]
  else if lo = 0x110 ∨ lo = 0x118 then
    let p := s.port (12 + (lo - 0x110) / 8)
    r + b2n p.up + 2 * b2n p.rate400
  else if 0x1000 ≤ lo ∧ lo < 0x1200 then s.viewSession ((lo - 0x1000) / 8)
  else if 0x1408 ≤ lo ∧ lo < 0x1428 then
    let t := (lo - 0x1408) / 8
    let b := SMap.get? h.bind t
    r + fieldWord [(0, (SMap.get [] s.faultQ t).length), (32, b.getD 0), (38, b2n b.isSome)]
  else r

/-! ### FAB (Tables 11.12, 11.13) -/

/-- CE_QSTATUS. -/
def State.viewCeq (s : State) (e t : Nat) : Nat :=
  let q := s.ceq e t
  let active := (s.fab.runs.filter fun r => r.eng == e && r.ten == t).length
  let st := if q.faulted then 3 else if q.waitSent && !q.waitMet then 2 else if 0 < active then 1 else 0
  fieldWord ([(0, st), (2, q.cons), (8, active)] ++
    if q.faulted then [(16, q.faultCode), (24, q.faultSlot), (32, q.faultPeer)] else [])

/-- FAB. -/
def State.viewFab (s : State) (lo : Nat) : Nat :=
  let r := s.reg (fabBase + lo)
  if lo = 0x58 then s.fuses.macBase % 2 ^ 48
  else if 0x180 ≤ lo ∧ lo < 0x1E0 then
    let p := s.port ((lo - 0x180) / 8)
    r + b2n p.up + 2 * b2n p.rate400 + 4 * b2n p.preempt
  else if 0x1000 ≤ lo ∧ lo < 0x1400 ∧ lo % 0x100 / 0x20 = 2 then
    s.viewCeq ((lo - 0x1000) / 0x100) (lo % 0x20 / 8)
  else r

/-! ### MEM (Table 7.15) -/

/-- FLMe_QSTATUS. -/
def State.viewFlq (s : State) (e t : Nat) : Nat :=
  let q := s.flq e t
  let runs := s.flume.runs.any fun r => r.eng == e && r.ten == t
  let st := if q.faulted then 3 else if q.waitSent && !q.waitMet then 2 else if runs || !q.reqs.isEmpty then 1 else 0
  fieldWord ([(0, st), (2, q.reqs.length)] ++
    if q.faulted then [(16, q.faultCode), (24, q.faultCase), (32, q.faultShard)] else [])

/-- The block that ACC_COUNT_SEL names. -/
def State.selBlock (s : State) (i : Nat) : Nat := i * 2 ^ 28 + bits 35 8 (s.reg (memBase i + 0x358))

/-- MEM[i]. COUNT of ACC_COUNT reads 0 where no valid window holds the block (DESIGN CHOICE, log entry 152). -/
def State.viewMem (s : State) (i r : Nat) : Nat :=
  let k := s.stack i
  let v := s.reg (memBase i + r)
  if r = 0 then fieldWord [(0, k.state), (3, b2n k.hot), (4, k.temp)]
  else if 0x100 ≤ r ∧ r < 0x180 then SMap.get 0 k.scarf ((r - 0x100) / 8)
  else if r = 0x188 then v + fieldWord [(0, k.scarfResult), (4, k.scarfIndex), (8, k.scarf.length)]
  else if r = 0x220 then fieldWord [(0, k.cruise.state), (32, sat 32 k.cruise.lines)]
  else if 0x240 ≤ r ∧ r < 0x280 then packBytes ((k.cruise.sum.drop (r - 0x240)).take 8)
  else if r = 0x348 then v + 2 ^ 62 * b2n k.clear.isSome
  else if r = 0x360 then
    let b := s.selBlock i
    let w := s.accWindow (256 * b)
    (if w.isSome then s.accCount b + 65536 else 0)
  else if 0x400 ≤ r ∧ r < 0x600 then
    let e := 2 * i + (r - 0x400) / 0x100
    if r % 0x100 < 0x20 then s.viewFlq e (r % 0x20 / 8)
    else if r % 0x100 = 0x40 then v + min 4096 (s.flOutstanding e)
    else v
  else if r = 0x8000 then v + (s.marks i).length
  else if 0x8100 ≤ r ∧ r < 0x8300 then
    fieldWord ((List.range 64).map fun b => (b, b2n (s.tallyOvf i (64 * ((r - 0x8100) / 8) + b))))
  else v

/-! ### SYNC, LOOK, PWR and NOC -/

/-- A word of a sync object (Table 10.3). -/
def State.objWord (s : State) (j : Nat) (word1 : Bool) : Nat :=
  let o := s.obj j
  if word1 then fieldWord [(0, o.type.toNat), (16, o.param.toNat), (48, (s.regsOn j).length)] else o.value.toNat

/-- SYNC. -/
def State.viewSync (s : State) (lo : Nat) : Nat :=
  let r := s.reg (syncBase + lo)
  if 0x100 ≤ lo ∧ lo < 0x200 then r + (s.sync.regs.filter fun x => bankOf x.obj == (lo - 0x100) / 8).length
  else if 0x40_0000 ≤ lo ∧ lo < 0x80_0000 then s.objWord ((lo - 0x40_0000) / 16) (decide (lo % 16 = 8))
  else r

/-- LOOK (Table 14.9). -/
def State.viewLook (s : State) (lo : Nat) : Nat :=
  let r := s.reg (lookBase + lo)
  if lo = 0 then
    setBits 47 32 (setBits 17 0 r (fieldWord [(0, s.risk), (16, s.field lookBase 16 16), (17, b2n s.pinned)])) s.peak
  else if lo = 0x20 then
    r % 2 ^ 48 + fieldWord [(48, b2n s.someStackFailed),
      (49, b2n (s.jrnState false == 1 || s.jrnState true == 1)), (50, b2n (!s.noc.halted.isEmpty))]
  else r

/-- The reading of the sensor that PWR.TEMP_SEL names. -/
def State.sensor (s : State) : Option Nat :=
  let w := s.reg (pwrBase + 0x808)
  let n := bits 9 0 w
  if bit 10 w then (if n < 24 then SMap.get? s.power.stops n else none)
  else if s.siteOn n then SMap.get? s.power.sites n
  else none

/-- PWR (Tables 17.8, 18.4); SUPPLY and POWER read 0 until the sensors are first sampled (R19; log entry 128). -/
def State.viewPwr (s : State) (lo : Nat) : Nat :=
  let r := s.reg (pwrBase + lo)
  let p := s.power
  if lo = 0x10 then r + p.throttle + 8 * b2n p.envelope
  else if lo = 0x800 then fieldWord [(0, s.hottest.1), (8, s.hottest.2.1), (18, b2n s.hottest.2.2)]
  else if lo = 0x810 then
    match s.sensor with
    | some t => t + 256
    | none => 0
  else if lo = 0x818 then
    if p.sampled then fieldWord [(0, p.setpoint), (10, p.supplyMin), (20, min 255 s.droopMargin)] else 0
  else if lo = 0x820 then (if p.sampled then fieldWord [(0, p.power8), (16, s.powerCap)] else 0)
  else r

/-- ROUTE_DATA: the output or spur that the routing table of a node names for a destination, 7 for none (R242). -/
def State.routeOut (s : State) : Nat :=
  let w := s.reg (nocBase + 0x20)
  let n := bits 9 0 w
  let d := bits 25 16 w
  if !s.siteOn d then 7
  else if bit 10 w then (if n % 32 < 24 then (s.stopSpur (n % 32) d).getD 7 else 7)
  else if !s.siteOn n then 7
  else outCode (s.tableOut n d)

/-- NOC (Tables 9.9, 17.7). -/
def State.viewNoc (s : State) (lo : Nat) : Nat :=
  let r := s.reg (nocBase + lo)
  let site := s.field (nocBase + 0x30) 9 0
  if lo = 8 then r + b2n s.legacy
  else if lo = 0x28 then s.routeOut
  else if lo = 0x38 then setBits 6 0 (s.routerWord site) (s.ctxs site).length
  else if 0x100 ≤ lo ∧ lo < 0x150 then
    fieldWord ((List.range 64).map fun b => (b, b2n (s.siteOn (64 * ((lo - 0x100) / 8) + b))))
  else r

/-! ### CORE -/

/-- STATE of a sequencer (Table 3.3). -/
def SeqState.code : SeqState → Nat
  | .idle => 0
  | .running => 1
  | .paused => 2
  | .suspended => 3
  | .faulted => 4
  | .illegal => 5
  | .sliced => 6

/-- The state whose fault code and address a stream shows: a sliced one that of its saved state. -/
def Stream.shown (t : Stream) : SeqState :=
  match t.state, t.beforeSlice with
  | .sliced, some st => st
  | st, _ => st

/-- FAULT_CODE (Table 3.3). -/
def Stream.codeShown (t : Stream) : Nat :=
  match t.shown with
  | .faulted => t.faultCode.toNat
  | .suspended => 0x10
  | .paused => if t.fromSuspended then 0x10 else 0
  | .idle => 0
  | .running => 0
  | .illegal => 0
  | .sliced => 0

/-- Does a stream stand stopped, so that RESTART_VALID is shown (R67, R87)? -/
def Stream.stopped (t : Stream) : Bool := t.state != .running && t.state != .idle

/-- Registers of a sequencer (Tables 3.2, 3.3; R68); `sliced` for an image that is not resident. DESIGN CHOICE (log entry
117): while RESTART_VALID is 0, RESTART_ROW reads the row of the last stop, and 0 after an ABORT or a start from reset. -/
def Stream.view (t : Stream) (sliced : Bool) (r : Nat) : Nat :=
  if r = 0 then 2 * b2n t.pauseReq
  else if r = 8 then
    fieldWord [(0, if sliced then 6 else t.state.code), (8, t.codeShown), (16, t.restartRow.toNat),
      (24, b2n (t.restartValid && t.stopped))]
  else if r = 0x10 then t.pc.toNat
  else if r = 0x18 then t.faddr.toNat
  else 0

/-- The stream of a register offset, and the offset in its sequencer. -/
def seqOf (r : Nat) : StreamId := (StreamId.ofNat? ((r - 0x100) / 0x40)).getD .f

/-- TCFG_STATUS (Table 3.9). -/
def CoreImage.tcfgStatus (m : CoreImage) : Nat :=
  let held (t : Stream) (n : Nat) : Bool :=
    match t.heldTcfg with
    | some o => o.tile.toNat == n
    | none => false
  fieldWord [(0, fieldWord ((List.range 16).map fun n => (n, b2n (m.tile n).configured))), (16, m.linesInUse),
    (32, fieldWord ((List.range 16).map fun n => (n, b2n (held m.f n || held m.b n || held m.u n)))),
    (48, m.tcfgFaultTile), (52, m.tcfgFaultReason)]

/-- TSHAPE_n (Table 3.10). -/
def Tile.shapeWord (t : Tile) : Nat := if t.configured then fieldWord [(0, t.rows), (9, t.len), (19, t.fmt)] else 0

/-- VCAP_DATA (Table 5.10). -/
def CapEntry.word (e : CapEntry) : Nat :=
  fieldWord [(0, e.shard.toNat), (16, e.version.toNat), (48, b2n e.valid), (49, b2n e.stale)]

/-- DMA_STATUS (Table 8.9). -/
def DmaUnit.status (u : DmaUnit) : Nat :=
  fieldWord [(0, if u.suspended then 2 else if u.descs.isEmpty then 0 else 1), (2, u.descs.length),
    (8, if u.suspended then 0x10 else 0), (16, u.restartRow), (32, b2n u.restartValid)]

/-- Tenancy-state registers of an image (Table 18.5, mark T). -/
def CoreImage.view (m : CoreImage) (sliced : Bool) (r : Nat) : Nat :=
  if 0x100 ≤ r ∧ r < 0x1C0 then (m.stream (seqOf r)).view sliced (r % 0x40)
  else if r = 0x200 then m.tcfgStatus
  else if 0x300 ≤ r ∧ r < 0x380 then (m.tile ((r - 0x300) / 8)).shapeWord
  else if r = 0x500 then m.f.arith.toNat
  else if r = 0x508 then m.b.arith.toNat
  else if r = 0x510 then m.u.arith.toNat
  else if r = 0x700 then (m.ilvNext.getD m.ilvPattern).toNat
  else if r = 0x708 then (m.ilvNextLen.getD m.ilvLen).toNat
  else if r = 0x720 then m.vcapStatus.toNat
  else if r = 0x728 then m.vcapSel
  else if r = 0x730 then (m.cap m.vcapSel).word
  else if r = 0x800 then m.updStatus.toNat
  else if r = 0x900 then m.dma.status
  else if r = 0x910 then (if m.dma.suspended then m.dma.faddr else 0)
  else 0

/-- Is a register of CORE tenancy-state (Table 18.5, mark T)? -/
def tenReg (r : Nat) : Bool :=
  (decide (0x100 ≤ r) && decide (r < 0x1C0)) || r == 0x200 || (decide (0x300 ≤ r) && decide (r < 0x380)) ||
  r == 0x500 || r == 0x508 || r == 0x510 || r == 0x700 || r == 0x708 || r == 0x720 || r == 0x728 || r == 0x730 ||
  r == 0x800 || r == 0x900 || r == 0x908 || r == 0x910

/-- Does ALLOC of a core, as written, name the tenancy in a phase? -/
def State.allocNames (s : State) (t c : Nat) : Bool :=
  decide (c < s.coreCount) && (List.range 4).any fun p => s.allocIn (s.reg (coreBase c + 0xA00)) p == some t

/-- Does tenancy `t` have its part of a core elsewhere than on the core: in a saved image, or still to come (R330)? -/
def State.away (s : State) (t c : Nat) : Bool :=
  !s.resident t c && ((SMap.get? s.images (4 * c + t)).isSome || s.allocated t c || s.allocNames t c ||
    decide ((s.core c).res = some t))

/-- CAPS of a core (Table 4.10). -/
def State.coreCaps (s : State) (c : Nat) : Nat :=
  let b := s.bypassOf c
  fieldWord [(0, b2n b.isSome), (1, b.getD 0), (8, s.width c 0), (16, s.width c 1), (24, s.width c 2),
    (32, s.width c 3)]

/-- SHIM_STATUS (Table 4.12). -/
def State.shimStatus (s : State) (c : Nat) : Nat :=
  let a := (s.core c).arr
  let on := s.shimOn c
  let level := s.shimLevel c
  let falling := a.gap && ((a.horizonPassed && decide (0 < a.cap)) || decide (level < a.cap))
  fieldWord [(0, a.cap), (9, b2n (on && a.gap && decide (0 < a.cap) && !a.rising)),
    (10, b2n (on && (falling || a.rising || (!a.gap && decide (a.cap < level)))))]

/-- ILV_STATUS (Table 5.3). -/
def CoreState.ilvStatus (k : CoreState) : Nat :=
  fieldWord [(0, k.arr.slot), (4, k.slotOwner), (6, b2n (k.img.ilvNext.isSome || k.img.ilvNextLen.isSome)),
    (16, min 65535 k.arr.overruns), (32, k.arr.rotations)]

/-- CORE[c], as a session of tenancy `t` reads it (R330, R404). -/
def State.viewCore (s : State) (t c r : Nat) : Nat :=
  let k := s.core c
  let v := s.reg (coreBase c + r)
  if s.coreCount ≤ c then 0
  else if tenReg r then
    if s.away t c then (s.imageOf c t).view true r else k.img.view false r
  else if r = 0 then c
  else if r = 0x10 then s.coreCaps c
  else if r = 0x18 then s.homeStack c
  else if r = 0x400 then 4 * b2n k.ncOp.isSome
  else if r = 0x410 then v + s.trackAll c
  else if r = 0x608 then s.shimStatus c
  else if r = 0x710 then k.ilvStatus
  else if r = 0xA00 then
    v % 2 ^ 16 + fieldWord [(16, k.res.getD 0), (18, b2n k.res.isSome), (19, b2n k.switching)]
  else if r = 0xF08 then v + k.freq
  else v

/-! ### Configuration space -/

/-- What a read of an offset returns to a session of tenancy `t`; a register that is not there reads 0 (R17). -/
def State.cfgView (s : State) (t off : Nat) : Nat :=
  let lo := off % 0x100_0000
  if (regMask off).fields = 0 then 0
  else match off / 0x100_0000 with
    | 0 => s.viewGlobal lo
    | 1 => s.viewBoot lo
    | 2 => s.viewHost lo
    | 3 => s.viewFab lo
    | 4 => s.viewMem (lo / 0x10_0000) (lo % 0x10_0000)
    | 5 => s.viewSync lo
    | 6 => s.viewLook lo
    | 7 => s.viewPwr lo
    | 8 => s.viewNoc lo
    | _ => s.viewCore t ((off - 0x1000_0000) / 0x1_0000) (off % 0x1_0000)

end Sys2Proof.Machine
end

