-- ==== Sys2Proof/Machine/Cfg.lean ====
section
/-! DEFINITION. What a configuration write does (Table 0.4, R17, R402, R403), the settings that are device-global
(R35), a tenancy's own registers (R408), and the host's accesses to sync objects (R271). -/

namespace Sys2Proof.Machine

/-- The state that a command answers; every command here answers one. -/
def after (o : Out) (s : State) : State :=
  match o with
  | .next t => t
  | .fault _ => s
  | .refused _ => s

/-! ### Ranges of tenancies (R152, R270, R331) -/

/-- Do two ranges, each a first member and a count, share a member? -/
def rangesMeet (a b : Nat × Nat) : Bool :=
  decide (0 < a.2) && decide (0 < b.2) && decide (a.1 < b.1 + b.2) && decide (b.1 < a.1 + a.2)

/-- Does a range that tenancy `t` would have meet one of another tenancy, or pass `limit`? -/
def rangeBad (t limit : Nat) (new : Nat × Nat) (of : Nat → List (Nat × Nat)) : Bool :=
  decide (limit < new.1 + new.2) || (List.range 4).any fun u => u != t && (of u).any (rangesMeet new)

/-- GROUP_RANGE, SLOT_RANGE and SYNC.RANGE words as ranges. -/
def groupRange (w : Nat) : Nat × Nat := (bits 11 0 w, bits 28 16 w)
def slotRange (w : Nat) : Nat × Nat := (bits 7 0 w, bits 16 8 w)
def syncRange (w : Nat) : Nat × Nat := (bits 11 0 w, bits 24 12 w)

/-- A write of GROUP_RANGE_t; ignored where it would overlap or pass the last group (R152). -/
def State.writeGroupRange (s : State) (t v : Nat) : State :=
  if rangeBad t 4096 (groupRange v) (fun u => [groupRange (s.reg (0x488 + 8 * u))]) then s
  else s.writeReg (0x488 + 8 * t) v

/-- A write of SLOT_RANGE_t; ignored where it would overlap or pass slot 255 (R331). -/
def State.writeSlotRange (s : State) (t v : Nat) : State :=
  if rangeBad t 256 (slotRange v) (fun u => [slotRange (s.reg (0x668 + 8 * u))]) then s
  else s.writeReg (0x668 + 8 * t) v

/-- A write of RANGE_t_r; ignored where it would overlap or pass the last object (R270). -/
def State.writeSyncRange (s : State) (t r v : Nat) : State :=
  if rangeBad t 4096 (syncRange v)
      (fun u => (List.range 4).map fun q => syncRange (s.reg (syncBase + 8 * (4 * u + q)))) then s
  else s.writeReg (syncBase + 8 * (4 * t + r)) v

/-! ### Writes by block -/

/-- COUNT_CLR of SHARD_POLICY_t (Table 5.11). -/
def State.clearStaleCount (s : State) (t : Nat) : State := s.setField (0x400 + 8 * t) 47 16 0

/-- A write of TEN_CTRL_t: the weights, VALID under R324, and RESET (Table 13.8). -/
def State.writeTenCtrl (s : State) (t v : Nat) : State :=
  let s := s.writeReg (tenCtrl t) (setBits 0 0 v (s.field (tenCtrl t) 0 0))
  let s := s.writeTenValid t (bit 0 v)
  if bit 1 v then s.startTenReset t else s

/-- GLOBAL. -/
def State.writeGlobal (s : State) (lo v : Nat) : State :=
  if 0x400 ≤ lo ∧ lo < 0x420 then
    let s := s.writeReg lo v
    if bit 48 v then s.clearStaleCount ((lo - 0x400) / 8) else s
  else if 0x488 ≤ lo ∧ lo < 0x4A8 then s.writeGroupRange ((lo - 0x488) / 8) v
  else if 0x620 ≤ lo ∧ lo < 0x640 then s.writeTenCtrl ((lo - 0x620) / 8) v
  else if 0x668 ≤ lo ∧ lo < 0x688 then s.writeSlotRange ((lo - 0x668) / 8) v
  else s.writeReg lo v

/-- BOOT and SEC. A write of RESET_CTRL asks for a reset; RESET_CTRL_WARM or RESET_CTRL_COLD carries it out. -/
def State.writeBoot (s : State) (lo v : Nat) : State :=
  if lo = 0x10 then
    { s with boot := { s.boot with
        wantReset := if bit 1 v then 2 else if bit 0 v then max 1 s.boot.wantReset else s.boot.wantReset } }
  else if lo = 0x18 then
    let s := s.writeReg (bootBase + lo) v
    if bit 63 v then s.startCoreReset (bits 9 0 v) else s
  else s.writeReg (bootBase + lo) v

/-- HOST. DISPATCH.RELEASE ends the dispatch hold (R322). -/
def State.writeHost (s : State) (lo v : Nat) : State :=
  if lo = 0x48 then (if bit 0 v then { s with host := { s.host with hold := false } } else s)
  else if lo = 0x20 then
    (s.writeReg (hostBase + lo) v).raiseField (hostBase + lo) 35 18 (min s.host.cmds.length 131072)
  else if lo = 0x18 then s.latchPeak.writeReg (hostBase + lo) v
  else if lo = 0x100 ∨ lo = 0x108 then s.writePortCtrl (12 + (lo - 0x100) / 8) v
  else s.writeReg (hostBase + lo) v

/-- FAB. SKIP acts before CLEAR where one write sets both. -/
def State.writeFab (s : State) (lo v : Nat) : State :=
  if lo = 0x50 then s.writeRevive v
  else if 0x100 ≤ lo ∧ lo < 0x160 then s.writePortCtrl ((lo - 0x100) / 8) v
  else if 0x1000 ≤ lo ∧ lo < 0x1400 ∧ lo % 0x100 / 0x20 = 3 then
    let e := (lo - 0x1000) / 0x100
    let t := lo % 0x20 / 8
    let s := if bit 0 v then after (execCeQueueSkip e t s) s else s
    if bit 1 v then after (execCeQueueClear e t s) s else s
  else s.writeReg (fabBase + lo) v

/-- A write of CRUISE_CTRL: ABORT acts on a running pass before START is judged (R193). -/
def State.writeCruise (s : State) (i v : Nat) : State :=
  let s := s.writeReg (memBase i + 0x210) v
  let s := if bit 1 v then s.cruiseStop i else s
  if bit 0 v then s.cruiseGo i else s

/-- MEM[i]. -/
def State.writeMem (s : State) (i r v : Nat) : State :=
  if r = 8 then (if bit 0 v then after (execStackRetrain i s) s else s)
  else if r = 0x180 then s.scarfGo i v
  else if r = 0x210 then s.writeCruise i v
  else if 0x300 ≤ r ∧ r < 0x340 then s.writeWindow i ((r - 0x300) / 8) v
  else if r = 0x348 then s.writeAccClear i v
  else if 0x400 ≤ r ∧ r < 0x600 ∧ r % 0x100 / 0x20 = 1 then
    let e := 2 * i + (r - 0x400) / 0x100
    let t := r % 0x20 / 8
    let s := if bit 0 v then after (execFlumeQueueSkip e t s) s else s
    if bit 1 v then after (execFlumeQueueClear e t s) s else s
  else if r = 0x440 ∨ r = 0x540 then (s.writeReg (memBase i + r) v).flHigh (2 * i + (r - 0x440) / 0x100)
  else s.writeReg (memBase i + r) v

/-- SYNC, but for the words of objects. -/
def State.writeSync (s : State) (lo v : Nat) : State :=
  if lo < 0x80 then s.writeSyncRange (lo / 32) (lo / 8 % 4) v
  else if 0x40_0000 ≤ lo then s
  else s.writeReg (syncBase + lo) v

/-- LOOK. PEAK starts again from the present estimate. -/
def State.writeLook (s : State) (lo v : Nat) : State :=
  if lo = 0 then (s.writeReg lookBase v).latchPeak
  else if 0x240 ≤ lo ∧ lo < 0x260 then
    let s := s.writeReg (lookBase + lo) v
    if bit 49 v then s.lossClear ((lo - 0x240) / 8) else s
  else if 0x260 ≤ lo ∧ lo < 0x280 then s.lossSample ((lo - 0x260) / 8) (bits 31 0 v)
  else s.writeReg (lookBase + lo) v

/-- A write of UTIL_SEL: both counts start again from zero (R396). -/
def State.writeUtilSel (s : State) (v : Nat) : State :=
  ((s.writeReg (nocBase + 0x200) v).setReg (nocBase + 0x208) 0).setReg (nocBase + 0x210) 0

/-- NOC. -/
def State.writeNoc (s : State) (lo v : Nat) : State :=
  if lo = 0x38 then
    let site := s.field (nocBase + 0x30) 9 0
    ((s.setRouter site 13 7 (max (bits 13 7 v) (s.ctxs site).length)).setRouter site 63 16 (bits 63 16 v))
  else if lo = 0x200 then s.writeUtilSel v
  else s.writeReg (nocBase + lo) v

/-- A write of SEQ_CTRL: ABORT, then PAUSE, RESUME and START in that order (R66). -/
def State.writeSeqCtrl (s : State) (i : At) (v : Nat) : State :=
  let s := if bit 3 v then s.abort i else s
  let s := s.setPause i (bit 1 v)
  let s := if bit 2 v then s.resume i else s
  if bit 0 v then s.modStream i (·.start) else s

/-- A write of SEQ_PC takes effect in IDLE only (R68). -/
def Stream.writePc (t : Stream) (v : Nat) : Stream :=
  if t.state = .idle then { t with pc := BitVec.ofNat 21 (8 * bits 20 3 v) } else t

/-- A sequencer's registers. -/
def State.writeSeq (s : State) (c r v : Nat) : State :=
  let i : At := ⟨c, seqOf r⟩
  if r % 0x40 = 0 then s.writeSeqCtrl i v
  else if r % 0x40 = 0x10 then s.modStream i (·.writePc v)
  else s

/-- ARITH of a stream (R46). -/
def State.writeArith (s : State) (i : At) (v : Nat) : State :=
  s.modStream i fun t => { t with arith := arithWrite t.arith (BitVec.ofNat 5 v) }

/-- Registers of an image that hold what is written: the interleave's (held until the next rotation, R124), the
capture table's and UPD_STATUS. -/
def CoreImage.write (m : CoreImage) (r v : Nat) : CoreImage :=
  if r = 0x700 then { m with ilvNext := some (BitVec.ofNat 32 v) }
  else if r = 0x708 then { m with ilvNextLen := some (BitVec.ofNat 10 v) }
  else if r = 0x720 then { m with vcapStatus := BitVec.ofNat 64 (setBits 15 0 m.vcapStatus.toNat (bits 15 0 v)) }
  else if r = 0x728 then
    let m := { m with vcapSel := bits 7 0 v }
    if bit 8 v then
      { m with caps := m.caps.map fun (p : Nat × CapEntry) => (p.1, { p.2 with valid := false, stale := false }) }
    else m
  else if r = 0x800 then { m with updStatus := BitVec.ofNat 64 v }
  else m

/-- Tenancy-state registers of a core. A write of DMA_CTRL with RESUME and ABORT resumes first (DESIGN CHOICE, log entry
76). -/
def State.writeTenReg (s : State) (c r v : Nat) : State :=
  if 0x100 ≤ r ∧ r < 0x1C0 then s.writeSeq c r v
  else if r = 0x500 then s.writeArith ⟨c, .f⟩ v
  else if r = 0x508 then s.writeArith ⟨c, .b⟩ v
  else if r = 0x510 then s.writeArith ⟨c, .u⟩ v
  else if r = 0x908 then
    let s := if bit 0 v then after (execDmaResume c s) s else s
    if bit 1 v then after (execDmaAbort c s) s else s
  else s.modImg c fun m => m.write r v

/-- A write of NC_CTRL: every line is invalidated after the write-back that the same write asks for (Table 3.14). -/
def State.writeNc (s : State) (c v : Nat) : State := s.ncStart c (bit 0 v) (bit 1 v)

/-- CORE[c]. -/
def State.writeCore (s : State) (c r v : Nat) : State :=
  if s.coreCount ≤ c then s
  else if tenReg r then s.writeTenReg c r v
  else if r = 0x400 then s.writeNc c v
  else if r = 0x408 then
    let s := s.writeReg (coreBase c + r) v
    if bit 63 v then s.xlateInv c (bits 47 0 v) else s
  else if r = 0x410 then (s.writeReg (coreBase c + r) v).raiseTrack c (s.trackAll c)
  else if r = 0x600 then s.writeShim c v
  else if r = 0x710 then s.modArr c fun a => { a with overruns := bits 31 16 v }
  else s.writeReg (coreBase c + r) v

/-- A configuration write at an offset in a block, but for the words of sync objects. -/
def State.cfgPut (s : State) (off v : Nat) : State :=
  let lo := off % 0x100_0000
  if (regMask off).fields = 0 then s
  else match off / 0x100_0000 with
    | 0 => s.writeGlobal lo v
    | 1 => s.writeBoot lo v
    | 2 => s.writeHost lo v
    | 3 => s.writeFab lo v
    | 4 => s.writeMem (lo / 0x10_0000) (lo % 0x10_0000) v
    | 5 => s.writeSync lo v
    | 6 => s.writeLook lo v
    | 7 => if lo = 0 ∨ lo = 8 then s.writePwr (decide (lo = 8)) v else s.writeReg off v
    | 8 => s.writeNoc lo v
    | _ => s.writeCore ((off - 0x1000_0000) / 0x1_0000) (off % 0x1_0000) v

/-! ### Device-global settings (R35) -/

/-- Device-global registers of GLOBAL: GDESC_BASE, GROUP_RANGE, the table bases, those of Table 13.8 but the counter,
and the windows. -/
def globalSetting (lo : Nat) : Bool :=
  lo == 0x480 || (decide (0x488 ≤ lo) && decide (lo < 0x4A8)) || lo == 0x4C0 || lo == 0x4C8 ||
  (decide (0x600 ≤ lo) && decide (lo < 0x690)) || decide (0x1_0000 ≤ lo)

/-- Is a write of `v` at an offset a device-global setting? The Scarf and Cruise registers are where the write starts
an addition or a pass. -/
def deviceGlobal (off v : Nat) : Bool :=
  let lo := off % 0x100_0000
  (regMask off).fields != 0 &&
  match off / 0x100_0000 with
  | 0 => globalSetting lo
  | 1 => lo == 0x10 || lo == 0x18
  | 2 => lo == 0x10 || lo == 0x18 || lo == 0x28 || lo == 0x38 || lo == 0x40 || lo == 0x48 ||
    lo == 0x100 || lo == 0x108 || (decide (0x200 ≤ lo) && decide (lo < 0x240))
  | 3 => decide (lo < 0x20) || lo == 0x50 || (decide (0x100 ≤ lo) && decide (lo < 0x160))
  | 4 =>
    let r := lo % 0x10_0000
    r == 0x10 || (r == 0x180 && bit 63 v) || (r == 0x210 && bit 0 v) || (decide (0x300 ≤ r) && decide (r < 0x340))
  | 5 => decide (lo < 0x80)
  | 6 => lo == 0x8 || lo == 0x10 || lo == 0x18 || (decide (0x100 ≤ lo) && decide (lo < 0x148))
  | 7 => lo == 0 || lo == 8
  | 8 => lo == 0x10
  | _ => off % 0x1_0000 == 0xA00

/-- Is the offset a word of an access window (R336)? -/
def windowWord (off : Nat) : Bool := decide (0x1_0000 ≤ off) && decide (off < 0x1_0000 + 0x400 * 73)

/-! ### A tenancy's own registers (R312, R408) -/

/-- Is the register an identification register (mark I)? -/
def idReg (off : Nat) : Bool :=
  let lo := off % 0x100_0000
  match off / 0x100_0000 with
  | 0 => lo == 0 || lo == 8 || lo == 0x10 || lo == 0x700
  | 1 => lo == 0 || lo == 8 || (decide (0x40 ≤ lo) && decide (lo < 0x90)) || lo == 0x1000 || lo == 0x1008 ||
    (decide (0x1040 ≤ lo) && decide (lo < 0x10A0))
  | 2 => lo == 0 || lo == 8
  | 3 => lo == 0x58
  | 4 => false
  | 5 => false
  | 6 => lo == 0
  | 7 => lo == 0x10 || (decide (0x800 ≤ lo) && decide (lo ≤ 0x828))
  | 8 => lo == 8 || (decide (0x100 ≤ lo) && decide (lo < 0x150))
  | _ => let r := off % 0x1_0000; r == 0 || r == 0x10 || r == 0x18

/-- Is a register of CORE marked O? -/
def coreOwn (r : Nat) : Bool :=
  tenReg r || r == 0x400 || r == 0x408 || r == 0x410 || r == 0x710 ||
  (decide (0xB00 ≤ r) && decide (r < 0xB30)) || (decide (0xC00 ≤ r) && decide (r < 0xD80)) ||
  (decide (0xE00 ≤ r) && decide (r < 0xE40)) || r == 0xF00 || r == 0xF08

/-- Is the register one of tenancy `t`'s own? -/
def State.ownReg (s : State) (t off : Nat) : Bool :=
  let lo := off % 0x100_0000
  let nth (base : Nat) : Bool := lo == base + 8 * t
  match off / 0x100_0000 with
  | 0 => nth 0x400
  | 1 => false
  | 2 => nth 0x1408
  | 3 => decide (0x1000 ≤ lo) && decide (lo < 0x1400) && decide (lo % 0x100 < 0x80) && decide (lo % 0x20 / 8 = t)
  | 4 =>
    let r := lo % 0x10_0000
    decide (0x400 ≤ r) && decide (r < 0x600) && decide (r % 0x100 < 0x40) && decide (r % 0x20 / 8 = t)
  | 5 => decide (0x40_0000 ≤ lo) && decide (lo < 0x80_0000) && s.inRange t ((lo - 0x40_0000) / 16)
  | 6 => nth 0x200 || nth 0x220 || nth 0x240 || nth 0x260 || nth 0x280 || nth 0x2A0 || nth 0x2C0
  | 7 => false
  | 8 => false
  | _ => coreOwn (off % 0x1_0000) && s.allocNames t ((off - 0x1000_0000) / 0x1_0000)

/-! ### Sync objects (R271) -/

/-- The sync object of an offset, if it is a word of one, and whether the word is word 1. -/
def objectOf (off : Nat) : Option (Nat × Bool) :=
  let lo := off % 0x100_0000
  if off / 0x100_0000 = 5 ∧ 0x40_0000 ≤ lo ∧ lo < 0x80_0000 then
    some ((lo - 0x40_0000) / 16, decide (lo % 16 = 8))
  else none

/-- The operation that a write of a word is: `sy.cfg` for word 1; for word 0 by the object's type, none for a
barrier. -/
def State.wordOp (s : State) (n t j : Nat) (word1 : Bool) (v : Word) : Option SyncOp :=
  let op : Option Nat :=
    if word1 then some 0
    else match (s.obj j).type.toNat with
      | 2 => none
      | 3 => some (if v.getLsbD 0 then 8 else 9)
      | _ => some 2
  op.map fun o => { src := .session n, ten := t, op := o, obj := j, x := v }

/-- A host write of an object word: the state, and the code of a refusal or 0. -/
def State.writeObject (s : State) (n t j : Nat) (word1 : Bool) (v : Word) : State × Nat :=
  match s.wordOp n t j word1 v with
  | some o => s.atBank o false
  | none =>
    let o : SyncOp := { src := .session n, ten := t, op := 2, obj := j, x := v }
    if !s.inRange t j || s.syncDenied o then (s.countRefusal o codeAccess, codeAccess) else (s, 0)

/-- A host read of an object word, one operation at its bank: the state, and the word or the code of a refusal. -/
def State.readObject (s : State) (n t j : Nat) (word1 : Bool) : State × Nat × Nat :=
  let o : SyncOp := { src := .session n, ten := t, op := 11, obj := j, x := 0 }
  let code := s.refusal o false
  if code = 0 then (s, 0, s.objWord j word1) else (s.countRefusal o code, code, 0)

/-! ### The rows of this file -/

/-- UTIL_SEL_WRITE. -/
def execUtilSelWrite (value : Word) (s : State) : Out := .next (s.writeUtilSel value.toNat)

/-- SHARD_POLICY_COUNT_CLR. -/
def execShardPolicyCountClr (t : Nat) (s : State) : Out := if t < 4 then .next (s.clearStaleCount t) else .next s

/-- SYNC_OBJECT_WORD_WRITE: a session's write reaches its bank. -/
def execSyncObjectWordWrite (session obj : Nat) (word1 : Bool) (value : Word) (s : State) : Out :=
  if session < 64 ∧ (s.session session).state ≠ 0 ∧ obj < 262144 then
    .next (s.writeObject session (s.session session).ten obj word1 value).1
  else .next s

end Sys2Proof.Machine
end

