-- ==== Sys2Proof/Machine/Plt.lean ====
section
/-! DEFINITION. The Plomas transport: datagrams in and out (R302–R305), sessions (R306, R307), the acceptance of
commands (R308–R310), READ (R317), and the sending of events (R315, R318). -/

namespace Sys2Proof.Machine

/-! ### Bytes -/

/-- Are the bytes from `o` to before `e` all zero? -/
def zeroAt (bs : List Byte) (o e : Nat) : Bool := ((bs.drop o).take (e - o)).all fun b => b == 0

/-- One bit of the CRC-32C register (polynomial 0x1EDC6F41, reflected). -/
def crcBit (c : Nat) : Nat := if c % 2 = 1 then Nat.xor (c / 2) 0x82F63B78 else c / 2

/-- One byte of the CRC. -/
def crcByte (c : Nat) (b : Byte) : Nat :=
  let c := Nat.xor c b.toNat
  crcBit (crcBit (crcBit (crcBit (crcBit (crcBit (crcBit (crcBit c)))))))

/-- CRC-32C (R304). -/
def crc32c (bs : List Byte) : Nat := Nat.xor (bs.foldl crcByte 0xFFFFFFFF) 0xFFFFFFFF

/-- A datagram with CHECK taken as zero. -/
def withoutCheck (bs : List Byte) : List Byte := bs.take 28 ++ [0, 0, 0, 0] ++ bs.drop 32

/-- A datagram with its CHECK in place. -/
def withCheck (bs : List Byte) : List Byte := bs.take 28 ++ bytesOf 4 (crc32c bs) ++ bs.drop 32

/-! ### The header (Table 12.1) -/

def pltVer (bs : List Byte) : Nat := leAt bs 0 1 % 16
def pltKind (bs : List Byte) : Nat := leAt bs 0 1 / 16
def pltRecords (bs : List Byte) : Nat := leAt bs 1 1
def pltSession (bs : List Byte) : Nat := leAt bs 2 1 % 64
def pltAckValid (bs : List Byte) : Bool := bit 0 (leAt bs 3 1)
def pltEpoch (bs : List Byte) : Nat := leAt bs 4 4
def pltSeq (bs : List Byte) : Nat := leAt bs 8 6
def pltAck (bs : List Byte) : Nat := leAt bs 14 6
def pltToken (bs : List Byte) : Nat := leAt bs 20 4
def pltPayload (bs : List Byte) : Nat := leAt bs 24 2
def pltCheck (bs : List Byte) : Nat := leAt bs 28 4

/-- Kinds that hosts send (Table 12.2). -/
def kOpen : Nat := 0
def kCommand : Nat := 2
def kAck : Nat := 5
def kRead : Nat := 6
def kClose : Nat := 8

/-- Does a kind carry this many records? None for the kinds that hosts do not send (Table 12.2). -/
def recordsOk (kind n : Nat) : Bool :=
  if kind = kOpen ∨ kind = kRead then n == 1
  else if kind = kCommand then decide (1 ≤ n) && decide (n ≤ 64)
  else if kind = kAck ∨ kind = kClose then n == 0
  else false

/-- Are the reserved bytes of the one record of an OPEN or a READ zero (R306, R317)? -/
def recordZero (bs : List Byte) : Bool :=
  if pltKind bs = kOpen then decide (leAt bs 32 1 < 4) && zeroAt bs 33 96
  else if pltKind bs = kRead then
    zeroAt bs 33 36 && zeroAt bs 40 96 && decide (leAt bs 36 4 % 8192 = 0)
  else true

/-- Is the datagram whole (R304, R305)? A kind that only the device sends counts as malformed (log entry 40). -/
def pltOk (bs : List Byte) : Bool :=
  decide (32 ≤ bs.length) && decide (bs.length ≤ 8672) && pltVer bs == 1 && recordsOk (pltKind bs) (pltRecords bs) &&
  decide (leAt bs 2 1 < 64) && decide (leAt bs 3 1 < 2) && zeroAt bs 26 28 &&
  decide (bs.length = 32 + 64 * pltRecords bs + pltPayload bs) && recordZero bs &&
  decide (pltCheck bs = crc32c (withoutCheck bs))

/-! ### The port (R302, R303) -/

/-- Does the device run in RECOVERY (R379)? -/
def State.recovery (s : State) : Bool := s.boot.result == 3

/-- The MAC address that a host port sends from. -/
def State.hostMac (s : State) (p : Nat) : Nat := (s.fuses.macBase + p) % 2 ^ 48

/-- The IPv6 link-local address formed from a MAC address in modified EUI-64 form, first byte on the wire in the low
bits; the MAC address's most significant byte goes first on the wire. -/
def linkLocal (mac : Nat) : Nat :=
  let m (k : Nat) : Nat := bits (47 - 8 * k) (40 - 8 * k) mac
  packBytes (([0xFE, 0x80, 0, 0, 0, 0, 0, 0, Nat.xor (m 0) 2, m 1, m 2, 0xFF, 0xFE, m 3, m 4, m 5] : List Nat).map
    (BitVec.ofNat 8))

/-- A port's IPv6 address, first byte on the wire in the low bits. -/
def State.ip6 (s : State) (p : Nat) : Nat :=
  if s.recovery then linkLocal (s.hostMac p)
  else s.reg (hostBase + 0x200 + 0x20 * p) + 2 ^ 64 * s.reg (hostBase + 0x208 + 0x20 * p)

/-- A port's IPv4 address, and whether IPv4 and IPv6 are accepted. -/
def State.ip4 (s : State) (p : Nat) : Nat := s.field (hostBase + 0x210 + 0x20 * p) 31 0
def State.v4On (s : State) (p : Nat) : Bool := bit 32 (s.reg (hostBase + 0x210 + 0x20 * p))
def State.v6On (s : State) (p : Nat) : Bool := s.recovery || bit 33 (s.reg (hostBase + 0x210 + 0x20 * p))

/-- The UDP port of the transport: that of UDP_CFG, or in RECOVERY 47164 (R379). -/
def State.udpPort (s : State) : Nat := if s.recovery then 47164 else s.field (hostBase + 0x10) 15 0

/-- The one's complement sum of 16-bit words, first byte on the wire on top. -/
def wordSum : List Byte → Nat
  | a :: b :: bs => 256 * a.toNat + b.toNat + wordSum bs
  | [a] => 256 * a.toNat
  | [] => 0

/-- The checksum of a UDP datagram between two addresses, never sent as 0 (R302; PRESUMED, log entry 126). -/
def udpChecksum (v4 : Bool) (src dst sport dport : Nat) (bs : List Byte) : Nat :=
  let n := 8 + bs.length
  let addrs := if v4 then leBytes 4 src ++ leBytes 4 dst else leBytes 16 src ++ leBytes 16 dst
  let t := wordSum addrs + 17 + 2 * n + sport + dport + wordSum bs
  let c := 65535 - (if t = 0 then 0 else (t - 1) % 65535 + 1)
  if c = 0 then 65535 else c

/-- Is the UDP checksum of a datagram none, or the right one (R302)? -/
def udpSumOk (d : Datagram) : Bool :=
  d.udpSum == 0 || d.udpSum == udpChecksum d.v4 d.srcIp d.dstIp d.srcUdp d.dstUdp d.bytes

/-- How a frame leaves a port (R302): its PCP and VLAN in a tag where TAG_EN asks for one. -/
def State.hostVia (s : State) (p ip : Nat) : HostVia :=
  let u := s.reg (hostBase + 0x10)
  ⟨p, s.hostMac p, if bit 28 u then some (2 ^ 13 * bits 31 29 u + bits 27 16 u) else none, ip⟩

/-- A frame leaves. -/
def State.sendHost (s : State) (f : HostTx) : State := { s with host := { s.host with tx := s.host.tx ++ [f] } }

/-- What a port that is up announces of its addresses in the beacon (R375; log entry 127). -/
def State.beaconPort (s : State) (p : Nat) : State :=
  if !(s.port (12 + p)).up then s
  else
    let s := if s.v6On p then s.sendHost (.unsolicitedAdvert (s.hostVia p (s.ip6 p))) else s
    if s.v4On p then s.sendHost (.gratuitousArp (s.hostVia p (s.ip4 p))) else s

/-- Has the boot come to its end at step 8, where the device beacons (R374, R375)? A tenancy or core reset changes nothing of
that. -/
def State.booted (s : State) : Bool := s.boot.result == 1 || s.boot.result == 2

/-- PORT_LINK_UP: training is complete, and the verification of R284 has run where PREEMPT_EN asks for it. A host port
that comes up once the device has beaconed beacons then (R375). -/
def execPortLinkUp (port : Nat) (rate400 verified : Bool) (s : State) : Out :=
  if port < 14 ∧ (s.port port).up = false ∧ s.portMay port rate400 = true then
    let pre := decide (port < 12) && bit 4 (s.reg (fabBase + 0x100 + 8 * port)) && verified
    let s := State.pumpAll (s.modPort port fun _ => { up := true, rate400 := rate400, preempt := pre })
    .next (if 12 ≤ port ∧ s.booted = true then s.beaconPort (port - 12) else s)
  else .next s

/-- Does the port accept the datagram as PLT? Frames that it does not are discarded without a count. -/
def State.accepts (s : State) (d : Datagram) : Bool :=
  let u := s.reg (hostBase + 0x10)
  decide (d.port < 2) && (s.port (12 + d.port)).up && decide (d.fecUncorr = 0) && udpSumOk d &&
  (if d.v4 then s.v4On d.port && d.dstIp == s.ip4 d.port else s.v6On d.port && d.dstIp == s.ip6 d.port) &&
  d.dstUdp == s.udpPort &&
  (if bit 28 u then d.vlan == some (bits 27 16 u) else d.vlan.isNone)

/-- ARP_REQUEST: answered for the port's IPv4 address. -/
def execArpRequest (port targetIp senderMac senderIp : Nat) (s : State) : Out :=
  if port < 2 ∧ (s.port (12 + port)).up = true ∧ s.v4On port = true ∧ targetIp = s.ip4 port then
    .next (s.sendHost (.arpReply (s.hostVia port (s.ip4 port)) senderMac senderIp))
  else .next s

/-- NEIGHBOUR_SOLICITATION: answered for the port's IPv6 address. -/
def execNeighbourSolicitation (port targetIp senderMac senderIp : Nat) (s : State) : Out :=
  if port < 2 ∧ (s.port (12 + port)).up = true ∧ s.v6On port = true ∧ targetIp = s.ip6 port then
    .next (s.sendHost (.neighbourAdvert (s.hostVia port (s.ip6 port)) senderMac senderIp))
  else .next s

/-! ### Sessions -/

/-- A session changed. -/
def State.modSession (s : State) (n : Nat) (g : Session → Session) : State :=
  { s with host := { s.host with sessions := SMap.put s.host.sessions n (g (s.session n)) } }

/-- Counters of HOST.RX_DISCARDS and of SESSION_CNT_s (Table 12.12). -/
def State.discard (s : State) (hi lo : Nat) : State := s.count (hostBase + 0x1400) hi lo 1
def State.countSession (s : State) (n hi lo : Nat) : State := s.count (hostBase + 0x1200 + 8 * n) hi lo 1

/-- Does the datagram name an OPEN or LOST session with its TOKEN (R305)? -/
def State.known (s : State) (bs : List Byte) : Bool :=
  let x := s.session (pltSession bs)
  x.state != 0 && x.token == pltToken bs

/-- Where the source of a datagram is. -/
def originOf (d : Datagram) : HostAddr := ⟨d.srcMac, d.srcIp, d.v4, d.srcUdp⟩

/-- A datagram of the device: a header and its records and payload. -/
def pltOut (kind records session epoch seq ack token payload : Nat) (rest : List Byte) : List Byte :=
  withCheck (bytesOf 1 (1 + 16 * kind) ++ bytesOf 1 records ++ bytesOf 1 session ++ [1] ++ bytesOf 4 epoch ++
    bytesOf 6 seq ++ bytesOf 6 ack ++ bytesOf 4 token ++ bytesOf 2 payload ++ [0, 0, 0, 0, 0, 0] ++ rest)

/-- A datagram of a session leaves through a port, if it is up. Its source is the port's address with UDP_PORT (DESIGN
CHOICE, log entry 126). -/
def State.emit (s : State) (p : Nat) (dst : HostAddr) (bs : List Byte) : State :=
  let ip := if dst.v4 then s.ip4 p else s.ip6 p
  if (s.port (12 + p)).up then
    s.sendHost (.plt (s.hostVia p ip) s.udpPort (udpChecksum dst.v4 ip dst.ip s.udpPort dst.udp bs) dst bs)
  else s

/-- The session's datagram of a kind, to where its last valid datagram came from, or else back to `d` (R303). -/
def State.answer (s : State) (n : Nat) (d : Datagram) (kind records seq payload : Nat) (rest : List Byte) : State :=
  let x := s.session n
  let bs := pltOut kind records n s.host.epoch seq (x.next - 1) x.token payload rest
  match SMap.get? x.addrs x.port with
  | some a => s.emit x.port a bs
  | none => s.emit d.port (originOf d) bs

/-- A response entry (Table 12.6). -/
def respEntry (outcome code reason dup seq : Nat) : List Byte :=
  bytesOf 1 outcome ++ bytesOf 1 code ++ bytesOf 1 reason ++ bytesOf 1 dup ++ bytesOf 4 0 ++ bytesOf 6 seq ++ bytesOf 2 0

/-- Journal records whose completion is acknowledged are freed (R320). -/
def State.freeAcked (s : State) (n : Nat) (es : List HostEvent) : State :=
  { s with host := { s.host with cmds := s.host.cmds.filter fun c =>
      !(c.session == n && es.any fun e => e.cmd == some c.seq) } }

/-- An acknowledgement of events up to a number (R315). -/
def State.takeAckOf (s : State) (n a : Nat) : State :=
  let es := (s.session n).events.filter fun e => decide (e.num ≤ a)
  if es.isEmpty then s
  else (s.freeAcked n es).modSession n fun x =>
    { x with events := x.events.filter fun e => !decide (e.num ≤ a), resends := 0 }

/-- A valid datagram of a session: its port and address are recorded, it is OPEN, and its ACK is taken
(R303, R307, R319). -/
def State.valid (s : State) (d : Datagram) : State :=
  let n := pltSession d.bytes
  let s := s.modSession n fun x =>
    { x with state := 1, port := d.port, other := false, addrs := SMap.put x.addrs d.port (originOf d) }
  let s := if s.host.lease = some n then { s with host := { s.host with lostEnd := none } } else s
  if pltAckValid d.bytes then s.takeAckOf n (pltAck d.bytes) else s

/-- What every row of a datagram does: its codewords counted, discards with their counts, the answer to another EPOCH
(R305), and then the effect of the row's kind; a datagram of another kind is not the row's. -/
def plt (kind : Nat) (d : Datagram) (s : State) (body : State → State) : Out :=
  let s := if d.port < 2 ∧ (s.port (12 + d.port)).up = true then s.countFec (12 + d.port) d.fecCorr d.fecUncorr else s
  if !s.accepts d then .next s
  else if !pltOk d.bytes then .next (s.discard 15 0)
  else if pltKind d.bytes ≠ kind then .next s
  else if kind = kOpen then .next (body s)
  else if !s.known d.bytes then .next (s.discard 31 16)
  else if pltEpoch d.bytes ≠ s.host.epoch then
    .next ((s.discard 47 32).answer (pltSession d.bytes) d 3 1 (pltSeq d.bytes) 0
      (respEntry 1 0 5 0 (pltSeq d.bytes)))
  else .next (body (s.valid d))

/-! ### OPEN and CLOSE (R306, R307) -/

/-- The 128-bit source of a datagram, first byte in the low bits: an IPv4 address in its mapped form. -/
def sourceIp (d : Datagram) : Nat := if d.v4 then 2 ^ 80 * 65535 + 2 ^ 96 * d.srcIp else d.srcIp

/-- Bit `k` of an address as its prefixes count: from the first byte's most significant bit. -/
def prefixBit (a k : Nat) : Bool := bit (8 * (k / 8) + 7 - k % 8) a

/-- Does a prefix of `n` bits of `p` cover the address? -/
def covers (p n a : Nat) : Bool := (List.range n).all fun k => prefixBit p k == prefixBit a k

/-- Where the admission table stands. -/
def State.admitPa (s : State) : Nat := bits 38 12 (s.reg (hostBase + 0x40)) * 4096

/-- Is the admission table held at its stack, or cut off? -/
def State.admitHeld (s : State) : Bool := s.hostHeld s.admitPa || s.hostHeld (s.admitPa + 2047)

/-- The MANAGER bit of an admission entry that admits the source to the tenancy; one that reads with a mark admits
none, nor does one with a reserved bit set (R306). -/
def State.admitBy (s : State) (src t k : Nat) : Option Bool :=
  let pa := s.admitPa + 32 * k
  let e := s.memBytes pa 32
  let f := leAt e 17 1
  let m := leAt e 18 1
  if !s.memMark pa 32 && bit 7 m && bit t f && decide (f < 16) && (m == 0x80 || m == 0x81) && zeroAt e 19 32 &&
      decide (leAt e 16 1 ≤ 128) && covers (leAt e 0 16) (leAt e 16 1) src then some (bit 0 m)
  else none

/-- The first entry that admits, in index order. -/
def State.admission (s : State) (src t : Nat) : Option Bool := (List.range 64).findSome? (s.admitBy src t)

/-- The lowest CLOSED session. -/
def State.freeSession (s : State) : Option Nat := (List.range 64).find? fun n => (s.session n).state == 0

/-- A session opens and OPENED leaves. -/
def State.openSession (s : State) (d : Datagram) (n t : Nat) (manager : Bool) : State :=
  let token := Config.number s.free % 2 ^ 32
  let s := (s.draw 1).modSession n fun _ => { state := 1, ten := t, manager := manager, token := token, port := d.port }
  s.answer n d 1 1 0 0 (bytesOf 1 n ++ bytesOf 1 (b2n manager) ++ bytesOf 2 0 ++ bytesOf 4 token ++ bytesOf 6 1 ++
    bytesOf 2 0 ++ bytesOf 6 1 ++ bytesOf 42 0)

/-- An OPEN judged: in RECOVERY every one is admitted to tenancy 0 with MANAGER (R379). -/
def State.takeOpen (s : State) (d : Datagram) : State :=
  let t := if s.recovery then 0 else leAt d.bytes 32 1
  let s := if s.recovery then s else s.touch s.admitPa 2048
  match (if s.recovery then some true else s.admission (sourceIp d) t), s.freeSession with
  | some m, some n => s.openSession d n t m
  | _, _ => s.discard 63 48

/-- OPEN. While the admission table's lines are held at their stack, the open waits. -/
def execOpen (d : Datagram) (s : State) : Out :=
  plt kOpen d s fun s =>
    if !s.recovery && s.admitHeld then s else s.takeOpen d

/-- Has the session commands that are not complete, or events that are not acknowledged? -/
def State.sessionBusy (s : State) (n : Nat) : Bool :=
  !(s.session n).events.isEmpty || s.host.cmds.any fun c => c.session == n

/-- A session closes: it gives up its fault binding and the port semaphore. -/
def State.closeSession (s : State) (n : Nat) : State :=
  let h := s.host
  { s with host := { h with
      sessions := SMap.del h.sessions n
      bind := h.bind.filter fun p => p.2 != n
      lease := if h.lease = some n then none else h.lease
      lostEnd := if h.lease = some n then none else h.lostEnd } }

/-- CLOSE. -/
def execClose (d : Datagram) (s : State) : Out :=
  plt kClose d s fun s =>
    let n := pltSession d.bytes
    if s.sessionBusy n then s else s.closeSession n

/-- ACK: its header alone acts. -/
def execAck (d : Datagram) (s : State) : Out := plt kAck d s fun s => s

/-! ### Command records (Tables 12.3, 12.4, 16.8) -/

def HostCmd.opcode (c : HostCmd) : Nat := leAt c.bytes 0 1
def HostCmd.depEn (c : HostCmd) : Bool := bit 0 (leAt c.bytes 1 1)
def HostCmd.depOk (c : HostCmd) : Bool := bit 1 (leAt c.bytes 1 1)
def HostCmd.fence (c : HostCmd) : Bool := bit 2 (leAt c.bytes 1 1)
def HostCmd.handleEn (c : HostCmd) : Bool := bit 3 (leAt c.bytes 1 1)
def HostCmd.handle (c : HostCmd) : Nat := leAt c.bytes 2 1
def HostCmd.depSeq (c : HostCmd) : Nat := leAt c.bytes 8 6
def HostCmd.addr (c : HostCmd) : Nat := leAt c.bytes 16 8
def HostCmd.space (c : HostCmd) : Nat := leAt c.bytes 24 1

/-- Bytes that LEN/16 − 1 stands for, in the low `w` bits of bytes 26–27, and the inline offset. -/
def HostCmd.len (c : HostCmd) : Nat := 16 * (leAt c.bytes 26 2 + 1)
def HostCmd.off (c : HostCmd) : Nat := 16 * leAt c.bytes 28 2

/-- Opcodes (Tables 12.4, 16.8). -/
def opNop : Nat := 0x00
def opCfgRead : Nat := 0x01
def opCfgWrite : Nat := 0x02
def opMemWrite : Nat := 0x03
def opMemRead : Nat := 0x04
def opRun : Nat := 0x05
def opHrelease : Nat := 0x06
def opFaultBind : Nat := 0x07
def opSemAcquire : Nat := 0x08
def opSemRenew : Nat := 0x09
def opSemRelease : Nat := 0x0A
def opFlashRead : Nat := 0x40
def opFlashErase : Nat := 0x41
def opFlashWrite : Nat := 0x42
def opSecAttest : Nat := 0x43
def opSvnAdvance : Nat := 0x44
def opWarmReset : Nat := 0x45
def opCoreReset : Nat := 0x46
def opColdReset : Nat := 0x47
def opKeyEnrol : Nat := 0x48
def opKeyRevoke : Nat := 0x49

/-- Inline data that a command carries: offset and length. -/
def HostCmd.inline (c : HostCmd) : Option (Nat × Nat) :=
  if c.opcode = opMemWrite ∨ c.opcode = opFlashWrite then some (c.off, c.len)
  else if c.opcode = opKeyEnrol then some (c.off, 32)
  else none

/-- Is the record's use of a handle as its row of the tables has it? -/
def HostCmd.handleUse (c : HostCmd) : Bool :=
  let op := c.opcode
  if op = opCfgRead ∨ op = opMemRead ∨ op = opHrelease ∨ op = opFlashRead then c.handleEn
  else if op = opRun then true
  else if op = opSecAttest then (if c.space = 2 then c.handleEn && decide (c.handle < 255) else true)
  else !c.handleEn

/-- Are the operands of the record in their fields, and its unused bytes zero? -/
def HostCmd.argsOk (c : HostCmd) : Bool :=
  let b := c.bytes
  let op := c.opcode
  if op = opCfgRead then zeroAt b 24 64
  else if op = opCfgWrite then zeroAt b 32 64
  else if op = opMemWrite then
    zeroAt b 22 24 && decide (c.space < 2) && zeroAt b 25 26 && decide (leAt b 26 2 < 512) &&
    decide (leAt b 28 2 < 512) && zeroAt b 30 64
  else if op = opMemRead then
    zeroAt b 22 24 && decide (c.space < 2) && zeroAt b 25 26 && decide (leAt b 26 2 < 1024) && zeroAt b 28 64
  else if op = opRun then
    decide (leAt b 16 2 < 4096) && decide (leAt b 18 1 < 8) && zeroAt b 19 20 && zeroAt b 32 64
  else if op = opFlashRead then
    decide (leAt b 16 4 % 16 = 0) && zeroAt b 20 26 && decide (leAt b 26 2 < 1024) && zeroAt b 28 64
  else if op = opFlashErase then
    decide (leAt b 16 4 % 65536 = 0) && decide (1 ≤ leAt b 20 2) && decide (leAt b 20 2 ≤ 2048) && zeroAt b 22 64
  else if op = opFlashWrite then
    decide (leAt b 16 4 % 16 = 0) && zeroAt b 20 26 && decide (leAt b 26 2 < 512) && zeroAt b 30 64
  else if op = opSecAttest then zeroAt b 22 24 && decide (c.space < 3) && zeroAt b 25 32
  else if op = opCoreReset then zeroAt b 18 64
  else if op = opKeyEnrol then zeroAt b 16 28 && zeroAt b 30 64
  else if op = opKeyRevoke then zeroAt b 17 64
  else zeroAt b 16 64

/-- Is the record well formed, in a datagram with this many bytes of inline data (case 3 of Table 12.5)? -/
def HostCmd.wellFormed (c : HostCmd) (payload : Nat) : Bool :=
  (decide (c.opcode ≤ 0x0A) || (decide (0x40 ≤ c.opcode) && decide (c.opcode ≤ 0x49))) &&
  decide (leAt c.bytes 1 1 < 16) && zeroAt c.bytes 3 8 && zeroAt c.bytes 14 16 &&
  decide (c.depSeq < c.seq) && c.handleUse && c.argsOk &&
  (match c.inline with
   | some (o, n) => decide (o + n ≤ payload)
   | none => true)

/-! ### Acceptance (R309, Table 12.5) -/

/-- Is a journal copy available for writes? -/
def State.copyUp (s : State) (copyB : Bool) : Bool := s.jrnState copyB == 0

/-- Are both copies unavailable? In RECOVERY the journal lies in the retained store. -/
def State.journalDown (s : State) : Bool :=
  !s.host.accepting || (!s.recovery && !s.copyUp false && !s.copyUp true)

/-- Where the journal's region stands in a copy's stack (R320). -/
def State.journalPa (s : State) (copyB : Bool) : Nat :=
  s.jrnStack copyB * 2 ^ 36 + s.field (hostBase + 0x18) 13 8 * 2 ^ 30

/-- Can a copy in use not be written now? -/
def State.journalHeld (s : State) : Bool :=
  let held (copyB : Bool) : Bool := s.copyUp copyB && s.memHeld (s.journalPa copyB)
  !s.recovery && (held false || held true)

/-- The region of a copy written in its own layout (log entry 95). -/
def State.writeCopy (s : State) (copyB : Bool) : State := s.writeArea (s.journalPa copyB / 64) (2 ^ 24)

/-- What the journal's regions hold follows the transport, in every copy in use (R309, R320). -/
def State.writeJournal (s : State) : State :=
  if s.recovery then s
  else
    let s := if s.copyUp false then s.writeCopy false else s
    if s.copyUp true then s.writeCopy true else s

/-- Inline bytes that the journal keeps. -/
def State.inlineBytes (s : State) : Nat := s.host.cmds.foldl (fun n c => n + c.data.length) 0

/-- Is the journal, its inline ring or the session's share of it full (case 5)? -/
def State.journalFull (s : State) (c : HostCmd) : Bool :=
  decide ((if s.recovery then 256 else 131072) ≤ s.host.cmds.length) ||
  (!s.recovery && decide (2 ^ 28 < s.inlineBytes + c.data.length)) ||
  decide (16384 ≤ (s.host.cmds.filter fun x => x.session == c.session).length) || s.journalHeld

/-- A record accepted: it is in every copy of the journal in use, and the next number advances. -/
def State.acceptCmd (s : State) (c : HostCmd) : State :=
  let s := { s with host := { s.host with cmds := s.host.cmds ++ [{ c with inA := s.copyUp false, inB := s.copyUp true }] } }
  let s := s.modSession c.session fun x => { x with next := x.next + 1 }
  (s.raiseField (hostBase + 0x20) 35 18 s.host.cmds.length).writeJournal

/-- A record answered BUSY. -/
def State.busy (s : State) (n : Nat) : State := (s.count (hostBase + 0x20) 51 36 1).countSession n 63 48

/-- One record decided by the first case of Table 12.5: the state, its entry, and whether it was accepted. -/
def State.decide1 (s : State) (c : HostCmd) (payload : Nat) (earlier : Bool) : State × List Byte × Bool :=
  let n := c.session
  let next := (s.session n).next
  let seqReject : State × List Byte × Bool := (s.countSession n 47 32, respEntry 1 codeSequence 2 0 c.seq, false)
  if !earlier then seqReject
  else if c.seq < next then (s.countSession n 31 16, respEntry 0 0 0 1 c.seq, true)
  else if next < c.seq then seqReject
  else if !c.wellFormed payload then (s, respEntry 1 0 1 0 c.seq, false)
  else if s.journalDown then (s.busy n, respEntry 2 0 4 0 c.seq, false)
  else if s.journalFull c then (s.busy n, respEntry 2 0 3 0 c.seq, false)
  else (s.acceptCmd c, respEntry 0 0 0 0 c.seq, true)

/-- Record `k` of a COMMAND datagram, with the inline data that it names. -/
def recordOf (bs : List Byte) (k : Nat) : HostCmd :=
  let payload := bs.drop (32 + 64 * pltRecords bs)
  let c : HostCmd := { session := pltSession bs, seq := pltSeq bs + k, bytes := (bs.drop (32 + 64 * k)).take 64, data := [] }
  match c.inline with
  | some (o, n) => { c with data := (payload.drop o).take n }
  | none => c

/-- The records of a datagram decided in order, with the entries of the response. -/
def State.decideAll (s : State) (payload : Nat) : List HostCmd → Bool → List Byte → State × List Byte
  | [], _, out => (s, out)
  | c :: cs, earlier, out =>
    let (s, e, ok) := s.decide1 c payload earlier
    s.decideAll payload cs (earlier && ok) (out ++ e)

/-- COMMAND: its records are decided and the RESPONSE leaves (R309, R310). -/
def execCommand (d : Datagram) (s : State) : Out :=
  plt kCommand d s fun s =>
    let bs := d.bytes
    let (s, es) := s.decideAll (pltPayload bs) ((List.range (pltRecords bs)).map (recordOf bs)) true []
    s.answer (pltSession bs) d 3 (pltRecords bs) (pltSeq bs) 0 es

/-! ### READ (R317) -/

/-- STATE of a result descriptor (Table 12.8). -/
def HandleState.code : HandleState → Nat
  | .empty => 0
  | .pending => 1
  | .ready => 2
  | .released => 3

/-- The RESULT for a handle from an offset: the descriptor and the data. -/
def Handle.result (h : Handle) (k off : Nat) : List Byte × List Byte :=
  let ready := h.state == .ready
  let v (n : Nat) : Nat := if ready then n else 0
  (bytesOf 1 h.state.code ++ bytesOf 1 k ++ bytesOf 2 0 ++ bytesOf 4 (v h.gen.toNat) ++ bytesOf 4 (v h.data.length) ++
    bytesOf 4 (v off) ++ bytesOf 6 (v h.seq) ++ bytesOf 10 0,
   if ready then (h.data.drop off).take 8192 else [])

/-- READ. -/
def execRead (d : Datagram) (s : State) : Out :=
  plt kRead d s fun s =>
    let n := pltSession d.bytes
    let k := leAt d.bytes 32 1
    let r := (SMap.get {} (s.session n).handles k : Handle).result k (leAt d.bytes 36 4)
    s.answer n d 7 1 0 r.2.length (r.1 ++ r.2)

/-! ### Events (R315, R318) -/

/-- A fault record (Table 12.9). -/
def FaultRec.bytes (r : FaultRec) : List Byte :=
  bytesOf 1 2 ++ bytesOf 1 r.source ++ bytesOf 1 r.code ++ bytesOf 1 r.ten ++ bytesOf 2 r.engine ++
  bytesOf 1 (b2n r.write + 2 * r.level + 16 * r.cause) ++ bytesOf 1 0 ++ bytesOf 8 r.addr ++ bytesOf 8 r.aux ++
  bytesOf 8 r.count

/-- An event of a session queued with the next event number. -/
def State.queueEvent (s : State) (n : Nat) (record : List Byte) (cmd : Option Nat) : State :=
  s.modSession n fun x =>
    { x with events := x.events ++ [({ num := x.nextEvent, record := record, cmd := cmd } : HostEvent)],
             nextEvent := x.nextEvent + 1 }

/-- The oldest fault record of a tenancy becomes an event of its fault session; where the queue had dropped records,
the one that says so takes the space (R318). The CODE of that record is 0x00 (DESIGN CHOICE, log entry 144). -/
def State.moveFault (s : State) (n t : Nat) : State :=
  match SMap.get [] s.faultQ t with
  | [] => s
  | r :: rs =>
    let s := { s with faultQ := SMap.put s.faultQ t rs }.queueEvent n r.bytes none
    let k : Nat := SMap.get 0 s.host.drops t
    if k = 0 then s
    else { s with host := { s.host with drops := SMap.del s.host.drops t } }.queueFault
      ⟨7, 0, t, 0, 0, k, false, 0, 0, 0⟩

/-- The port and address that a session's events go to (R303, R315). -/
def Session.route (x : Session) : Option (Nat × HostAddr) :=
  let at_ (p : Nat) : Option (Nat × HostAddr) := (SMap.get? x.addrs p).map fun a => (p, a)
  if x.other then (match at_ (1 - x.port) with
    | some r => some r
    | none => at_ x.port)
  else at_ x.port

/-- The events of a session that have not left, at most 64. -/
def Session.unsent (x : Session) : List HostEvent := (x.events.filter fun e => !e.sent).take 64

/-- Up to 64 events that have not left, leave. -/
def State.sendEvents (s : State) (n : Nat) : State :=
  let x := s.session n
  match x.route, x.unsent with
  | some (p, a), e :: es =>
    let s := s.emit p a (pltOut 4 (e :: es).length n s.host.epoch e.num (x.next - 1) x.token 0
      ((e :: es).map fun (e : HostEvent) => e.record).flatten)
    let sentNow (k : Nat) : Bool := (e :: es).any fun y => y.num == k
    s.modSession n fun x => { x with events := x.events.map fun (e : HostEvent) =>
      { e with sent := e.sent || sentNow e.num } }
  | _, _ => s

/-- EVENT_TRANSMIT: fault records of the session's tenancy become events where it is the fault session, and events
leave. -/
def execEventTransmit (session : Nat) (s : State) : Out :=
  let s := s.takeFaults
  let x := s.session session
  if x.state = 0 then .next s
  else
    let k := if SMap.get? s.host.bind x.ten = some session then 64 - x.unsent.length else 0
    let s := (List.range k).foldl (fun (s : State) _ => s.moveFault session x.ten) s
    .next (s.sendEvents session)

/-- EVENT_MISSES; 0 is read as 1. -/
def State.eventMisses (s : State) : Nat := max 1 (s.field (hostBase + 0x38) 19 16)

/-- EVENT_RTO_EXPIRY: the events not acknowledged are sent again; after EVENT_MISSES resends, on the other port. -/
def execEventRtoExpiry (session : Nat) (s : State) : Out :=
  let x := s.session session
  if x.state = 0 ∨ x.events = [] then .next s
  else
    let overdue := decide (s.eventMisses ≤ x.resends)
    .next ((s.modSession session fun x =>
      { x with resends := min (x.resends + 1) s.eventMisses, other := x.other || overdue,
               events := x.events.map fun (e : HostEvent) => { e with sent := false } }).sendEvents session)

/-- SESSION_SILENCE_EXPIRY: an OPEN session is LOST; a lease that it holds ends 100 ms later (R307, R319). -/
def execSessionSilenceExpiry (session : Nat) (s : State) : Out :=
  if (s.session session).state = 1 then
    let stop := s.reg 0x700 + 100 * msCounts
    let s := s.modSession session fun x => { x with state := 2, lostEnd := stop }
    if s.host.lease = some session then .next { s with host := { s.host with lostEnd := some stop } } else .next s
  else .next s

/-- LEASE_LAPSE: the lease is free again (R319). -/
def execLeaseLapse (s : State) : Out :=
  match s.host.lease with
  | none => .next s
  | some _ =>
    .next ({ s with host := { s.host with lease := none, lostEnd := none } }.count (hostBase + 0x30) 47 32 1)

/-- DISPATCH_RELEASE: the dispatch hold ends (R322). -/
def execDispatchRelease (s : State) : Out := .next { s with host := { s.host with hold := false } }

/-! ### The journal's copies (Table 12.10) -/

/-- The state of a journal copy set. -/
def State.setJrn (s : State) (copyB : Bool) (v : Nat) : State :=
  s.modStack (s.jrnStack copyB) fun k => { k with jrn := v }

/-- JOURNAL_RESYNC: a stack that is READY again receives the journal from the other copy. -/
def execJournalResync (copyB : Bool) (s : State) : Out :=
  if (s.stack (s.jrnStack copyB)).state = stReady ∧ s.jrnState copyB = 1 ∧ s.jrnState (!copyB) = 0 then
    .next (s.latchPeak.setJrn copyB 2)
  else .next s

/-- Every record is valid in the copies in use. -/
def State.spread (s : State) : State :=
  { s with host := { s.host with cmds := s.host.cmds.map fun c =>
      { c with inA := c.inA || s.copyUp false, inB := c.inB || s.copyUp true } } }

/-- JOURNAL_RESYNC_DONE: both copies are written again. -/
def execJournalResyncDone (copyB : Bool) (s : State) : Out :=
  if (s.stack (s.jrnStack copyB)).state = stReady ∧ s.jrnState copyB = 2 then
    .next ((s.setJrn copyB 0).writeCopy copyB).spread
  else .next s

end Sys2Proof.Machine
end

