-- ==== Sys2Proof/Machine/HostOps.lean ====
section
/-! DEFINITION. The dispatch of commands, what each does, and its completion (R311–R316, R318, R319, R402, R403). A
command's row acts while the command stands at dispatch; where its accesses are held at a stack, or travel to a block,
the row is sent again. -/

namespace Sys2Proof.Machine

/-! ### Commands and handles -/

/-- An accepted command by session and number. -/
def State.cmdAt (s : State) (n q : Nat) : Option HostCmd :=
  s.host.cmds.find? fun c => c.session == n && c.seq == q

/-- An accepted command changed. -/
def State.modCmd (s : State) (n q : Nat) (g : HostCmd → HostCmd) : State :=
  { s with host := { s.host with cmds := s.host.cmds.map fun c =>
      if c.session = n ∧ c.seq = q then g c else c } }

/-- The handles that a command makes READY: HRELEASE makes none, SEC_ATTEST with SPACE 2 two (Table 16.8). -/
def HostCmd.handles (c : HostCmd) : List Nat :=
  if !c.handleEn || c.opcode == opHrelease then []
  else if c.opcode = opSecAttest ∧ c.space = 2 then [c.handle, c.handle + 1]
  else [c.handle]

/-- The handles that a command names. -/
def HostCmd.named (c : HostCmd) : List Nat :=
  if c.handleEn && c.opcode == opHrelease then [c.handle] else c.handles

/-- A handle of a session. -/
def State.handleOf (s : State) (n k : Nat) : Handle := SMap.get {} (s.session n).handles k

/-- A handle of a session set. -/
def State.setHandle (s : State) (n k : Nat) (h : Handle) : State :=
  s.modSession n fun x => { x with handles := SMap.put x.handles k h }

/-- Does the command name a handle that is PENDING for another (R312)? -/
def State.handleBusy (s : State) (c : HostCmd) : Bool := c.named.any fun k =>
  let h := s.handleOf c.session k
  h.state == .pending && h.seq != c.seq

/-- The command's handles are PENDING for it, but for those that are PENDING for another (R316). -/
def State.markPending (s : State) (c : HostCmd) : State :=
  c.handles.foldl (fun s k =>
    let h := s.handleOf c.session k
    if h.state = .pending then s
    else s.setHandle c.session k { h with state := .pending, seq := c.seq, data := [] }) s

/-! ### Dispatch (R311, R322) -/

/-- Is every command on which this one depends complete? -/
def State.depsDone (s : State) (c : HostCmd) : Bool :=
  !s.host.cmds.any fun x => x.session == c.session && x.phase != .completed && decide (x.seq < c.seq) &&
    (c.fence || (c.depEn && x.seq == c.depSeq))

/-- The command of a session that is dispatched next. -/
def State.nextCmd (s : State) (n : Nat) : Option HostCmd :=
  s.host.cmds.find? fun c => c.session == n && c.phase == .waiting

/-- May the session dispatch under the dispatch hold? -/
def State.mayDispatch (s : State) (n : Nat) : Bool :=
  !s.host.hold || ((s.session n).manager && !s.host.cmds.any fun c => c.session == n && c.old && c.phase == .waiting)

/-! ### Results -/

/-- The command has its result. -/
def State.result (s : State) (c : HostCmd) (status code detail : Nat) (out : List Byte) : State :=
  s.modCmd c.session c.seq fun c => { c with phase := .done, status := status, code := code, detail := detail, out := out }

/-- Results of Table 12.7: OK, FAULT with a code, REJECTED with STATE, which counts (R312). -/
def State.okay (s : State) (c : HostCmd) : State := s.result c 0 0 0 []
def State.faulty (s : State) (c : HostCmd) (code : Nat) : State := s.result c 1 code 0 []
def State.reject (s : State) (c : HostCmd) : State := (s.countSession c.session 15 0).result c 2 codeState 0 []

/-- The tenancy of a command. -/
def State.cmdTen (s : State) (c : HostCmd) : Nat := (s.session c.session).ten

/-- Does the command's session hold the port semaphore, or was it opened with MANAGER? -/
def State.holds (s : State) (c : HostCmd) : Bool := s.host.lease == some c.session
def State.managed (s : State) (c : HostCmd) : Bool := (s.session c.session).manager

/-- Has the command its session's authority over the device: its session held the port semaphore when the command was
dispatched, or holds it (R311, R319)? -/
def State.authority (s : State) (c : HostCmd) : Bool := c.held || s.holds c

/-- Is a command permitted in RECOVERY (R379)? -/
def HostCmd.inRecovery (c : HostCmd) : Bool :=
  let op := c.opcode
  op == opNop || op == opSemAcquire || op == opSemRenew || op == opSemRelease ||
  (op == opCfgRead && decide (0xF0_0100_0000 ≤ c.addr) && decide (c.addr < 0xF0_0200_0000)) ||
  op == opFlashRead || op == opFlashErase || op == opFlashWrite || (op == opSecAttest && c.space == 2) ||
  op == opColdReset

/-- The state checks of R312 that every command passes through. -/
def State.forbidden (s : State) (c : HostCmd) : Bool :=
  (c.depEn && c.depOk && NSet.has (s.session c.session).failed c.depSeq) ||
  NSet.has s.tenReset (s.cmdTen c) || s.handleBusy c || (s.recovery && !c.inRecovery)

/-- A command at dispatch starts: the dispatch of the next one may follow. -/
def State.begin (s : State) (c : HostCmd) : State :=
  let s := { s with host := { s.host with dispatching := none } }
  (s.markPending c).modCmd c.session c.seq fun c => { c with phase := .started }

/-- The row of an opcode: a command at dispatch is checked and starts; with `again`, one that has started and is still
without a result goes on. -/
def opRow (n q op : Nat) (again : Bool) (s : State) (body : HostCmd → State → State) : Out :=
  match s.cmdAt n q with
  | none => .next s
  | some c =>
    if c.opcode ≠ op then .next s
    else if c.phase = .atDispatch then
      .next (if s.forbidden c then (s.begin c).reject c else body c (s.begin c))
    else if again ∧ c.phase = .started then .next (body c s)
    else .next s

/-! ### NOP, handles, fault binding and the port semaphore -/

/-- NOP. -/
def execNop (session seq : Nat) (s : State) : Out := opRow session seq opNop false s fun c s => s.okay c

/-- HRELEASE: a READY handle is RELEASED (R316). -/
def execHrelease (session seq : Nat) (s : State) : Out :=
  opRow session seq opHrelease false s fun c s =>
    let h := s.handleOf session c.handle
    if h.state = .ready then (s.setHandle session c.handle { h with state := .released, data := [] }).okay c
    else s.reject c

/-- FAULT_BIND: the session is the fault session of its tenancy (R318). -/
def execFaultBind (session seq : Nat) (s : State) : Out :=
  opRow session seq opFaultBind false s fun c s =>
    ({ s with host := { s.host with bind := SMap.put s.host.bind (s.cmdTen c) session } }).okay c

/-- The lease given to a session, for LEASE_MS; 0 is read as 1. It ends 100 ms after a session that is LOST became so. -/
def State.lend (s : State) (n : Nat) : State :=
  { s with host := { s.host with
      lease := some n
      leaseEnd := s.reg 0x700 + msCounts * max 1 (s.field (hostBase + 0x28) 15 0)
      lostEnd := if (s.session n).state = 2 then some (s.session n).lostEnd else none } }

/-- SEM_ACQUIRE (R319). -/
def execSemAcquire (session seq : Nat) (s : State) : Out :=
  opRow session seq opSemAcquire false s fun c s =>
    if s.host.lease.isSome && !s.holds c then s.reject c
    else if !s.managed c then s.faulty c codeAccess
    else (s.lend session).okay c

/-- SEM_RENEW. -/
def execSemRenew (session seq : Nat) (s : State) : Out :=
  opRow session seq opSemRenew false s fun c s =>
    if !s.holds c then s.reject c else (s.lend session).okay c

/-- SEM_RELEASE. -/
def execSemRelease (session seq : Nat) (s : State) : Out :=
  opRow session seq opSemRelease false s fun c s =>
    if !s.holds c then s.reject c
    else ({ s with host := { s.host with lease := none, lostEnd := none } }).okay c

/-! ### Configuration (R312, R402, R403) -/

/-- Where configuration space begins (R17). -/
def cfgSpace : Nat := 0xF0_0000_0000

/-- The offset that a command addresses, where it is that of an aligned word of a block. -/
def HostCmd.cfgOff (c : HostCmd) : Option Nat :=
  let off := c.addr - cfgSpace
  if cfgSpace ≤ c.addr ∧ c.addr % 8 = 0 ∧ inBlock off = true then some off else none

/-- May the session reach the register: with MANAGER, or as one of its tenancy's own or an identification register? -/
def State.cfgReach (s : State) (c : HostCmd) (off : Nat) : Bool :=
  s.managed c || s.ownReg (s.cmdTen c) off || idReg off

/-- Do the configuration block's windows permit the access? The holder of the port semaphore always reaches the window
words (R336), and in RECOVERY the reads that R379 permits pass. -/
def State.cfgOpen (s : State) (c : HostCmd) (off : Nat) (write : Bool) : Bool :=
  s.recovery || (s.authority c && windowWord off) || s.aclOk 72 (masterSession c.session) off write

/-- A configuration access denied by the windows. -/
def State.cfgDenied (s : State) (c : HostCmd) (off : Nat) (write : Bool) : State :=
  (s.denied 72 (masterSession c.session) off write).faulty c codeAccess

/-- The value of a register read: in the handle and in DETAIL. -/
def State.cfgAnswer (s : State) (c : HostCmd) (v : Nat) : State := s.result c 0 0 v (bytesOf 8 v)

/-- Is the register a tenancy-state register of a core where the session's tenancy is not resident (R330)? -/
def State.cfgAway (s : State) (c : HostCmd) (off : Nat) : Bool :=
  decide (0x1000_0000 ≤ off) && tenReg (off % 0x1_0000) && s.away (s.cmdTen c) ((off - 0x1000_0000) / 0x1_0000)

/-- Is there a register at the offset: are the core and its registers present (R17)? -/
def State.regThere (s : State) (off : Nat) : Bool :=
  decide (off < 0x1000_0000) || decide ((off - 0x1000_0000) / 0x1_0000 < s.coreCount)

/-- Is a write refused by the state: of a device-global setting without the port semaphore, or of a core away (R312,
R330)? -/
def State.cfgRefused (s : State) (c : HostCmd) (off : Nat) : Bool :=
  (deviceGlobal off (leAt c.bytes 24 8) && s.regThere off && !s.authority c) || s.cfgAway c off

/-- Does a message, or the answer to it, still wait or travel, or has it no way (R236, R241)? -/
def State.msgWaits (s : State) (c : HostCmd) : Bool :=
  let m : Msg := .config c.session c.seq
  c.msg != 0 && (!s.accepted m || s.cut (s.msgEntry m) || s.onWay (.control m) none)

/-- A command's message leaves: its access for the block, or the answer from there. -/
def State.sendConfig (s : State) (c : HostCmd) : State :=
  State.modCmd { s with noc := { s.noc with nextId := s.noc.nextId + 1 } } c.session c.seq fun c =>
    { c with msg := s.noc.nextId }

/-- A configuration access at dispatch: the state checks come first (R312, R402), and one that passes sets out for the
block of its register. -/
def State.cfgStart (s : State) (c : HostCmd) (write : Bool) : State :=
  match c.cfgOff with
  | none => s.faulty c codeAccess
  | some off =>
    if write && s.cfgRefused c off then s.reject c
    else if !s.cfgReach c off then s.faulty c codeAccess
    else if !s.cfgOpen c off write then s.cfgDenied c off write
    else s.sendConfig c

/-- The row of a configuration access: at dispatch it is checked and sets out; sent again, it acts once its message has
come to the block, and the answer goes back. -/
def cfgRow (n q op : Nat) (write : Bool) (s : State) (act : HostCmd → Nat → State → State) : Out :=
  match s.cmdAt n q with
  | none => .next s
  | some c =>
    if c.opcode ≠ op ∨ c.phase ≠ .started then opRow n q op false s fun c s => s.cfgStart c write
    else if c.msg = 0 ∨ s.msgWaits c = true then .next s
    else match c.cfgOff with
      | none => .next s
      | some off => .next ((if c.bz then s.faulty c codeAccess else act c off s).sendConfig c)

/-- A register or a word of an object read at its block. -/
def State.cfgFetch (s : State) (c : HostCmd) (off : Nat) : State :=
  match objectOf off with
  | some (j, w1) =>
    let (s, code, v) := s.readObject c.session (s.cmdTen c) j w1
    if code = 0 then s.cfgAnswer c v else s.faulty c code
  | none => s.cfgAnswer c (s.cfgView (s.cmdTen c) off)

/-- CFG_READ. -/
def execCfgRead (session seq : Nat) (s : State) : Out :=
  cfgRow session seq opCfgRead false s fun c off s => s.cfgFetch c off

/-- The positions that a GO of ACC_CLEAR is checked for at its stack (Table 13.5), and the first denied. -/
def State.clearDenied (s : State) (c : HostCmd) (off v : Nat) : Option (Nat × Nat) :=
  let i := off % 0x100_0000 / 0x10_0000
  if off / 0x100_0000 = 4 ∧ off % 0x10_0000 = 0x348 ∧ bit 63 v = true ∧ bits 59 36 v ≠ 0 then
    let a := bits 35 8 v / 256
    let b := min (2 ^ 20) ((bits 35 8 v + bits 59 36 v + 255) / 256)
    (((List.range (b - a)).map (· + a)).find? fun p => !s.aclOk i (masterSession c.session) p true).map fun p => (i, p)
  else none

/-- A write that has passed its checks. -/
def State.cfgPerform (s : State) (c : HostCmd) (off v : Nat) : State :=
  match objectOf off with
  | some (j, w1) =>
    let (s, code) := s.writeObject c.session (s.cmdTen c) j w1 (BitVec.ofNat 64 v)
    if code = 0 then s.okay c else s.faulty c code
  | none =>
    match s.clearDenied c off v with
    | some (i, p) => (s.denied i (masterSession c.session) p true).faulty c codeAccess
    | none => (s.cfgPut off v).okay c

/-- CFG_WRITE: a core from which the tenancy went while the access travelled refuses it as at dispatch (R330). -/
def execCfgWrite (session seq : Nat) (s : State) : Out :=
  cfgRow session seq opCfgWrite true s fun c off s =>
    if s.cfgAway c off then s.reject c else s.cfgPerform c off (leAt c.bytes 24 8)

/-! ### COMMAND_DISPATCH -/

/-- A command is dispatched: its handles are PENDING, and its row checks and starts it. -/
def State.dispatch (s : State) (c : HostCmd) : State :=
  let s' := s.modCmd c.session c.seq fun c => { c with phase := .atDispatch, held := s.holds c }
  { s' with host := { s'.host with dispatching := some (c.session, c.seq) } }

/-- COMMAND_DISPATCH: one command is dispatched at a time; one held by a fence or a dependency makes its handle
PENDING. -/
def execCommandDispatch (session : Nat) (s : State) : Out :=
  if s.host.dispatching.isSome || !s.mayDispatch session then .next s
  else match s.nextCmd session with
    | none => .next s
    | some c =>
      let s := s.markPending c
      .next (if s.depsDone c then s.dispatch c else s)

/-! ### Device memory (R314, R402) -/

/-- Where a command's bytes stand: physical addresses with MANAGER, or the tenancy's virtual ones; else the code. -/
def State.hostPlace (s : State) (c : HostCmd) (n : Nat) (write : Bool) : State × Except Nat RowPlace :=
  if c.space = 1 then
    if !s.managed c || decide (2 ^ 39 < c.addr + n) then (s, .error codeAccess)
    else (s, .ok (.lines c.addr (unitsOf 64 c.addr n)))
  else
    let (s, m) := s.mapRange (s.cmdTen c) c.addr n write
    match m with
    | none => (s, .error codePageFault)
    | some pages => (s, .ok (mappedRow pages c.addr n))

/-- Do data of a command travel, or is a stack that they go to or come from cut off (R236)? -/
def State.dataWaits (s : State) (c : HostCmd) (p : RowPlace) : Bool :=
  p.lineList.any (fun l => s.cut (some (s.hostEntry c (64 * l)))) ||
  s.noc.packets.any fun x => (match x.cargo with
    | .data (.hostData n q _) => n == c.session && q == c.seq
    | _ => false) && s.noc.branches.any fun b => b.id == x.id

/-- Did the data of byte `o` of a place come blazed? -/
def HostCmd.badAt (c : HostCmd) (p : RowPlace) (o : Nat) : Bool :=
  match p with
  | .store _ _ => false
  | .lines a ls => NSet.has c.bad (ls.getD ((a + o) / 64 - a / 64) 0 / 4)

/-- A place checked under the session's master and used: an access that is held at a stack, or whose data travel, waits. -/
def State.hostAccess (s : State) (c : HostCmd) (n : Nat) (write : Bool) (use : State → RowPlace → State) : State :=
  let (s', r) := s.hostPlace c n write
  if decide (c.space ≠ 1) && s.rangeHeld s.hostHeld (s.cmdTen c) c.addr n write then s
  else let s := s'
  match r with
  | .error code => s.faulty c code
  | .ok p =>
    let m := masterSession c.session
    match p.lineList.find? fun l => !s.memOk m (64 * l) 64 write with
    | some l => (s.memDenied m (64 * l) write).faulty c codeAccess
    | none => if s.placeHeld p || s.dataWaits c p then s else use s p

/-- MEM_WRITE. -/
def execMemWrite (session seq : Nat) (s : State) : Out :=
  opRow session seq opMemWrite true s fun c s =>
    s.hostAccess c c.len true fun s p => (s.rowStore (s.cmdTen c) c.data (fun o _ => c.badAt p o) p).okay c

/-- The byte offset of the first marked unit of a range from `a` (R314). -/
def firstMarked (a : Nat) (marks : List Bool) : Option Nat :=
  ((List.range marks.length).find? fun k => marks.getD k false).map fun k => 64 * k - a % 64

/-- MEM_READ: a marked line keeps every byte from the host. -/
def execMemRead (session seq : Nat) (s : State) : Out :=
  opRow session seq opMemRead true s fun c s =>
    s.hostAccess c c.len false fun s p =>
      let (bs, marks) := s.rowRead (s.cmdTen c) c.len p
      let s := s.rowTouch p
      match firstMarked c.addr ((marks.zip p.lineList).map fun x => x.1 || NSet.has c.bad (x.2 / 4)) with
      | some o => s.result c 1 codeBlazeBite o []
      | none => s.result c 0 0 0 bs

/-! ### RUN (R313, R330) -/

/-- A stream's state in an image that may be saved. -/
def Stream.ran (t : Stream) : SeqState := t.shown

/-- PC and START written into a stream; a saved one starts at restore. -/
def Stream.runAt (t : Stream) (pc : Nat) : Stream :=
  let t := { t with pc := BitVec.ofNat 21 (8 * bits 20 3 pc) }
  match t.state with
  | .sliced => { t with beforeSlice := some .running }
  | .idle => { t with state := .running }
  | .running => { t with state := .running }
  | .paused => { t with state := .running }
  | .suspended => { t with state := .running }
  | .faulted => { t with state := .running }
  | .illegal => { t with state := .running }

/-- The streams that a RUN names. -/
def HostCmd.streams (c : HostCmd) : List StreamId :=
  let m := leAt c.bytes 18 1
  (if bit 0 m then [StreamId.f] else []) ++ (if bit 1 m then [StreamId.b] else []) ++ (if bit 2 m then [StreamId.u] else [])

/-- PC_x of a RUN. -/
def HostCmd.pcOf (c : HostCmd) (x : StreamId) : Nat := leAt c.bytes (20 + 4 * x.idx) 4

/-- The streams of a group's cores, core by core. -/
def runStreams (mask : Nat) (xs : List StreamId) : List At :=
  ((maskCores mask).map fun n => xs.map fun x => (⟨n, x⟩ : At)).flatten

/-- RUN: after the state check (R312), one on an entry that is not the tenancy's, or that names a core not allocated to
it, is denied (log entry 46). While the entry is held at its stack, it waits; once its streams are named, it has run. -/
def execRun (session seq : Nat) (s : State) : Out :=
  opRow session seq opRun true s fun c s =>
    let t := s.cmdTen c
    let g := s.mcast (leAt c.bytes 16 2)
    if !c.run.isEmpty || s.hostHeld g.pa then s else
    let s := s.touch g.pa 128
    let is := if g.valid then runStreams g.mask c.streams else []
    if is.any fun i => (s.tenStream t i).ran != .idle then s.reject c
    else if !g.valid || g.ten != t || !(maskCores g.mask).all (s.allocated t) then s.faulty c codeAccess
    else
      let s := is.foldl (fun s i => s.modTenStream t i fun x => x.runAt (c.pcOf i.stream)) s
      s.modCmd session seq fun c => { c with run := is }

/-- Has a stream of a RUN ended? -/
def SeqState.ended (x : SeqState) : Bool := x == .idle || x == .faulted || x == .illegal

/-- STATUS, CODE and DETAIL of a RUN whose streams have all ended. -/
def State.runEnd (s : State) (c : HostCmd) : Option (Nat × Nat × Nat) :=
  let xs := c.run.map (s.tenStream (s.cmdTen c))
  if !xs.all fun x => x.ran.ended then none
  else
    let bad := xs.filter fun x => x.ran != .idle
    if bad.isEmpty then some (0, 0, 0)
    else some (1, ((bad.find? fun x => x.ran == .faulted).map fun x => x.faultCode.toNat).getD 0, bad.length)

/-! ### Completion (R315, R316) -/

/-- The result of a command that ends by itself: a RUN, or a core reset. -/
def State.ending (s : State) (c : HostCmd) : Option (Nat × Nat × Nat) :=
  if c.phase = .done then some (c.status, c.code, c.detail)
  else if c.phase ≠ .started then none
  else if c.opcode = opRun then s.runEnd c
  else if c.opcode = opCoreReset then (if !c.run.isEmpty && s.boot.coreReset.isNone then some (0, 0, 0) else none)
  else none

/-- The handles of a command that completes are READY with its bytes, their generation advanced. -/
def State.readyHandle (s : State) (c : HostCmd) (k : Nat) (bs : List Byte) : State :=
  let h := s.handleOf c.session k
  if h.state = .pending ∧ h.seq = c.seq then
    s.setHandle c.session k { state := .ready, gen := h.gen + 1, data := bs, seq := c.seq }
  else s

/-- GENERATION of a completion record: that of the handle made READY, or 0. -/
def State.readyGen (s : State) (c : HostCmd) : Nat :=
  match c.handles with
  | [] => 0
  | k :: _ =>
    let h := s.handleOf c.session k
    if h.state = .ready ∧ h.seq = c.seq then h.gen.toNat else 0

/-- The completion record (Table 12.7). -/
def State.completionRecord (s : State) (c : HostCmd) : List Byte :=
  bytesOf 1 1 ++ bytesOf 1 c.status ++ bytesOf 1 c.code ++ bytesOf 1 c.opcode ++ bytesOf 4 (s.readyGen c) ++
  bytesOf 6 c.seq ++ bytesOf 1 (if c.handleEn then c.handle else 0) ++ bytesOf 1 (b2n c.handleEn) ++
  bytesOf 8 c.detail ++ bytesOf 8 (s.reg 0x700)

/-- A command completes. -/
def State.complete (s : State) (c : HostCmd) : State :=
  let s := match c.handles with
    | [] => s
    | [k] => s.readyHandle c k c.out
    | k :: j :: _ => (s.readyHandle c k c.out).readyHandle c j c.out2
  let s := s.queueEvent c.session (s.completionRecord c) (some c.seq)
  let s := s.modCmd c.session c.seq fun _ => { c with phase := .completed, out := [], out2 := [], run := [], msg := 0 }
  (if c.status = 0 then s else s.modSession c.session fun x => { x with failed := NSet.add x.failed c.seq }).writeJournal

/-- COMMAND_COMPLETION: an answer has come back first. -/
def execCommandCompletion (session seq : Nat) (s : State) : Out :=
  match s.cmdAt session seq with
  | none => .next s
  | some c =>
    match if s.msgWaits c then none else s.ending c with
    | none => .next s
    | some (status, code, detail) => .next (s.complete { c with status := status, code := code, detail := detail })

end Sys2Proof.Machine
end

