-- ==== Sys2Proof/Machine/Slh.lean ====
section
/-! DEFINITION. SLH-DSA: the parameter sets SHA2-128s, with which images are signed, and SHA2-128f, of the identity key
(R373, R380, R381). The manual names FIPS 205; what its functions compute is PRESUMED from that standard (log entry 129).
Strings are of 16 bytes, and a signature is a list of them. -/

namespace Sys2Proof.Machine

/-- What a parameter set fixes: the height of a tree, the layers of trees, the height of a FORS tree, and their number. -/
structure SlhParams where
  height : Nat
  layers : Nat
  forsHeight : Nat
  forsTrees : Nat
  deriving DecidableEq, Repr

/-- SLH-DSA-SHA2-128s and SLH-DSA-SHA2-128f. -/
def slh128s : SlhParams := ⟨9, 7, 12, 14⟩
def slh128f : SlhParams := ⟨3, 22, 6, 33⟩

/-- An address: layer, tree, type, and the three words whose meaning the type gives. -/
structure Adrs where
  layer : Nat := 0
  tree : Nat := 0
  type : Nat := 0
  w1 : Nat := 0
  w2 : Nat := 0
  w3 : Nat := 0
  deriving DecidableEq, Repr

/-- The compressed form of an address, 22 bytes. -/
def Adrs.bytes (a : Adrs) : List Byte :=
  beBytes 1 a.layer ++ beBytes 8 a.tree ++ beBytes 1 a.type ++ beBytes 4 a.w1 ++ beBytes 4 a.w2 ++ beBytes 4 a.w3

/-- The tweakable hash of some bytes, which is F, H, T and PRF alike. -/
def slhHash (seed : List Byte) (a : Adrs) (m : List Byte) : List Byte :=
  (sha256 (seed ++ List.replicate 48 0 ++ a.bytes ++ m)).take 16

/-- `n` digits of `b` bits at the head of some bytes, most significant first. -/
def slhDigits (b n : Nat) (bs : List Byte) : List Nat :=
  (List.range n).map fun i => beNat bs / 2 ^ (8 * bs.length - b * (i + 1)) % 2 ^ b

/-! ### One-time signatures: 35 chains of 15 steps -/

/-- `n` steps of a chain from step `i`. -/
def slhChain (seed : List Byte) (a : Adrs) : List Byte → Nat → Nat → List Byte
  | x, _, 0 => x
  | x, i, n + 1 => slhChain seed a (slhHash seed { a with w3 := i } x) (i + 1) n

/-- The digits of a message with those of its checksum. -/
def wotsDigits (m : List Byte) : List Nat :=
  let ds := slhDigits 4 32 m
  ds ++ slhDigits 4 3 (beBytes 2 (16 * (ds.map (15 - ·)).foldl (· + ·) 0))

/-- The secret start of chain `i`. -/
def wotsSecret (sk seed : List Byte) (a : Adrs) (i : Nat) : List Byte :=
  slhHash seed { a with type := 5, w2 := i, w3 := 0 } sk

/-- The public key that the ends of the chains make. -/
def wotsJoin (seed : List Byte) (a : Adrs) (ends : List (List Byte)) : List Byte :=
  slhHash seed { a with type := 1, w2 := 0, w3 := 0 } ends.flatten

/-- The public key of a key pair. -/
def wotsKey (sk seed : List Byte) (a : Adrs) : List Byte :=
  wotsJoin seed a ((List.range 35).map fun i => slhChain seed { a with w2 := i } (wotsSecret sk seed a i) 0 15)

/-- A signature. -/
def wotsSign (sk seed : List Byte) (a : Adrs) (m : List Byte) : List (List Byte) :=
  (wotsDigits m).zipIdx.map fun p => slhChain seed { a with w2 := p.2 } (wotsSecret sk seed a p.2) 0 p.1

/-- The public key that a signature gives. -/
def wotsKeyOf (seed : List Byte) (a : Adrs) (m : List Byte) (sig : List (List Byte)) : List Byte :=
  wotsJoin seed a (((wotsDigits m).zip sig).zipIdx.map fun p =>
    slhChain seed { a with w2 := p.2 } p.1.2 p.1.1 (15 - p.1.1))

/-! ### Trees -/

/-- The node of two others, at height `z` and place `i`. -/
def slhJoin (seed : List Byte) (a : Adrs) (z i : Nat) (x y : List Byte) : List Byte :=
  slhHash seed { a with w2 := z, w3 := i } (x ++ y)

/-- The node above a leaf that a path leads to, from height `z` and place `i`. -/
def slhClimb (seed : List Byte) (a : Adrs) : List (List Byte) → Nat → Nat → List Byte → List Byte
  | [], _, _, x => x
  | y :: ys, z, i, x =>
    slhClimb seed a ys (z + 1) (i / 2) (if i % 2 = 0 then slhJoin seed a (z + 1) (i / 2) x y
      else slhJoin seed a (z + 1) (i / 2) y x)

/-- The path of a leaf at place `i` through a tree of height `h`. -/
def slhPath (node : Nat → Nat → List Byte) (h i : Nat) : List (List Byte) :=
  (List.range h).map fun j => node j (Nat.xor (i / 2 ^ j) 1)

/-- A node of a tree of key pairs, at a height and a place. -/
def xmssNode (sk seed : List Byte) (a : Adrs) : Nat → Nat → List Byte
  | 0, i => wotsKey sk seed { a with type := 0, w1 := i }
  | z + 1, i =>
    slhJoin seed { a with type := 2, w1 := 0 } (z + 1) i (xmssNode sk seed a z (2 * i)) (xmssNode sk seed a z (2 * i + 1))

/-- The signatures of `n` layers, each over the root below it. -/
def htSign (p : SlhParams) (sk seed : List Byte) : Nat → Nat → Nat → Nat → List Byte → List (List Byte)
  | 0, _, _, _, _ => []
  | n + 1, layer, tree, leaf, m =>
    let a : Adrs := { layer := layer, tree := tree }
    wotsSign sk seed { a with w1 := leaf } m ++ slhPath (xmssNode sk seed a) p.height leaf ++
      htSign p sk seed n (layer + 1) (tree / 2 ^ p.height) (tree % 2 ^ p.height) (xmssNode sk seed a p.height 0)

/-- The root that the signatures of `n` layers give. -/
def htRoot (p : SlhParams) (seed : List Byte) : Nat → Nat → Nat → Nat → List Byte → List (List Byte) → List Byte
  | 0, _, _, _, m, _ => m
  | n + 1, layer, tree, leaf, m, sig =>
    let a : Adrs := { layer := layer, tree := tree }
    let x := wotsKeyOf seed { a with w1 := leaf } m (sig.take 35)
    htRoot p seed n (layer + 1) (tree / 2 ^ p.height) (tree % 2 ^ p.height)
      (slhClimb seed { a with type := 2 } ((sig.drop 35).take p.height) 0 leaf x) (sig.drop (35 + p.height))

/-! ### FORS -/

/-- The secret of leaf `i`. -/
def forsSecret (sk seed : List Byte) (a : Adrs) (i : Nat) : List Byte :=
  slhHash seed { a with type := 6, w2 := 0, w3 := i } sk

/-- The leaf that a secret makes. -/
def forsLeaf (seed : List Byte) (a : Adrs) (i : Nat) (x : List Byte) : List Byte :=
  slhHash seed { a with type := 3, w2 := 0, w3 := i } x

/-- A node of the FORS trees, at a height and a place. -/
def forsNode (sk seed : List Byte) (a : Adrs) : Nat → Nat → List Byte
  | 0, i => forsLeaf seed a i (forsSecret sk seed a i)
  | z + 1, i =>
    slhJoin seed { a with type := 3 } (z + 1) i (forsNode sk seed a z (2 * i)) (forsNode sk seed a z (2 * i + 1))

/-- The leaves that a digest names, one of each tree. -/
def forsPlaces (p : SlhParams) (md : List Byte) : List Nat :=
  (slhDigits p.forsHeight p.forsTrees md).zipIdx.map fun d => d.2 * 2 ^ p.forsHeight + d.1

/-- A signature. -/
def forsSign (p : SlhParams) (sk seed : List Byte) (a : Adrs) (md : List Byte) : List (List Byte) :=
  (forsPlaces p md).flatMap fun i => forsSecret sk seed a i :: slhPath (forsNode sk seed a) p.forsHeight i

/-- The public key that the roots of the trees make. -/
def forsJoin (seed : List Byte) (a : Adrs) (roots : List (List Byte)) : List Byte :=
  slhHash seed { a with type := 4, w2 := 0, w3 := 0 } roots.flatten

/-- The public key that a signature gives. -/
def forsKeyOf (p : SlhParams) (seed : List Byte) (a : Adrs) (md : List Byte) (sig : List (List Byte)) : List Byte :=
  forsJoin seed a ((forsPlaces p md).zipIdx.map fun q =>
    let part := (sig.drop ((p.forsHeight + 1) * q.2)).take (p.forsHeight + 1)
    slhClimb seed { a with type := 3 } part.tail 0 q.1 (forsLeaf seed a q.1 (part.headD [])))

/-! ### Keys, signatures, verification -/

/-- `n` bytes of the mask that SHA-256 generates from a seed. -/
def mgf1 (seed : List Byte) (n : Nat) : List Byte :=
  (((List.range ((n + 31) / 32)).map fun k => sha256 (seed ++ beBytes 4 k)).flatten).take n

/-- The digest of a message: what FORS signs, the tree, and the leaf. -/
def slhDigest (p : SlhParams) (r seed root m : List Byte) : List Byte × Nat × Nat :=
  let rest := p.height * (p.layers - 1)
  let x := (p.forsHeight * p.forsTrees + 7) / 8
  let y := (rest + 7) / 8
  let z := (p.height + 7) / 8
  let bs := mgf1 (r ++ seed ++ sha256 (r ++ seed ++ root ++ m)) (x + y + z)
  (bs.take x, beNat ((bs.drop x).take y) % 2 ^ rest, beNat ((bs.drop (x + y)).take z) % 2 ^ p.height)

/-- A key pair's parts. -/
structure SlhKey where
  sk : List Byte
  prf : List Byte
  seed : List Byte
  root : List Byte
  deriving DecidableEq, Repr

/-- slh_keygen_internal. -/
def slhKeygen (p : SlhParams) (sk prf seed : List Byte) : SlhKey :=
  ⟨sk, prf, seed, xmssNode sk seed { layer := p.layers - 1 } p.height 0⟩

/-- The public key, 32 bytes. -/
def SlhKey.publicKey (k : SlhKey) : List Byte := k.seed ++ k.root

/-- The message that pure signing with an empty context string signs. -/
def pureMsg (m : List Byte) : List Byte := [0, 0] ++ m

/-- The hedged signature of a message with 16 random bytes. -/
def slhSign (p : SlhParams) (k : SlhKey) (rnd m : List Byte) : List Byte :=
  let m := pureMsg m
  let r := (hmacSha256 k.prf (rnd ++ m)).take 16
  let (md, tree, leaf) := slhDigest p r k.seed k.root m
  let a : Adrs := { tree := tree, w1 := leaf }
  let fors := forsSign p k.sk k.seed a md
  (r :: fors ++ htSign p k.sk k.seed p.layers 0 tree leaf (forsKeyOf p k.seed a md fors)).flatten

/-- Strings of 16 bytes in a signature. -/
def SlhParams.sigParts (p : SlhParams) : Nat := 1 + p.forsTrees * (p.forsHeight + 1) + p.layers * (35 + p.height)

/-- Verification of a signature under a public key of 32 bytes. -/
def slhVerify (p : SlhParams) (pk m sig : List Byte) : Bool :=
  let part (k : Nat) : List Byte := (sig.drop (16 * k)).take 16
  let parts := (List.range p.sigParts).map part
  let seed := pk.take 16
  let root := pk.drop 16
  let (md, tree, leaf) := slhDigest p (part 0) seed root (pureMsg m)
  let fors := forsKeyOf p seed { tree := tree, w1 := leaf } md parts.tail
  decide (sig.length = 16 * p.sigParts) &&
    htRoot p seed p.layers 0 tree leaf fors (parts.drop (1 + p.forsTrees * (p.forsHeight + 1))) == root

end Sys2Proof.Machine
end

