-- ==== Sys2Proof/Machine/Image.lean ====
section
/-! DEFINITION. The flash, the image in its two slots, and its verification (R367–R373). -/

namespace Sys2Proof.Machine

/-! ### The flash -/

/-- Bytes of the flash. -/
def flashBytes (m : Memory) (a n : Nat) : List Byte := (m.read a n).map fun b => ~~~b

/-- Bytes of the flash on which the device works (R367). -/
def flashSize : Nat := 0x800_0000

/-- Where a slot begins. -/
def slotBase (slotB : Bool) : Nat := if slotB then 0x400_0000 else 0

/-! ### The blocks and their entries (Tables 16.1, 16.2) -/

/-- Fields of the vendor block. -/
def Image.svn (im : Image) : Nat := leAt im.vendor 8 4
def Image.vendorPk (im : Image) : List Byte := (im.vendor.drop 16).take 32

/-- Fields of the owner block. -/
def Image.seq (im : Image) : Nat := leAt im.owner 8 8
def Image.enrol (im : Image) : Bool := bit 0 (leAt im.owner 20 4)
def Image.ownerPk (im : Image) : List Byte := (im.owner.drop 24).take 32

/-- The 16 section entries of a block, from byte `o`. -/
def entriesAt (block : List Byte) (o : Nat) : List (List Byte) :=
  (List.range 16).map fun k => (block.drop (o + 48 * k)).take 48

/-- The used entries of the two manifests. -/
def vendorEntries (v : List Byte) : List (List Byte) := (entriesAt v 64).take (leAt v 12 4)
def ownerEntries (o : List Byte) : List (List Byte) := (entriesAt o 128).take (leAt o 16 4)

/-- Fields of a section entry. -/
def secType (e : List Byte) : Nat := leAt e 0 2
def secOff (e : List Byte) : Nat := leAt e 4 4
def secLen (e : List Byte) : Nat := leAt e 8 4
def secHash (e : List Byte) : Nat := packBytes ((e.drop 16).take 32)

/-- Do two sections overlap? -/
def secMeet (e f : List Byte) : Bool :=
  decide (secOff e < secOff f + secLen f) && decide (secOff f < secOff e + secLen e)

/-- Does each entry's section overlap no later one, and its type stand in no later one? -/
def secApart : List (List Byte) → Bool
  | [] => true
  | e :: es => es.all (fun f => !secMeet e f && secType e != secType f) && secApart es

/-- The types that each manifest may name (Table 16.3). -/
def vendorTypes : List Nat := [1, 2, 3]
def ownerTypes : List Nat := [0x101, 0x102, 0x103]

/-- The sections' layout (R370, Table 16.2). -/
def layoutOk (v o : List Byte) : Bool :=
  let vs := vendorEntries v
  let os := ownerEntries o
  let es := vs ++ os
  (vs.all fun e => vendorTypes.contains (secType e)) && (os.all fun e => ownerTypes.contains (secType e)) &&
  (es.all fun e => decide (secOff e % 4096 = 0) && decide (0x1_0000 ≤ secOff e) && decide (1 ≤ secLen e) &&
    decide (secOff e + secLen e ≤ 0x400_0000)) &&
  secApart es && decide ((es.map secLen).foldl (· + ·) 0 ≤ 4128768)

/-- What a slot holds: no section is read where the entries do not meet R370. -/
def loadImage (m : Memory) (slotB : Bool) : Image :=
  let base := slotBase slotB
  let v := flashBytes m base 1024
  let o := flashBytes m (base + 0x4000) 1024
  { vendor := v
    vendorSig := flashBytes m (base + 0x400) 7856
    owner := o
    ownerSig := flashBytes m (base + 0x4400) 7856
    sections := if layoutOk v o then
        (vendorEntries v ++ ownerEntries o).map fun e => (secType e, flashBytes m (base + secOff e) (secLen e))
      else [] }

/-- The bytes of a section of an image. -/
def Image.sectionOf (im : Image) (ty : Nat) : List Byte :=
  match im.sections.find? fun p => p.1 == ty with
  | some p => p.2
  | none => []

/-! ### Verification (R371, R373) -/

/-- Are the fields of a section entry that are shown as zero zero? -/
def entryZero (e : List Byte) : Bool := zeroAt e 2 4 && zeroAt e 12 16

/-- Check 1: MAGIC, FORMAT and ENTRIES, the range of SVN (log entry 60), and the zero fields. -/
def Image.headersOk (im : Image) : Bool :=
  let v := im.vendor
  let o := im.owner
  decide (leAt v 0 4 = 0x4B545601) && decide (leAt v 4 4 = 1) && decide (leAt v 12 4 ≤ 16) &&
  decide (im.svn ≤ 64) && decide (leAt o 0 4 = 0x4B544F01) && decide (leAt o 4 4 = 1) && decide (leAt o 16 4 ≤ 16) &&
  zeroAt v 48 64 && zeroAt v (64 + 48 * leAt v 12 4) 1024 && decide (leAt o 20 4 < 2) && zeroAt o 88 128 &&
  zeroAt o (128 + 48 * leAt o 16 4) 1024 && (vendorEntries v ++ ownerEntries o).all entryZero

/-- The unrevoked slot whose hash is that of a key. -/
def keySlot (hashes : SMap Nat) (revoked : NSet) (pk : List Byte) : Option Nat :=
  (hashes.find? fun p => p.2 == digest pk && !NSet.has revoked p.1).map fun p => p.1

/-- The vendor and owner slots that an image's keys match. -/
def Fuses.vendorSlot (f : Fuses) (im : Image) : Option Nat := keySlot f.vendorHash f.vendorRev im.vendorPk
def Fuses.ownerSlot (f : Fuses) (im : Image) : Option Nat := keySlot f.ownerHash f.ownerRev im.ownerPk

/-- Check 6. -/
def Fuses.ownerOk (f : Fuses) (im : Image) : Bool :=
  if f.ownerHash.isEmpty then im.ownerPk == im.vendorPk else (f.ownerSlot im).isSome

/-- Consecutive parts of `n` bytes of a section. -/
def partsOf (n : Nat) (bs : List Byte) : List (List Byte) :=
  (List.range (bs.length / n)).map fun k => (bs.drop (n * k)).take n

/-- Do the offsets of CORE and of MEM hold this one? -/
def inCores (off : Nat) : Bool := decide (0x1000_0000 ≤ off) && decide (off < 0x1280_0000)
def inStacks (off : Nat) : Bool := decide (0x0400_0000 ≤ off) && decide (off < 0x0480_0000)

/-- The checks on a register entry (R371). -/
def regEntryOk (e : List Byte) : Bool :=
  let addr := leAt e 0 8
  let v := leAt e 8 8
  let off := addr - cfgSpace
  let m := regMask off
  decide (leAt e 16 8 < 4) && decide (cfgSpace ≤ addr) && decide (addr % 8 = 0) && inBlock off &&
  (m.fields == 0 || m.held != 0) && decide (v &&& (allBits - m.fields) = 0)

/-- The checks on a SCARF entry (R371): its fields as of SCARF_ADD, where ORIGIN is ignored (R186), its stack, and zero
elsewhere. -/
def scarfEntryOk (e : List Byte) : Bool :=
  let v := leAt e 0 8
  decide (v &&& (allBits - (fieldMask 33 1 + fieldMask 42 40)) = 0) && scValid v

/-- Do the entries of a section meet R371? What MEM_TRAIN and SELFTEST hold is not architected. -/
def sectionOk (ty : Nat) (bs : List Byte) : Bool :=
  if ty = 3 ∨ ty = 0x101 then decide (bs.length % 24 = 0) && (partsOf 24 bs).all regEntryOk
  else if ty = 0x102 then decide (bs.length % 8 = 0) && (partsOf 8 bs).all scarfEntryOk
  else if ty = 0x103 then decide (bs.length = 2048)
  else true

/-- Check 8. -/
def Image.sectionsOk (im : Image) : Bool :=
  layoutOk im.vendor im.owner &&
  ((vendorEntries im.vendor ++ ownerEntries im.owner).zip im.sections).all fun p =>
    decide (digest p.2.2 = secHash p.1) && sectionOk p.2.1 p.2.2

/-- The first check of R373 that an image fails, or 0. -/
def Fuses.verify (f : Fuses) (im : Image) : Nat :=
  if !im.headersOk then 1
  else if (f.vendorSlot im).isNone then 2
  else if !slhVerify slh128s im.vendorPk im.vendor im.vendorSig then 3
  else if im.svn < f.svnMin then 4
  else if packBytes ((im.owner.drop 56).take 32) ≠ digest im.vendor then 5
  else if !f.ownerOk im then 6
  else if !slhVerify slh128s im.ownerPk im.owner im.ownerSig then 7
  else if !im.sectionsOk then 8
  else 0

/-- Does the slot have an owner SEQ: is there an owner block of the right MAGIC and FORMAT to hold one? -/
def Image.hasSeq (im : Image) : Bool := leAt im.owner 0 4 == 0x4B54_4F01 && leAt im.owner 4 4 == 1

/-- Is slot B tried first? A slot without an owner SEQ, such as an erased one, comes after one that has it; of two
without, slot A comes first (DESIGN CHOICE, log entry 61). -/
def bFirst (a b : Image) : Bool := b.hasSeq && (!a.hasSeq || decide (a.seq < b.seq))

/-- The slots tried in the order of R373: the image accepted with its slot, whether the first slot tried failed, and
the REASON of the last slot that failed. -/
def Fuses.choose (f : Fuses) (m : Memory) : Option (Image × Bool) × Bool × Nat :=
  let a := loadImage m false
  let b := loadImage m true
  let first := bFirst a b
  let x := if first then b else a
  let y := if first then a else b
  let r := f.verify x
  if r = 0 then (some (x, first), false, 0)
  else
    let q := f.verify y
    if q = 0 then (some (y, !first), true, r + 1) else (none, true, q + 1)

/-! ### Host commands on the flash (R383, R384) -/

/-- The flash changed. -/
def State.setFlash (s : State) (m : Memory) : State := { s with boot := { s.boot with flash := m } }

/-- A command that is a device-global setting: REJECTED without the port semaphore. -/
def State.ifHeld (s : State) (c : HostCmd) (body : State → State) : State :=
  if s.authority c then body s else s.reject c

/-- The flash offset that a command names. -/
def HostCmd.flashOff (c : HostCmd) : Nat := leAt c.bytes 16 4

/-- FLASH_READ. -/
def execFlashRead (session seq : Nat) (s : State) : Out :=
  opRow session seq opFlashRead false s fun c s =>
    if flashSize < c.flashOff + c.len then s.faulty c codeAccess
    else s.result c 0 0 0 (flashBytes s.boot.flash c.flashOff c.len)

/-- FLASH_ERASE: the blocks read 0xFF. -/
def execFlashErase (session seq : Nat) (s : State) : Out :=
  opRow session seq opFlashErase false s fun c s => s.ifHeld c fun s =>
    let a := c.flashOff
    let n := 65536 * leAt c.bytes 20 2
    if flashSize < a + n then s.faulty c codeAccess
    else (s.setFlash (s.boot.flash.filter fun p => !(decide (a ≤ p.1) && decide (p.1 < a + n)))).okay c

/-- Bytes programmed from address `a` upward where the flash reads 0xFF; elsewhere it keeps its bytes. -/
def program (m : Memory) (a : Nat) : List Byte → Memory
  | [] => m
  | b :: bs => program (if m.get a = 0 then m.set a (~~~b) else m) (a + 1) bs

/-- FLASH_WRITE. -/
def execFlashWrite (session seq : Nat) (s : State) : Out :=
  opRow session seq opFlashWrite false s fun c s => s.ifHeld c fun s =>
    let a := c.flashOff
    let m := s.boot.flash
    if flashSize < a + c.data.length then s.faulty c codeAccess
    else
      let blank := (m.read a c.data.length).all fun b => b == 0
      let s := s.setFlash (program m a c.data)
      if blank then s.okay c else s.faulty c codeAccess

/-! ### Keys and versions -/

/-- A fuse change: it takes effect at once and is counted. -/
def State.blow (s : State) (f : Fuses) : State :=
  { s with fuses := f, boot := { s.boot with fuseOps := s.boot.fuseOps + 1 } }

/-- SVN_ADVANCE. -/
def execSvnAdvance (session seq : Nat) (s : State) : Out :=
  opRow session seq opSvnAdvance false s fun c s => s.ifHeld c fun s =>
    (if s.fuses.svnMin < s.boot.svn then s.blow { s.fuses with svnMin := s.boot.svn } else s).okay c

/-- The lowest owner slot that is not programmed. -/
def Fuses.freeOwner (f : Fuses) : Option Nat := (List.range 4).find? fun k => (SMap.get? f.ownerHash k).isNone

/-- Does the running owner manifest permit enrolment? -/
def State.mayEnrol (s : State) : Bool :=
  match s.boot.retained with
  | some im => im.enrol
  | none => false

/-- KEY_ENROL. -/
def execKeyEnrol (session seq : Nat) (s : State) : Out :=
  opRow session seq opKeyEnrol false s fun c s => s.ifHeld c fun s =>
    match s.fuses.freeOwner with
    | none => s.reject c
    | some k =>
      if !s.mayEnrol then s.reject c
      else (s.blow { s.fuses with ownerHash := SMap.put s.fuses.ownerHash k (packBytes (c.data.take 32)) }).okay c

/-- KEY_REVOKE. -/
def execKeyRevoke (session seq : Nat) (s : State) : Out :=
  opRow session seq opKeyRevoke false s fun c s => s.ifHeld c fun s =>
    let k := leAt c.bytes 16 1
    if 4 ≤ k ∨ SMap.get? s.fuses.ownerHash k = none ∨ k = s.boot.okey then s.reject c
    else if NSet.has s.fuses.ownerRev k then s.okay c
    else (s.blow { s.fuses with ownerRev := NSet.add s.fuses.ownerRev k }).okay c

/-! ### Attestation (R380–R382) -/

/-- Offsets of the registers that are marked attested, in increasing order (Table 18.5). -/
def State.attested (s : State) : List Nat :=
  let row (base n stride : Nat) : List Nat := (List.range n).map fun k => base + stride * k
  row 0x400 4 8 ++ [0x480] ++ row 0x488 4 8 ++ [0x4C0, 0x4C8] ++ row 0x500 4 8 ++ row 0x620 4 8 ++ row 0x640 4 8 ++
  [0x660] ++
  ([0x10, 0x18, 0x28, 0x38, 0x40, 0x100, 0x108, 0x200, 0x208, 0x210, 0x220, 0x228, 0x230] : List Nat).map (hostBase + ·) ++
  (row 0 8 8 ++ row 0x100 12 8).map (fabBase + ·) ++
  ((List.range 8).map fun i => (0x10 :: row 0x300 8 8).map (memBase i + ·)).flatten ++
  row syncBase 16 8 ++
  ([0x8, 0x10, 0x18] ++ row 0x200 4 8 ++ row 0x220 4 8 ++ row 0x240 4 8).map (lookBase + ·) ++
  [pwrBase, pwrBase + 8, nocBase, nocBase + 0x10] ++
  ((List.range s.coreCount).map fun c => [coreBase c + 0x600, coreBase c + 0xA00]).flatten

/-- A register word as CONFIG hashes it: fields of another type than RW, RWS and RWL read zero. -/
def State.attestWord (s : State) (off : Nat) : List Byte :=
  let m := regMask off
  bytesOf 8 (s.reg off &&& (m.rw ||| m.rws ||| m.rwl))

/-- The words of the access windows, in increasing address. -/
def windowWords : List Nat :=
  ((List.range 73).map fun x => (List.range (2 * windowsOf x)).map fun n => 0x1_0000 + 0x400 * x + 8 * n).flatten

/-- What CONFIG is the digest of (R382). -/
def State.configBytes (s : State) : List Byte :=
  (s.attested.map s.attestWord).flatten ++ (windowWords.map fun o => bytesOf 8 (s.reg o)).flatten ++
  s.memBytes s.admitPa 2048 ++
  ((List.range 8).map fun i =>
    ((List.range 16).map fun n => bytesOf 8 (SMap.get 0 (s.stack i).scarf n)).flatten).flatten

/-- The identity key, made from UDS (R380). -/
def Fuses.identityKey (f : Fuses) : SlhKey :=
  let t1 := hmacSha256 (leBytes 32 f.uds) [0x49, 0x44, 0x01]
  let t2 := hmacSha256 (leBytes 32 f.uds) [0x49, 0x44, 0x02]
  slhKeygen slh128f (t1.take 16) (t1.drop 16) (t2.take 16)

/-- The report (Table 16.7). -/
def State.report (s : State) (nonce : List Byte) : List Byte :=
  let b := s.boot
  bytesOf 4 0x4B544101 ++ bytesOf 4 1 ++ bytesOf 8 s.fuses.serial ++ bytesOf 4 s.deviceId ++ bytesOf 4 s.host.epoch ++
  bytesOf 4 s.coreCount ++ bytesOf 1 b.result ++ bytesOf 1 (b2n b.slotB) ++ bytesOf 1 (b2n b.warm + 2 * b2n b.fallback) ++
  [0] ++ bytesOf 4 b.svn ++ bytesOf 4 s.fuses.svnMin ++ bytesOf 8 b.seq ++ nonce ++
  bytesOf 32 (packBytes s.fuses.identityKey.publicKey) ++
  bytesOf 32 b.measV ++ bytesOf 32 b.measO ++ bytesOf 32 (digest s.configBytes) ++ bytesOf 8 (s.reg 0x700) ++
  bytesOf 4 (b.attests + 1) ++ bytesOf 1 b.vkey ++ bytesOf 1 b.okey ++ List.replicate 290 0

/-- A report with its number and its hedged signature, counted. -/
def State.signReport (s : State) (r : List Byte) : State × List Byte :=
  let r := r.take 216 ++ bytesOf 4 (s.boot.attests + 1) ++ r.drop 220
  let bs := r ++ slhSign slh128f s.fuses.identityKey (leBytes 16 (Config.number s.free)) r
  ({ s.draw 1 with boot := { s.boot with attests := s.boot.attests + 1 } }, bs)

/-- SEC_ATTEST: the report is that of dispatch, kept with the command until it is signed; with SPACE 2 it goes into two
handles, else to its destination, where a denied one is not signed. It waits while the admission table, which CONFIG covers,
is held at its stack. -/
def execSecAttest (session seq : Nat) (s : State) : Out :=
  opRow session seq opSecAttest true s fun c s =>
    if c.out.isEmpty && s.admitHeld then s else
    let r := if c.out.isEmpty then s.report ((c.bytes.drop 32).take 32) else c.out
    let s := if c.out.isEmpty then s.touch s.admitPa 2048 else s
    if c.space = 2 then
      let (s, bs) := s.signReport r
      (s.result c 0 0 0 (bs.take 16384)).modCmd session seq fun c => { c with out2 := bs.drop 16384 }
    else (s.modCmd session seq fun c => { c with out := r }).hostAccess c 17600 true fun s p =>
      let (s, bs) := s.signReport r
      (s.rowStore (s.cmdTen c) bs (fun _ _ => false) p).okay c

end Sys2Proof.Machine
end

