-- ==== Sys2Proof/Machine/Boot.lean ====
section
/-! DEFINITION. Resets and the boot sequence (R19, R203, R204, R364, R374–R379, R383–R387, R427, R428). A boot is one
action: what the physical part shows of it comes with the command that starts it. -/

namespace Sys2Proof.Machine

/-! ### Register entries, Scarf entries, admission (R371, R374) -/

/-- The offsets that a register entry writes: ALL_CORES acts on an address of CORE, ALL_STACKS on one of MEM. -/
def State.entryTargets (s : State) (off flags : Nat) : List Nat :=
  if bit 0 flags && inCores off then (List.range s.coreCount).map fun c => coreBase c + off % 0x1_0000
  else if bit 1 flags && inStacks off then (List.range 8).map fun i => memBase i + off % 0x10_0000
  else [off]

/-- A write of the boot sequence; one to a sync object's word configures it or sets its value, unless it is refused. -/
def State.bootPut (s : State) (off v : Nat) : State :=
  match objectOf off with
  | none => s.cfgPut off v
  | some (j, w1) =>
    match s.wordOp 0 0 j w1 (BitVec.ofNat 64 v) with
    | none => s
    | some o => if o.op = 0 ∧ cfgValid v = false then s else s.perform o

/-- A write of the boot sequence after a warm reset: RWS fields keep what they survived with, so that a word of nothing else
is not written (R19, R364; DEDUCED, log entry 148). -/
def State.warmPut (s : State) (off v : Nat) : State :=
  let m := regMask off
  if m.fields &&& (allBits - m.rws) = 0 then s
  else s.bootPut off ((v &&& (allBits - m.rws)) ||| (s.reg off &&& m.rws))

/-- A register entry applied after a cold or a warm reset. -/
def State.applyEntry (s : State) (cold : Bool) (e : List Byte) : State :=
  (s.entryTargets (leAt e 0 8 - cfgSpace) (leAt e 16 8)).foldl (fun s off =>
    if cold then s.bootPut off (leAt e 8 8) else s.warmPut off (leAt e 8 8)) s

/-- The register entries of an image: VENDOR_REGS, then REGS. -/
def Image.regEntries (im : Image) : List (List Byte) :=
  partsOf 24 (im.sectionOf 3) ++ partsOf 24 (im.sectionOf 0x101)

/-- Is the entry addressed to NOC.CTRL? -/
def nocEntry (e : List Byte) : Bool := leAt e 0 8 == cfgSpace + nocBase

/-- The register entries applied: those of NOC.CTRL first, then all in section order. -/
def State.applyRegs (s : State) (im : Image) (cold : Bool) : State :=
  let es := im.regEntries
  (es.filter nocEntry ++ es).foldl (fun s e => s.applyEntry cold e) s

/-- A failure recorded: REASON keeps the first. -/
def State.failBoot (s : State) (reason : Nat) : State :=
  { s with boot := { s.boot with reason := if s.boot.reason = 0 then reason else s.boot.reason } }

/-- A Scarf entry of the image: into the lowest free index with ORIGIN 0, whatever its bit 3; a refused one is skipped
(R186, Table 16.6). -/
def State.bootScarf (s : State) (e : List Byte) : State :=
  let v := leAt e 0 8
  let r := setBits 3 3 (bits 33 1 v * 2) 0
  let st := bits 42 40 v
  let k := s.stack st
  if k.scarfCheck r = 1 then
    let w := 1 + r + 2 ^ 34 * ((k.freeSpare r).getD 0)
    s.modStack st fun k => { k with scarf := SMap.put k.scarf k.freeIndex w }
  else s.failBoot 0x11

/-- ADMIT copied to its place (R306). -/
def State.admitCopy (s : State) (im : Image) : State :=
  let bs := im.sectionOf 0x103
  if bs.isEmpty then s else s.memWrite s.admitPa bs false

/-! ### The parts of the sequence -/

/-- An accepted image runs: its sections are in the retained store. -/
def State.adopt (s : State) (im : Image) : State :=
  let f := s.fuses
  { s with boot := { s.boot with
      retained := some im
      seq := im.seq
      svn := im.svn
      vkey := (f.vendorSlot im).getD 0
      okey := if f.ownerHash.isEmpty then 255 else (f.ownerSlot im).getD 255
      measV := digest im.vendor
      measO := digest im.owner } }

/-- Step 2: the flash at its clock, at most 200 MHz (R367). -/
def State.openFlash (s : State) (w : BootWorld) : State :=
  { s with boot := { s.boot with octal := true, clockMhz := min 200 w.flashMhz } }

/-- The identity public key, which step 3 sets (R380). -/
def State.identify (s : State) : State :=
  { s with boot := { s.boot with idPk := packBytes s.fuses.identityKey.publicKey } }

/-- Step 4: the stacks train. -/
def State.train (s : State) (failed : List Nat) : State :=
  let s := (List.range 8).foldl (fun s i => s.modStack i fun k =>
    if failed.contains i then { k with state := stFailed, jrn := 1 } else { k with state := stReady, jrn := 0 }) s
  if failed.any (· < 8) then s.failBoot 0x10 else s

/-- A draw of EPOCH: never zero (R374). -/
def State.drawEpoch (s : State) : State :=
  { s.draw 1 with host := { s.host with epoch := Config.number s.free % (2 ^ 32 - 1) + 1 } }

/-- Each core takes the tenancy that its ALLOC names for phase 0 (R326, R327). -/
def State.loadAlloc (s : State) : State :=
  (List.range s.coreCount).foldl (fun s c =>
    let w := s.reg (coreBase c + 0xA00) % 2 ^ 16
    if w = 0 then s
    else s.modCore c fun k => { k with alloc := BitVec.ofNat 16 w, res := s.allocIn w 0 }) s

/-- The beacon (R375): READY_N low, the in-band interrupt with RESULT (R398), and what the host ports announce; the
heartbeats have their own command. -/
def State.beacon (s : State) : State :=
  let s := { s with
    pins := { s.pins with ready := true }
    power := { s.power with i3cIbi := some (BitVec.ofNat 8 s.boot.result) } }
  (s.beaconPort 0).beaconPort 1

/-- The cores' clocks as a boot leaves them: none above what the limits kept or loaded, and the emergency in force, allow
(R400, R407). -/
def State.startClocks (s : State) : State :=
  ((List.range s.coreCount).foldl (fun s c =>
    if (s.core c).freq ≤ s.clockTarget c then s else s.modCore c fun k => { k with freq := s.clockTarget c }) s).applyClocks

/-- The end of a boot: the clocks, STEP, RESULT, the lock of the RWL fields (R378), and where step 8 is reached the
beacon. -/
def State.endBoot (s : State) (step result : Nat) : State :=
  let s := s.startClocks
  let s := { s with
    locked := true
    boot := { s.boot with step := step, result := result }
    pins := { s.pins with ready := false } }
  if result = 1 ∨ result = 2 then s.beacon else s

/-- RECOVERY (R379): its own journal, sessions and epoch; the device accepts commands. -/
def State.toRecovery (s : State) (step reason : Nat) : State :=
  let s := ({ s with host := { accepting := true } } : State).drawEpoch
  (s.failBoot reason).endBoot step 3

/-- Steps 5 to 8 with the image in the retained store. -/
def State.finishBoot (s : State) (w : BootWorld) (im : Image) (cold : Bool) : State :=
  let s := s.applyRegs im cold
  let s := if cold then (partsOf 8 (im.sectionOf 0x102)).foldl State.bootScarf s else s
  let s := s.admitCopy im
  let bad := w.coreFail.filter (· < s.coreCount)
  let s := { s with boot := { s.boot with selftest := bad.foldl NSet.add [] } }
  let s := if bad.isEmpty then s else s.failBoot 0x12
  if w.ringFail then (s.failBoot 0x13).endBoot 6 4
  else
    let s := s.loadAlloc
    let s := if cold then s.drawEpoch else s
    let down := s.jrnState false == 1 && s.jrnState true == 1
    let s := { s with host := { s.host with accepting := !down } }
    let s := if down then s.failBoot 0x14 else s
    let s := if cold || down then s else s.writeJournal.spread
    let s := s.raiseField (hostBase + 0x20) 35 18 (min s.host.cmds.length 131072)
    s.endBoot 8 (if s.boot.reason = 0 then 1 else 2)

/-- An image adopted with the slot that it came from. -/
def State.takeSlot (s : State) (im : Image) (slotB fallback : Bool) : State :=
  { s.adopt im with boot := { (s.adopt im).boot with slotB := slotB, fallback := fallback } }

/-! ### Cold reset (R374, R385, R428) -/

/-- The device as a cold reset leaves it: fuses and flash alone keep what they hold (Table 16.9). -/
def State.coldBase (s : State) : State :=
  { State.reset with
    pending := s.pending
    fuses := s.fuses
    free := s.free
    boot := { flash := s.boot.flash } }

/-- A cold reset and its boot (Table 16.5). -/
def State.coldBoot (s : State) (w : BootWorld) : State :=
  let s := { s.coldBase with pins := { coldLow := false, xspiReset := false }, power := { i3cLands := w.i3cLands } }
  if !w.flashOk then s.toRecovery 2 1
  else
    let s := (s.openFlash w).identify
    match s.fuses.choose s.boot.flash with
    | (none, fb, r) =>
      ({ s with boot := { s.boot with fallback := fb } } : State).toRecovery 3 r
    | (some (im, slotB), fb, r) =>
      let s := s.takeSlot im slotB fb
      let s := if fb then s.failBoot r else s
      (s.train w.trainFail).finishBoot w im true

/-- COLD_RST_N_RISE. -/
def execColdRstNRise (w : BootWorld) (s : State) : Out :=
  if s.pins.coldLow then .next (s.coldBoot w) else .next s

/-- COLD_RST_N_ASSERT: every output is in its reset state (R427). -/
def execColdRstNAssert (s : State) : Out := .next s.coldBase

/-- SUPPLY_OUT_OF_WINDOW: a cold reset; while COLD_RST_N is low the rails are outside its watch (R416, R428). -/
def execSupplyOutOfWindow (_rail : Rail) (w : BootWorld) (s : State) : Out :=
  if s.pins.coldLow then .next s else .next (s.coldBoot w)

/-- RESET_CTRL_COLD: the reset that a write of RESET_CTRL asks for. -/
def execResetCtrlCold (w : BootWorld) (s : State) : Out :=
  if s.boot.wantReset = 2 then .next (s.coldBoot w) else .next s

/-- COLD_RESET: never completes (Table 16.8). -/
def execColdReset (session seq : Nat) (w : BootWorld) (s : State) : Out :=
  opRow session seq opColdReset false s fun c s => s.ifHeld c fun s => s.coldBoot w

/-! ### Warm reset (R203, R321, R322, R364, R376, R377) -/

/-- A register's bits after a warm reset: RWS fields keep theirs. -/
def warmWord (off : Nat) (v : Word) : Word :=
  let m := (regMask off).rws
  BitVec.ofNat 64 ((regReset off &&& (allBits - m)) ||| (v.toNat &&& m))

/-- The registers after a warm reset. -/
def warmRegs (rs : SMap Word) : SMap Word :=
  (rs.filter fun p => (regMask p.1).rws != 0).map fun (p : Nat × Word) => (p.1, warmWord p.1 p.2)

/-- A stack after the steps of Table 7.14, in the state given; a FAILED one, also one that RETRAIN tries again, is FAILED
(R177). -/
def Stack.warm (k : Stack) (state : Nat) : Stack :=
  let failed := decide (k.state = stFailed) || k.oneShot
  { state := if failed then stFailed else state
    scarf := k.scarf
    jrn := if failed then 1 else 0 }

/-- Every stack after a warm reset. -/
def warmStacks (m : SMap Stack) (state : Nat) : SMap Stack :=
  (List.range 8).map fun i => (i, (SMap.get {} m i).warm state)

/-- A command after a warm reset: one that was dispatched is INTERRUPTED, but for a WARM_RESET, whose own completion is
OK; one that waits was accepted before the reset. -/
def HostCmd.warm (c : HostCmd) (own : Option (Nat × Nat)) : HostCmd :=
  let ended : HostCmd :=
    { c with phase := .done, code := 0, detail := 0, out := [], out2 := [], run := [], bz := false, bad := [], msg := 0,
             status := if own = some (c.session, c.seq) then 0 else 3 }
  match c.phase with
  | .waiting => { c with old := true }
  | .atDispatch => ended
  | .started => ended
  | .done => ended
  | .completed => c

/-- The transport as the journal recovers it: the ring counter starts again, so the lease keeps what was left of it. -/
def HostState.warm (h : HostState) (count : Nat) (own : Option (Nat × Nat)) : HostState :=
  { h with
    cmds := h.cmds.map fun c => c.warm own
    sessions := h.sessions.map fun (p : Nat × Session) =>
      (p.1, { p.2 with events := p.2.events.map fun (e : HostEvent) => { e with sent := false }
                       lostEnd := p.2.lostEnd - count })
    accepting := false
    hold := true
    dispatching := none
    leaseEnd := h.leaseEnd - count
    lostEnd := h.lostEnd.map fun n => n - count
    tx := [] }

/-- Can a copy of the journal be read after a warm reset: is its stack not FAILED (R177)? -/
def State.copyReads (s : State) (copyB : Bool) : Bool :=
  let k := s.stack (s.jrnStack copyB)
  k.state != stFailed && !k.oneShot

/-- What recovery keeps of the transport: every record that is valid in a copy that can be read; where neither can, nothing
(R320, R321; log entry 147). -/
def State.recovered (s : State) (h : HostState) : Option HostState :=
  let a := s.copyReads false
  let b := s.copyReads true
  if a || b then some { h with cmds := h.cmds.filter fun c => (c.inA && a) || (c.inB && b) } else none

/-- The transport that a warm reset recovers: that in the stacks; RECOVERY's own journal ends with the reset. -/
def State.warmHost (s : State) (own : Option (Nat × Nat)) : Option HostState :=
  if s.recovery then s.parked else s.recovered (s.host.warm (s.reg 0x700) own)

/-- What a warm reset keeps (Table 16.9), with the stacks in the state given. -/
def State.warmBase (s : State) (own : Option (Nat × Nat)) (state : Nat) : State :=
  { State.reset with
    pending := s.pending
    fuses := s.fuses
    free := s.free
    regs := warmRegs s.regs
    mem := { bytes := s.mem.bytes, areas := s.mem.areas, blz := s.mem.blz, errs := s.mem.errs, counts := s.mem.counts, badCounts := s.mem.badCounts,
             dram := warmStacks s.mem.dram state }
    faultQ := s.faultQ
    host := (s.warmHost own).getD {}
    parked := s.warmHost own
    boot := { flash := s.boot.flash, octal := s.boot.octal, clockMhz := s.boot.clockMhz, fuseOps := s.boot.fuseOps,
              attests := s.boot.attests, idPk := s.boot.idPk, warm := true, slotB := s.boot.slotB,
              fallback := s.boot.fallback }
    power := { cap := s.power.cap, emergency := s.power.emergency, i3cIndex := s.power.i3cIndex,
               i3cLatch := s.power.i3cLatch, i3cOut := s.power.i3cOut, i3cAddr := s.power.i3cAddr,
               i3cLands := s.power.i3cLands, i3cPid := s.power.i3cPid }
    pins := { coldLow := false, xspiReset := false } }

/-- The warm reset goes on with an accepted image (R376). -/
def State.warmOn (s : State) (w : BootWorld) (im : Image) : State :=
  let s := (s.adopt im).identify
  let s := if s.someStackFailed then s.failBoot 0x10 else s
  match s.parked with
  | some _ => { s with parked := none }.finishBoot w im false
  | none =>
    ({ s with host := { hold := true } } : State).drawEpoch.finishBoot w im false

/-- The image in the retained store, where it passes R373 again. -/
def State.retainedOk (s : State) : Option Image :=
  match s.boot.retained with
  | none => none
  | some im => if s.fuses.verify im = 0 then some im else none

/-- A warm reset: with the retained image, or else with one from the flash, or into RECOVERY with the stacks in
self-refresh (R377). -/
def State.warmReset (s : State) (w : BootWorld) (own : Option (Nat × Nat)) : State :=
  match s.retainedOk with
  | some im => (s.warmBase own stReady).warmOn w im
  | none =>
    let dark := ((s.warmBase own stSelfRefresh).failBoot 0x15)
    if !w.flashOk then
      ({ dark with boot := { dark.boot with fallback := false, slotB := false } } : State).toRecovery 2 0x15
    else match s.fuses.choose s.boot.flash with
      | (none, fb, _) =>
        ({ dark.openFlash w with boot := { (dark.openFlash w).boot with fallback := fb, slotB := false } } : State).identify.toRecovery
          3 0x15
      | (some (im, slotB), fb, _) =>
        ((((s.warmBase own stReady).failBoot 0x15).openFlash w).takeSlot im slotB fb).warmOn w im

/-- A request for a warm reset: none acts while a cold one is pending or in progress, or after a thermal trip, which
only a cold reset ends; before a boot has ended, the cold boot starts again (R424, R427). -/
def State.warmAsk (s : State) (w : BootWorld) (own : Option (Nat × Nat)) : State :=
  if s.pins.coldLow || s.pins.thermtrip || decide (s.boot.wantReset = 2) then s
  else if s.boot.result = 0 then s.coldBoot w
  else s.warmReset w own

/-- WARM_RST_N_RISE. -/
def execWarmRstNRise (w : BootWorld) (s : State) : Out := .next (s.warmAsk w none)

/-- RESET_CTRL_WARM: the reset that a write of RESET_CTRL asks for. -/
def execResetCtrlWarm (w : BootWorld) (s : State) : Out :=
  if s.boot.wantReset = 1 then .next (s.warmAsk w none) else .next s

/-- WARM_RESET: its own completion is in the journal before the reset (R384). -/
def execWarmReset (session seq : Nat) (w : BootWorld) (s : State) : Out :=
  opRow session seq opWarmReset false s fun c s => s.ifHeld c fun s => (s.okay c).warmAsk w (some (session, seq))

/-! ### Core reset (R387) -/

/-- CORE_RESET: a core that is not there is denied; while another core is reset, or the core switches, it waits. -/
def execCoreReset (session seq : Nat) (s : State) : Out :=
  opRow session seq opCoreReset true s fun c s => s.ifHeld c fun s =>
    let n := leAt c.bytes 16 2
    if s.coreCount ≤ n then s.faulty c codeAccess
    else if !c.run.isEmpty || s.boot.coreReset.isSome || (s.core n).switching then s
    else (s.startCoreReset n).modCmd session seq fun c => { c with run := [⟨n, .f⟩] }

end Sys2Proof.Machine
end

