-- ==== Sys2Proof/Machine/Legal.lean ====
section
/-! DEFINITION. Which instruction words a sequencer executes and what they stand for (R63, R71–R76, R103, R111, R131, R132,
R155, R220, R257), and the stop on any other. Bits of a word that
no field of its encoding names are taken as reserved (DEDUCED, log entry 20). -/

namespace Sys2Proof.Machine

/-- The bits that must be zero in a word of an opcode (Tables 3.4 to 3.13, 4.4, 4.9, 5.5, 5.6, 6.6, 8.7 and R257);
none for a reserved opcode. -/
def reservedBits (op : Nat) : Option Nat :=
  if op = 0x0C ∨ op = 0x10 then some (fieldMask 37 32)
  else if op = 0x12 ∨ op = 0x13 then some (fieldMask 36 32 + fieldMask 40 38)
  else if op ≤ 0x0B ∨ op = 0x11 ∨ op = 0x1E ∨ op = 0x1F then some (fieldMask 40 32)
  else if op = 0x36 then some (fieldMask 55 54 + fieldMask 23 0)
  else if op = 0x37 then some (fieldMask 19 0)
  else if 0x30 ≤ op ∧ op ≤ 0x3F then some (fieldMask 26 0)
  else if op = 0x40 ∨ op = 0x41 then some (fieldMask 4 0)
  else if op = 0x42 then some (fieldMask 13 0)
  else if op = 0x43 then some (fieldMask 21 0)
  else if op = 0x60 then some (fieldMask 33 0)
  else if op = 0x61 ∨ op = 0x62 then some (fieldMask 39 32)
  else if op = 0x63 ∨ op = 0x64 then some (fieldMask 40 0)
  else if op = 0x68 ∨ op = 0x69 then some (fieldMask 6 0)
  else if op = 0x6A then some (fieldMask 55 48 + fieldMask 45 0)
  else if op = 0x6B then some (fieldMask 51 48 + fieldMask 25 0)
  else if 0x6C ≤ op ∧ op ≤ 0x6E then some (fieldMask 43 0)
  else if op = 0x80 then some 0
  else if op = 0x81 then some (fieldMask 18 0)
  else if op = 0x90 then some (fieldMask 40 32)
  else if op = 0x91 then some (fieldMask 36 0)
  else if op = 0x92 then some (fieldMask 31 0)
  else if op = 0x93 ∨ op = 0x96 then some (fieldMask 45 0)
  else if op = 0x94 then some (fieldMask 45 32 + fieldMask 26 0)
  else if op = 0x95 then some (fieldMask 50 0)
  else if 0xA0 ≤ op ∧ op ≤ 0xA3 then some (fieldMask 45 0)
  else if op = 0xA4 then some (fieldMask 50 0)
  else if op = 0xA8 then some (fieldMask 50 0)
  else if op = 0xA9 then some (fieldMask 55 0)
  else if op = 0xAA then some (fieldMask 46 0)
  else if op = 0xAB then some (fieldMask 34 0)
  else if op = 0xBC then some (fieldMask 35 32)
  else if 0xB0 ≤ op ∧ op ≤ 0xBB then some (fieldMask 39 32)
  else none

/-- Is the predicate of a word not a reserved value (R72)? -/
def predLegal (w : Nat) : Bool :=
  let p := bits 31 28 w
  if p = 0 then !bit 27 w else decide (8 ≤ p)

/-- The format codes and operation-specific fields of a V word are not reserved (R76, R431, Table 3.7). -/
def vectorLegal (op w : Nat) : Bool :=
  let f := bits 35 32 w
  predLegal w &&
  (if op = 0x37 then
    match moveFmt f, moveFmt (bits 26 23 w) with
    | some x, some y =>
      partOk x.regCount y.regCount (bits 22 20 w) && (!y.isMx || decide (bits 31 27 w = 0))
    | _, _ => false
  else if op = 0x40 ∨ op = 0x41 then (moveFmt f).isSome
  else match arithFmt f with
    | none => false
    | some x =>
      if op = 0x36 then decide (bits 26 24 w ≠ 7)
      else if 0x38 ≤ op ∧ op ≤ 0x3D then !x.isInt
      else if op = 0x42 then decide (bits 21 14 w < x.lanes)
      else true)

/-- Are the codes that a word carries in its fields not reserved? -/
def fieldsLegal (op w : Nat) : Bool :=
  if op = 0x0C ∨ op = 0x10 then decide (bits 40 38 w ≠ 7)
  else if 0x30 ≤ op ∧ op ≤ 0x43 then vectorLegal op w
  else if op = 0x68 ∨ op = 0x69 then decide (bits 41 40 w ≠ 3) && decide (bits 38 37 w ≠ 3)
  else if op = 0x94 then predLegal w
  else if op = 0xBC then [1, 2, 4, 6, 8].contains (bits 39 36 w)
  else true

/-- Is a word one that a sequencer executes (R63)? -/
def legalWord (w : Nat) : Bool :=
  let op := bits 63 56 w
  match reservedBits op with
  | none => false
  | some m => decide (w &&& m = 0) && fieldsLegal op w

/-! ### What a word spells -/

/-- An instruction of the S form (Tables 3.5 and 3.6). -/
def decodeS (i : At) (w : Word) : Option Instr :=
  let sd : SReg := w.extractLsb' 51 5
  let sa : SReg := w.extractLsb' 46 5
  let sb : SReg := w.extractLsb' 41 5
  let cond : BitVec 3 := w.extractLsb' 38 3
  let space := w.getLsbD 37
  let imm : Imm := w.extractLsb' 0 32
  match (w.extractLsb' 56 8).toNat with
  | 0x00 => some (.nopInstr i)
  | 0x01 => some (.add i sd sa sb imm)
  | 0x02 => some (.sub i sd sa sb imm)
  | 0x03 => some (.and i sd sa sb imm)
  | 0x04 => some (.or i sd sa sb imm)
  | 0x05 => some (.xor i sd sa sb imm)
  | 0x06 => some (.shl i sd sa sb imm)
  | 0x07 => some (.shr i sd sa sb imm)
  | 0x08 => some (.sar i sd sa sb imm)
  | 0x09 => some (.mul i sd sa sb)
  | 0x0A => some (.li i sd imm)
  | 0x0B => some (.lhi i sd sa imm)
  | 0x0C => some (.cmp i cond sd sa sb)
  | 0x10 => some (.br i cond sa sb imm)
  | 0x11 => some (.jr i sa imm)
  | 0x12 => some (.ld i sd sb space imm)
  | 0x13 => some (.st i sa sb space imm)
  | 0x1E => some (.amode i imm)
  | 0x1F => some (.halt i)
  | _ => none

/-- An instruction of the V form (Tables 3.5 and 3.7). -/
def decodeV (i : At) (w : Word) : Option Instr :=
  let o : VOp :=
    { vd := w.extractLsb' 51 5, va := w.extractLsb' 46 5, vb := w.extractLsb' 41 5, vc := w.extractLsb' 36 5
      fmt := w.extractLsb' 32 4, pred := w.extractLsb' 28 4, pneg := w.getLsbD 27 }
  let sr : SReg := w.extractLsb' 22 5
  match (w.extractLsb' 56 8).toNat with
  | 0x30 => some (.vadd i o)
  | 0x31 => some (.vsub i o)
  | 0x32 => some (.vmul i o)
  | 0x33 => some (.vfma i o)
  | 0x34 => some (.vmax i o)
  | 0x35 => some (.vmin i o)
  | 0x36 => some (.vcmp i o (w.extractLsb' 51 3) (w.extractLsb' 24 3))
  | 0x37 => some (.vcvt i o (w.extractLsb' 23 4) (w.extractLsb' 20 3))
  | 0x38 => some (.vdiv i o)
  | 0x39 => some (.vsqrt i o)
  | 0x3A => some (.vrcp i o)
  | 0x3B => some (.vrsqrt i o)
  | 0x3C => some (.vexp i o)
  | 0x3D => some (.vlog i o)
  | 0x3E => some (.vsel i o)
  | 0x3F => some (.vredsum i o)
  | 0x40 => some (.vld i o sr (w.getLsbD 21) (w.extractLsb' 5 16))
  | 0x41 => some (.vst i o sr (w.getLsbD 21) (w.extractLsb' 5 16))
  | 0x42 => some (.vmovs i o sr (w.extractLsb' 14 8))
  | 0x43 => some (.vbcast i o sr)
  | _ => none

/-- An instruction of the T form, the array or the kernels (Tables 3.5, 3.5a, 4.4, 4.9, 5.5, 5.6). -/
def decodeTile (i : At) (w : Word) : Option Instr :=
  let tile : TReg := w.extractLsb' 52 4
  let mem : TileMemOp :=
    { tile := tile, sBase := w.extractLsb' 47 5, sStride := w.extractLsb' 42 5, space := w.getLsbD 41
      na := w.getLsbD 40, imm := w.extractLsb' 0 32 }
  let vreg : VReg := w.extractLsb' 47 5
  let sRow : SReg := w.extractLsb' 42 5
  let mma : MmaOp :=
    { ta := tile, tw := w.extractLsb' 48 4, acc := w.extractLsb' 46 2, form := w.extractLsb' 44 2
      tra := w.getLsbD 43, trw := w.getLsbD 42, opa := w.extractLsb' 40 2, la := w.getLsbD 39
      opw := w.extractLsb' 37 2, lw := w.getLsbD 36, mM1 := w.extractLsb' 31 5, arow := w.extractLsb' 23 8
      koff := w.extractLsb' 15 8, nM1 := w.extractLsb' 7 8 }
  let va : VReg := w.extractLsb' 51 5
  let sIdx : SReg := w.extractLsb' 46 5
  let acc : BitVec 2 := w.extractLsb' 44 2
  match (w.extractLsb' 56 8).toNat with
  | 0x60 => some (.tcfg i tile (w.extractLsb' 44 8) (w.extractLsb' 39 5) (w.extractLsb' 35 4) (w.getLsbD 34))
  | 0x61 => some (.tld i mem)
  | 0x62 => some (.tst i mem)
  | 0x63 => some (.tvrd i tile vreg sRow (w.getLsbD 41))
  | 0x64 => some (.tvwr i tile vreg sRow (w.getLsbD 41))
  | 0x68 => some (.mma i mma)
  | 0x69 => some (.mmaz i mma)
  | 0x6A => some (.accz i (w.extractLsb' 46 2))
  | 0x6B => some (.acct i
      { tile := tile, acc := w.extractLsb' 46 2, form := w.extractLsb' 44 2, trow := w.extractLsb' 36 8
        countM1 := w.extractLsb' 31 5, arow := w.extractLsb' 26 5 })
  | 0x6C => some (.accrd i va sIdx acc)
  | 0x6D => some (.accwr i va sIdx acc)
  | 0x6E => some (.accadd i va sIdx acc)
  | 0x80 => some (.fnb i
      { tx := tile, tg := w.extractLsb' 48 4, td := w.extractLsb' 44 4, tp := w.extractLsb' 40 4
        vS := w.extractLsb' 35 5, vR := w.extractLsb' 30 5, acc := w.extractLsb' 28 2, mode := w.getLsbD 27
        kind := w.getLsbD 26, row0 := w.extractLsb' 18 8, countM1 := w.extractLsb' 13 5, grow := w.extractLsb' 5 8
        sH := w.extractLsb' 0 5 })
  | 0x81 => some (.fsb i
      { ty := tile, tg := w.extractLsb' 48 4, td := w.extractLsb' 44 4, vS := w.extractLsb' 39 5
        mode := w.getLsbD 38, row0 := w.extractLsb' 30 8, countM1 := w.extractLsb' 24 6, sC := w.extractLsb' 19 5 })
  | _ => none

/-- An instruction of the P, M, D or Y class (Tables 6.6, 3.13, 8.7, R257 with Table 10.2). -/
def decodeUnit (i : At) (w : Word) : Option Instr :=
  let a : SReg := w.extractLsb' 51 5
  let b : SReg := w.extractLsb' 46 5
  let c : SReg := w.extractLsb' 41 5
  let y : SyOp :=
    { sObj := a, sVal := b, sd := c, rel := w.getLsbD 40, rop := w.extractLsb' 36 4, imm := w.extractLsb' 0 32 }
  match (w.extractLsb' 56 8).toNat with
  | 0x90 => some (.gset i a b c (w.extractLsb' 0 32))
  | 0x91 => some (.upd i a b c (w.extractLsb' 37 4))
  | 0x92 => some (.updTally i a b c (w.extractLsb' 36 5) (w.extractLsb' 32 4))
  | 0x93 => some (.tallyAdd i a b)
  | 0x94 => some (.tallyAddv i a b (w.extractLsb' 28 4) (w.getLsbD 27))
  | 0x95 => some (.tallyClr i a)
  | 0x96 => some (.updCommit i a b)
  | 0xA0 => some (.ncflush i a b)
  | 0xA1 => some (.ncinv i a b)
  | 0xA2 => some (.ncfi i a b)
  | 0xA3 => some (.mfence i)
  | 0xA4 => some (.xcinv i a)
  | 0xA8 => some (.dma i a)
  | 0xA9 => some (.dmaw i)
  | 0xAA => some (.flm i a (w.extractLsb' 47 4))
  | 0xAB => some (.dacc i a b c (w.extractLsb' 36 5) (w.getLsbD 35))
  | 0xB0 => some (.syCfg i y)
  | 0xB1 => some (.syAdd i y)
  | 0xB2 => some (.sySet i y)
  | 0xB3 => some (.syWait i y)
  | 0xB4 => some (.syPost i y)
  | 0xB5 => some (.syAcq i y)
  | 0xB6 => some (.syArrive i y)
  | 0xB7 => some (.syArrw i y)
  | 0xB8 => some (.syEvset i y)
  | 0xB9 => some (.syEvclr i y)
  | 0xBA => some (.syEvwait i y)
  | 0xBB => some (.syRd i y)
  | 0xBC => some (.syRmt i y)
  | _ => none

/-- The command of a stream that an instruction word stands for, by the class of its opcode (Table 3.4); none where the
word is not one that a sequencer executes (R63). -/
def decodeWord (i : At) (w : Word) : Option Instr :=
  if !legalWord w.toNat then none
  else
    let op := (w.extractLsb' 56 8).toNat
    if op < 0x30 then decodeS i w
    else if op < 0x60 then decodeV i w
    else if op < 0x90 then decodeTile i w
    else decodeUnit i w

/-- A word that is not executed: the stream stops in ILLEGAL with its program counter at it (R63). A legal word is
no case of this command and leaves all as it is. -/
def execIllegalInstruction (i : At) (word : Word) (s : State) : Out :=
  if legalWord word.toNat then .next s else issue i s fun _ => .illegal

end Sys2Proof.Machine
end

