-- ==== Sys2Proof/Machine/Scalar.lean ====
section
/-! DEFINITION. The S class (R72–R75, R433, R436). -/

namespace Sys2Proof.Machine

/-- An instruction that computes a scalar from two scalars: the result takes the sources' marks (R62). -/
def scalar2 (i : At) (sd sa sb : SReg) (op : Word → Word → Word) (s : State) : Out :=
  issueScalar i s fun s =>
    let a := (s.stream i).sreg sa
    let b := (s.stream i).sreg sb
    .done (s.putS i sd (op a.val b.val) (a.bz || b.bz))

/-- `nop`. -/
def execNopInstr (i : At) (s : State) : Out := issueScalar i s fun s => .done s

/-- `add`: sa + sb + IMM32 (Table 3.6). -/
def execAdd (i : At) (sd sa sb : SReg) (imm : Imm) (s : State) : Out :=
  scalar2 i sd sa sb (fun a b => a + b + sext imm) s

/-- `sub`: sa − sb + IMM32. -/
def execSub (i : At) (sd sa sb : SReg) (imm : Imm) (s : State) : Out :=
  scalar2 i sd sa sb (fun a b => a - b + sext imm) s

/-- `and`: sa and (sb | IMM32). -/
def execAnd (i : At) (sd sa sb : SReg) (imm : Imm) (s : State) : Out :=
  scalar2 i sd sa sb (fun a b => a &&& (b ||| sext imm)) s

/-- `or`: sa or (sb | IMM32). -/
def execOr (i : At) (sd sa sb : SReg) (imm : Imm) (s : State) : Out :=
  scalar2 i sd sa sb (fun a b => a ||| (b ||| sext imm)) s

/-- `xor`: sa exclusive-or (sb | IMM32). -/
def execXor (i : At) (sd sa sb : SReg) (imm : Imm) (s : State) : Out :=
  scalar2 i sd sa sb (fun a b => a ^^^ (b ||| sext imm)) s

/-- A shift count: (sb + IMM32) mod 64. -/
def shiftCount (b : Word) (imm : Imm) : Nat := (b + sext imm).toNat % 64

/-- `shl`. -/
def execShl (i : At) (sd sa sb : SReg) (imm : Imm) (s : State) : Out :=
  scalar2 i sd sa sb (fun a b => a <<< shiftCount b imm) s

/-- `shr`, logical. -/
def execShr (i : At) (sd sa sb : SReg) (imm : Imm) (s : State) : Out :=
  scalar2 i sd sa sb (fun a b => a >>> shiftCount b imm) s

/-- `sar`, arithmetic. -/
def execSar (i : At) (sd sa sb : SReg) (imm : Imm) (s : State) : Out :=
  scalar2 i sd sa sb (fun a b => a.sshiftRight (shiftCount b imm)) s

/-- `mul`: the low 64 bits of the product. -/
def execMul (i : At) (sd sa sb : SReg) (s : State) : Out :=
  scalar2 i sd sa sb (fun a b => a * b) s

/-- `li`: IMM32, sign-extended. -/
def execLi (i : At) (sd : SReg) (imm : Imm) (s : State) : Out :=
  issueScalar i s fun s => .done (s.putS i sd (sext imm) false)

/-- `lhi`: the low half of sa under IMM32. -/
def execLhi (i : At) (sd sa : SReg) (imm : Imm) (s : State) : Out :=
  issueScalar i s fun s =>
    let a := (s.stream i).sreg sa
    .done (s.putS i sd (imm ++ a.val.extractLsb' 0 32) a.bz)

/-- `cmp`: 1 if COND(sa, sb), else 0; under "always" neither is read (R74). -/
def execCmp (i : At) (cond : BitVec 3) (sd sa sb : SReg) (s : State) : Out :=
  issueScalar i s fun s =>
    let a := (s.stream i).sreg sa
    let b := (s.stream i).sreg sb
    match condScalar cond a.val b.val with
    | none => .illegal
    | some v => .done (s.putS i sd (if v then 1 else 0) (condReads cond && (a.bz || b.bz)))

/-- A branch to a target: it faults with TILE_BOUNDS where the target is no instruction address (R436). -/
def branchTo (target : Word) (s : State) : Eff :=
  if target.toNat % 8 = 0 ∧ target.toNat ≤ 0x1F_FFF8 then .goto s (target.setWidth 21)
  else .fault codeTileBounds (low48 target.toNat)

/-- `br`: PC + 8 × IMM32 if COND(sa, sb); a marked operand that is read bites (R341). -/
def execBr (i : At) (cond : BitVec 3) (sa sb : SReg) (imm : Imm) (s : State) : Out :=
  issueScalar i s fun s =>
    let a := (s.stream i).sreg sa
    let b := (s.stream i).sreg sb
    match condScalar cond a.val b.val with
    | none => .illegal
    | some v =>
      if condReads cond && (a.bz || b.bz) then .fault codeBlazeBite 0
      else if v then branchTo ((s.stream i).pc.setWidth 64 + 8 * sext imm) s
      else .done s

/-- `jr`: sa + 8 × IMM32; a marked sa bites. -/
def execJr (i : At) (sa : SReg) (imm : Imm) (s : State) : Out :=
  issueScalar i s fun s =>
    let a := (s.stream i).sreg sa
    if a.bz then .fault codeBlazeBite 0 else branchTo (a.val + 8 * sext imm) s

/-- `ld`: 64 bits at sb + IMM32 (R433). -/
def execLd (i : At) (sd sb : SReg) (space : Bool) (imm : Imm) (s : State) : Out :=
  issueScalar i s fun s =>
    let b := (s.stream i).sreg sb
    let a := (b.val + sext imm).toNat
    if b.bz then .fault codeBlazeBite 0
    else if !inSpace space a 8 then .fault codeTileBounds (low48 a)
    else ((s.meet i space).load i space a 8 false).bind false fun v s =>
      .done (s.putS i sd (BitVec.ofNat 64 (packBytes v.1)) v.2)

/-- `st`: sa to the 64 bits at sb + IMM32, with sa's mark (R84, R433). -/
def execSt (i : At) (sa sb : SReg) (space : Bool) (imm : Imm) (s : State) : Out :=
  issueScalar i s fun s =>
    let b := (s.stream i).sreg sb
    let v := (s.stream i).sreg sa
    let a := (b.val + sext imm).toNat
    if b.bz then .fault codeBlazeBite 0
    else if !inSpace space a 8 then .fault codeTileBounds (low48 a)
    else ((s.meet i space).storeTo i space a (bytesOf 8 v.val.toNat) v.bz false).bind true fun _ s => .done s

/-- `amode`: the stream's own ARITH bits (R46). -/
def execAmode (i : At) (imm : Imm) (s : State) : Out :=
  issueScalar i s fun s =>
    .done (s.modStream i fun t => { t with arith := arithWrite t.arith (imm.setWidth 5) })

/-- `halt`: the stream's instructions in flight retire and it enters IDLE, once its notices are acknowledged
(R349). -/
def execHalt (i : At) (s : State) : Out :=
  issueScalar i s fun s =>
    if s.notice i then .stall s .sync
    else .done ((s.retireStream i).modStream i fun t => { t with state := .idle })

end Sys2Proof.Machine
end

