-- ==== Sys2Proof/Machine/Dispatch.lean ====
section
/-! DEFINITION. What each command does: one arm for each constructor, each a call of its meaning. -/

namespace Sys2Proof.Machine

/-- The effect of a command on everything but the queue. -/
def exec (i : Instr) (s : State) : Host.Outcome State Fault Refusal :=
  match i with
  | .nopInstr x => Sys2Proof.Machine.execNopInstr x s
  | .add x sd sa sb imm => Sys2Proof.Machine.execAdd x sd sa sb imm s
  | .sub x sd sa sb imm => Sys2Proof.Machine.execSub x sd sa sb imm s
  | .and x sd sa sb imm => Sys2Proof.Machine.execAnd x sd sa sb imm s
  | .or x sd sa sb imm => Sys2Proof.Machine.execOr x sd sa sb imm s
  | .xor x sd sa sb imm => Sys2Proof.Machine.execXor x sd sa sb imm s
  | .shl x sd sa sb imm => Sys2Proof.Machine.execShl x sd sa sb imm s
  | .shr x sd sa sb imm => Sys2Proof.Machine.execShr x sd sa sb imm s
  | .sar x sd sa sb imm => Sys2Proof.Machine.execSar x sd sa sb imm s
  | .mul x sd sa sb => Sys2Proof.Machine.execMul x sd sa sb s
  | .li x sd imm => Sys2Proof.Machine.execLi x sd imm s
  | .lhi x sd sa imm => Sys2Proof.Machine.execLhi x sd sa imm s
  | .cmp x cond sd sa sb => Sys2Proof.Machine.execCmp x cond sd sa sb s
  | .br x cond sa sb imm => Sys2Proof.Machine.execBr x cond sa sb imm s
  | .jr x sa imm => Sys2Proof.Machine.execJr x sa imm s
  | .ld x sd sb space imm => Sys2Proof.Machine.execLd x sd sb space imm s
  | .st x sa sb space imm => Sys2Proof.Machine.execSt x sa sb space imm s
  | .amode x imm => Sys2Proof.Machine.execAmode x imm s
  | .halt x => Sys2Proof.Machine.execHalt x s
  | .illegalInstruction x word => Sys2Proof.Machine.execIllegalInstruction x word s
  | .vadd x o => Sys2Proof.Machine.execVadd x o s
  | .vsub x o => Sys2Proof.Machine.execVsub x o s
  | .vmul x o => Sys2Proof.Machine.execVmul x o s
  | .vfma x o => Sys2Proof.Machine.execVfma x o s
  | .vmax x o => Sys2Proof.Machine.execVmax x o s
  | .vmin x o => Sys2Proof.Machine.execVmin x o s
  | .vcmp x o pd cond => Sys2Proof.Machine.execVcmp x o pd cond s
  | .vcvt x o dfmt part => Sys2Proof.Machine.execVcvt x o dfmt part s
  | .vdiv x o => Sys2Proof.Machine.execVdiv x o s
  | .vsqrt x o => Sys2Proof.Machine.execVsqrt x o s
  | .vrcp x o => Sys2Proof.Machine.execVrcp x o s
  | .vrsqrt x o => Sys2Proof.Machine.execVrsqrt x o s
  | .vexp x o => Sys2Proof.Machine.execVexp x o s
  | .vlog x o => Sys2Proof.Machine.execVlog x o s
  | .vsel x o => Sys2Proof.Machine.execVsel x o s
  | .vredsum x o => Sys2Proof.Machine.execVredsum x o s
  | .vld x o sBase space off => Sys2Proof.Machine.execVld x o sBase space off s
  | .vst x o sBase space off => Sys2Proof.Machine.execVst x o sBase space off s
  | .vmovs x o sd lane => Sys2Proof.Machine.execVmovs x o sd lane s
  | .vbcast x o sa => Sys2Proof.Machine.execVbcast x o sa s
  | .tcfg x tile rowsM1 lenM1 fmt clear => Sys2Proof.Machine.execTcfg x tile rowsM1 lenM1 fmt clear s
  | .tcfgHoldRelease core stream => Sys2Proof.Machine.execTcfgHoldRelease core stream s
  | .tld x o => Sys2Proof.Machine.execTld x o s
  | .tst x o => Sys2Proof.Machine.execTst x o s
  | .tvrd x tile vreg sRow half => Sys2Proof.Machine.execTvrd x tile vreg sRow half s
  | .tvwr x tile vreg sRow half => Sys2Proof.Machine.execTvwr x tile vreg sRow half s
  | .mma x o => Sys2Proof.Machine.execMma x o s
  | .mmaz x o => Sys2Proof.Machine.execMmaz x o s
  | .mmaRetire core => Sys2Proof.Machine.execMmaRetire core s
  | .accz x acc => Sys2Proof.Machine.execAccz x acc s
  | .acct x o => Sys2Proof.Machine.execAcct x o s
  | .accrd x vd sIdx acc => Sys2Proof.Machine.execAccrd x vd sIdx acc s
  | .accwr x va sIdx acc => Sys2Proof.Machine.execAccwr x va sIdx acc s
  | .accadd x va sIdx acc => Sys2Proof.Machine.execAccadd x va sIdx acc s
  | .fnb x o => Sys2Proof.Machine.execFnb x o s
  | .fsb x o => Sys2Proof.Machine.execFsb x o s
  | .gset x sGrp sVal word imm => Sys2Proof.Machine.execGset x sGrp sVal word imm s
  | .upd x sShard sBlk sSc countM1 => Sys2Proof.Machine.execUpd x sShard sBlk sSc countM1 s
  | .updTally x sShard sCur sSc sPart countM1 => Sys2Proof.Machine.execUpdTally x sShard sCur sSc sPart countM1 s
  | .tallyAdd x sShard sRow => Sys2Proof.Machine.execTallyAdd x sShard sRow s
  | .tallyAddv x sShard va pred pneg => Sys2Proof.Machine.execTallyAddv x sShard va pred pneg s
  | .tallyClr x sGrp => Sys2Proof.Machine.execTallyClr x sGrp s
  | .updCommit x sd sShard => Sys2Proof.Machine.execUpdCommit x sd sShard s
  | .tallyMarkArrival n => Sys2Proof.Machine.execTallyMarkArrival n s
  | .ncflush x sa sb => Sys2Proof.Machine.execNcflush x sa sb s
  | .ncinv x sa sb => Sys2Proof.Machine.execNcinv x sa sb s
  | .ncfi x sa sb => Sys2Proof.Machine.execNcfi x sa sb s
  | .mfence x => Sys2Proof.Machine.execMfence x s
  | .xcinv x sa => Sys2Proof.Machine.execXcinv x sa s
  | .dma x sDesc => Sys2Proof.Machine.execDma x sDesc s
  | .dmaw x => Sys2Proof.Machine.execDmaw x s
  | .flm x sReq eng => Sys2Proof.Machine.execFlm x sReq eng s
  | .dacc x va sAddr sMeta sSig bf16 => Sys2Proof.Machine.execDacc x va sAddr sMeta sSig bf16 s
  | .syCfg x o => Sys2Proof.Machine.execSyCfg x o s
  | .syAdd x o => Sys2Proof.Machine.execSyAdd x o s
  | .sySet x o => Sys2Proof.Machine.execSySet x o s
  | .syWait x o => Sys2Proof.Machine.execSyWait x o s
  | .syPost x o => Sys2Proof.Machine.execSyPost x o s
  | .syAcq x o => Sys2Proof.Machine.execSyAcq x o s
  | .syArrive x o => Sys2Proof.Machine.execSyArrive x o s
  | .syArrw x o => Sys2Proof.Machine.execSyArrw x o s
  | .syEvset x o => Sys2Proof.Machine.execSyEvset x o s
  | .syEvclr x o => Sys2Proof.Machine.execSyEvclr x o s
  | .syEvwait x o => Sys2Proof.Machine.execSyEvwait x o s
  | .syRd x o => Sys2Proof.Machine.execSyRd x o s
  | .syRmt x o => Sys2Proof.Machine.execSyRmt x o s
  | .syncOpArrival n => Sys2Proof.Machine.execSyncOpArrival n s
  | .syncWake n => Sys2Proof.Machine.execSyncWake n s
  | .syncCancel n => Sys2Proof.Machine.execSyncCancel n s
  | .seqStart core stream => Sys2Proof.Machine.execSeqStart core stream s
  | .seqPause core stream value => Sys2Proof.Machine.execSeqPause core stream value s
  | .servicePauseTakeEffect core stream => Sys2Proof.Machine.execServicePauseTakeEffect core stream s
  | .seqResume core stream => Sys2Proof.Machine.execSeqResume core stream s
  | .seqAbort core stream => Sys2Proof.Machine.execSeqAbort core stream s
  | .externalFaultArrival core stream code addr => Sys2Proof.Machine.execExternalFaultArrival core stream code addr s
  | .translationWalk core unit va write => Sys2Proof.Machine.execTranslationWalk core unit va write s
  | .nearCacheFill x va write => Sys2Proof.Machine.execNearCacheFill x va write s
  | .nearCacheWriteback core line => Sys2Proof.Machine.execNearCacheWriteback core line s
  | .runAheadPrefetch core va lines fromTld inPage => Sys2Proof.Machine.execRunAheadPrefetch core va lines fromTld inPage s
  | .ncFlushAll core => Sys2Proof.Machine.execNcFlushAll core s
  | .ncInvAll core => Sys2Proof.Machine.execNcInvAll core s
  | .xlateInvGo core addr => Sys2Proof.Machine.execXlateInvGo core addr s
  | .vcapClearAll core => Sys2Proof.Machine.execVcapClearAll core s
  | .ilvPatternWrite core ctrl value => Sys2Proof.Machine.execIlvPatternWrite core ctrl value s
  | .rotationStart core => Sys2Proof.Machine.execRotationStart core s
  | .slotEnd core => Sys2Proof.Machine.execSlotEnd core s
  | .shimHorizonExpiry core => Sys2Proof.Machine.execShimHorizonExpiry core s
  | .rampPeriodEnd core ready => Sys2Proof.Machine.execRampPeriodEnd core ready s
  | .shimCtrlWrite core value => Sys2Proof.Machine.execShimCtrlWrite core value s
  | .clockChange core mhz => Sys2Proof.Machine.execClockChange core mhz s
  | .flumeRequestStart eng t => Sys2Proof.Machine.execFlumeRequestStart eng t s
  | .flumeUnitRead eng t => Sys2Proof.Machine.execFlumeUnitRead eng t s
  | .flumeDeliveryArrival n row => Sys2Proof.Machine.execFlumeDeliveryArrival n row s
  | .slotRecord n => Sys2Proof.Machine.execSlotRecord n s
  | .flumeQueueSkip eng t => Sys2Proof.Machine.execFlumeQueueSkip eng t s
  | .flumeQueueClear eng t => Sys2Proof.Machine.execFlumeQueueClear eng t s
  | .dmaDescriptorStart core => Sys2Proof.Machine.execDmaDescriptorStart core s
  | .dmaDescriptorComplete core k rows => Sys2Proof.Machine.execDmaDescriptorComplete core k rows s
  | .dmaResume core => Sys2Proof.Machine.execDmaResume core s
  | .dmaAbort core => Sys2Proof.Machine.execDmaAbort core s
  | .accDeliveryArrival n countUe => Sys2Proof.Machine.execAccDeliveryArrival n countUe s
  | .daccAckArrival n => Sys2Proof.Machine.execDaccAckArrival n s
  | .boomArrival site n => Sys2Proof.Machine.execBoomArrival site n s
  | .boomHoldExpiry site ctx => Sys2Proof.Machine.execBoomHoldExpiry site ctx s
  | .boomContextLeave site ctx => Sys2Proof.Machine.execBoomContextLeave site ctx s
  | .dataPacketHop node out pkt err => Sys2Proof.Machine.execDataPacketHop node out pkt err s
  | .controlMessageHop node out msg err => Sys2Proof.Machine.execControlMessageHop node out msg err s
  | .memLineRead pa by_ noise countUe => Sys2Proof.Machine.execMemLineRead pa by_ noise countUe s
  | .memLineWrite pa by_ data blaze noise => Sys2Proof.Machine.execMemLineWrite pa by_ data blaze noise s
  | .stackFlitReceive stack flit => Sys2Proof.Machine.execStackFlitReceive stack flit s
  | .stackLinkRetrainDone stack ok => Sys2Proof.Machine.execStackLinkRetrainDone stack ok s
  | .stackRetrain stack => Sys2Proof.Machine.execStackRetrain stack s
  | .refresh stack => Sys2Proof.Machine.execRefresh stack s
  | .scarfAddGo stack value => Sys2Proof.Machine.execScarfAddGo stack value s
  | .scarfCopyComplete stack => Sys2Proof.Machine.execScarfCopyComplete stack s
  | .cruiseStart stack => Sys2Proof.Machine.execCruiseStart stack s
  | .cruiseAbort stack => Sys2Proof.Machine.execCruiseAbort stack s
  | .cruiseLine stack noise => Sys2Proof.Machine.execCruiseLine stack noise s
  | .accWinWrite stack w value => Sys2Proof.Machine.execAccWinWrite stack w value s
  | .accClearGo stack value => Sys2Proof.Machine.execAccClearGo stack value s
  | .accClearDone stack => Sys2Proof.Machine.execAccClearDone stack s
  | .fabricFrameReceive port frame => Sys2Proof.Machine.execFabricFrameReceive port frame s
  | .syncRecord n => Sys2Proof.Machine.execSyncRecord n s
  | .grantRecord n => Sys2Proof.Machine.execGrantRecord n s
  | .abortRecord n => Sys2Proof.Machine.execAbortRecord n s
  | .heartbeatRecord n => Sys2Proof.Machine.execHeartbeatRecord n s
  | .requestRecord n => Sys2Proof.Machine.execRequestRecord n s
  | .putOpenRecord n => Sys2Proof.Machine.execPutOpenRecord n s
  | .dataRecord n => Sys2Proof.Machine.execDataRecord n s
  | .fabricAckTimer peer route bulk => Sys2Proof.Machine.execFabricAckTimer peer route bulk s
  | .rtoExpiry peer route bulk => Sys2Proof.Machine.execRtoExpiry peer route bulk s
  | .heartbeatPeriod => Sys2Proof.Machine.execHeartbeatPeriod s
  | .peerSilenceExpiry peer => Sys2Proof.Machine.execPeerSilenceExpiry peer s
  | .portDownExpiry port => Sys2Proof.Machine.execPortDownExpiry port s
  | .pcsLockLoss port => Sys2Proof.Machine.execPcsLockLoss port s
  | .portLinkUp port rate400 verified => Sys2Proof.Machine.execPortLinkUp port rate400 verified s
  | .portCtrlWrite port value => Sys2Proof.Machine.execPortCtrlWrite port value s
  | .peerReviveGo value => Sys2Proof.Machine.execPeerReviveGo value s
  | .collectiveStart e t => Sys2Proof.Machine.execCollectiveStart e t s
  | .collectiveComplete e t slot => Sys2Proof.Machine.execCollectiveComplete e t slot s
  | .ceQprodWrite e t value => Sys2Proof.Machine.execCeQprodWrite e t value s
  | .ceQueueSkip e t => Sys2Proof.Machine.execCeQueueSkip e t s
  | .ceQueueClear e t => Sys2Proof.Machine.execCeQueueClear e t s
  | .sortYardMemberComplete e t slot => Sys2Proof.Machine.execSortYardMemberComplete e t slot s
  | .arpRequest port targetIp senderMac senderIp => Sys2Proof.Machine.execArpRequest port targetIp senderMac senderIp s
  | .neighbourSolicitation port targetIp senderMac senderIp => Sys2Proof.Machine.execNeighbourSolicitation port targetIp senderMac senderIp s
  | .open d => Sys2Proof.Machine.execOpen d s
  | .command d => Sys2Proof.Machine.execCommand d s
  | .ack d => Sys2Proof.Machine.execAck d s
  | .read d => Sys2Proof.Machine.execRead d s
  | .close d => Sys2Proof.Machine.execClose d s
  | .commandDispatch session => Sys2Proof.Machine.execCommandDispatch session s
  | .nop session seq => Sys2Proof.Machine.execNop session seq s
  | .cfgRead session seq => Sys2Proof.Machine.execCfgRead session seq s
  | .cfgWrite session seq => Sys2Proof.Machine.execCfgWrite session seq s
  | .memWrite session seq => Sys2Proof.Machine.execMemWrite session seq s
  | .memRead session seq => Sys2Proof.Machine.execMemRead session seq s
  | .run session seq => Sys2Proof.Machine.execRun session seq s
  | .hrelease session seq => Sys2Proof.Machine.execHrelease session seq s
  | .faultBind session seq => Sys2Proof.Machine.execFaultBind session seq s
  | .semAcquire session seq => Sys2Proof.Machine.execSemAcquire session seq s
  | .semRenew session seq => Sys2Proof.Machine.execSemRenew session seq s
  | .semRelease session seq => Sys2Proof.Machine.execSemRelease session seq s
  | .commandCompletion session seq => Sys2Proof.Machine.execCommandCompletion session seq s
  | .eventTransmit session => Sys2Proof.Machine.execEventTransmit session s
  | .eventRtoExpiry session => Sys2Proof.Machine.execEventRtoExpiry session s
  | .sessionSilenceExpiry session => Sys2Proof.Machine.execSessionSilenceExpiry session s
  | .leaseLapse => Sys2Proof.Machine.execLeaseLapse s
  | .dispatchRelease => Sys2Proof.Machine.execDispatchRelease s
  | .journalResync copyB => Sys2Proof.Machine.execJournalResync copyB s
  | .tenValidWrite t value => Sys2Proof.Machine.execTenValidWrite t value s
  | .tenancyReset t => Sys2Proof.Machine.execTenancyReset t s
  | .tenancyResetDone t => Sys2Proof.Machine.execTenancyResetDone t s
  | .phaseEnd => Sys2Proof.Machine.execPhaseEnd s
  | .coreSwitch core => Sys2Proof.Machine.execCoreSwitch core s
  | .coreSwitchDone core => Sys2Proof.Machine.execCoreSwitchDone core s
  | .nfNotice src => Sys2Proof.Machine.execNfNotice src s
  | .lossSample t value => Sys2Proof.Machine.execLossSample t value s
  | .lossClear t => Sys2Proof.Machine.execLossClear t s
  | .lookoutRecompute => Sys2Proof.Machine.execLookoutRecompute s
  | .lookoutDecay => Sys2Proof.Machine.execLookoutDecay s
  | .coldRstNRise w => Sys2Proof.Machine.execColdRstNRise w s
  | .warmRstNRise w => Sys2Proof.Machine.execWarmRstNRise w s
  | .resetCtrlWarm w => Sys2Proof.Machine.execResetCtrlWarm w s
  | .resetCtrlCold w => Sys2Proof.Machine.execResetCtrlCold w s
  | .coreResetGo core => Sys2Proof.Machine.execCoreResetGo core s
  | .flashRead session seq => Sys2Proof.Machine.execFlashRead session seq s
  | .flashErase session seq => Sys2Proof.Machine.execFlashErase session seq s
  | .flashWrite session seq => Sys2Proof.Machine.execFlashWrite session seq s
  | .secAttest session seq => Sys2Proof.Machine.execSecAttest session seq s
  | .svnAdvance session seq => Sys2Proof.Machine.execSvnAdvance session seq s
  | .warmReset session seq w => Sys2Proof.Machine.execWarmReset session seq w s
  | .coreReset session seq => Sys2Proof.Machine.execCoreReset session seq s
  | .coldReset session seq w => Sys2Proof.Machine.execColdReset session seq w s
  | .keyEnrol session seq => Sys2Proof.Machine.execKeyEnrol session seq s
  | .keyRevoke session seq => Sys2Proof.Machine.execKeyRevoke session seq s
  | .supplyOutOfWindow rail w => Sys2Proof.Machine.execSupplyOutOfWindow rail w s
  | .sensorSample v => Sys2Proof.Machine.execSensorSample v s
  | .powerLimitStep v => Sys2Proof.Machine.execPowerLimitStep v s
  | .regulatorAck => Sys2Proof.Machine.execRegulatorAck s
  | .regulatorAckTimeout => Sys2Proof.Machine.execRegulatorAckTimeout s
  | .pwrCtrlWrite limit value => Sys2Proof.Machine.execPwrCtrlWrite limit value s
  | .i3cPrivateWrite bytes => Sys2Proof.Machine.execI3cPrivateWrite bytes s
  | .i3cPrivateRead n => Sys2Proof.Machine.execI3cPrivateRead n s
  | .powerCapWrite value => Sys2Proof.Machine.execPowerCapWrite value s
  | .emergencyWrite value => Sys2Proof.Machine.execEmergencyWrite value s
  | .i3cAddressAssign addr byStatic => Sys2Proof.Machine.execI3cAddressAssign addr byStatic s
  | .utilSelWrite value => Sys2Proof.Machine.execUtilSelWrite value s
  | .shardPolicyCountClr t => Sys2Proof.Machine.execShardPolicyCountClr t s
  | .syncObjectWordWrite session obj word1 value => Sys2Proof.Machine.execSyncObjectWordWrite session obj word1 value s
  | .coldRstNAssert => Sys2Proof.Machine.execColdRstNAssert s
  | .coreResetDone core pass => Sys2Proof.Machine.execCoreResetDone core pass s
  | .journalResyncDone copyB => Sys2Proof.Machine.execJournalResyncDone copyB s
  | .boomContextStorageError site ctx => Sys2Proof.Machine.execBoomContextStorageError site ctx s

end Sys2Proof.Machine
end

