-- ==== Sys2Proof/Machine/Tick.lean ====
section
/-! DEFINITION. What passes while no command waits: the island counters count, the cores' cycles pass, the mesh's frames
begin anew, fault records come to the host block, express records leave, and write-backs of whole near caches that wait go
on (R94, R238, R389, R390, R393; log entry 7). -/

namespace Sys2Proof.Machine

/-- The counters of the islands but the ring and the cores, by offset (Table 17.1). -/
def islandCounters : List Nat :=
  ((List.range 8).map fun i => memBase i + 0x38) ++ [hostBase + 0x120, hostBase + 0x128] ++
  ((List.range 12).map fun p => fabBase + 0x200 + 8 * p)

/-- Cycles of one core at a tick. -/
def State.coreTick (s : State) (k c : Nat) : State :=
  (s.corePass c (Config.advance (coreBase c + 0xF00) k) none false).ncSettle c

/-- A tick: the ring counter counts one, and every other island as its clock has it. While every island is stopped none
counts (R424, R427). -/
def State.tick (s : State) : State :=
  if s.stopped then s
  else
    let k := s.free
    let s := (s.bump 0x700 1).draw 1
    let s := islandCounters.foldl (fun s off => s.bump off (Config.advance off k)) s
    let s := (List.range s.coreCount).foldl (fun s c => s.coreTick k c) s
    ({ s with noc := { s.noc with frames := [] } } : State).takeFaults.sendWaiting

end Sys2Proof.Machine
end

