-- ==== Sys2Proof/WellFormed.lean ====
section
/-! DEFINITION. Well-formed commands: the places that a command names exist, and what it brings from outside has the
shape that the manual gives it. A field of an instruction's encoding takes every value of its width, reserved ones
included, since the manual says what those do (R63). -/

namespace Sys2Proof

/-- A stream of a core: logical cores are 0 to 639 (R25). -/
def At.wf (i : At) : Bool := decide (i.core < 640)

/-- A node: a site of the mesh or a stop of the ring (R237, R240). -/
def Node.wf : Node → Bool
  | .site n => decide (n < 640)
  | .stop n => decide (n < 24)

/-- An output: at most five spurs at a node. -/
def OutPort.wf : OutPort → Bool
  | .local => true
  | .north => true
  | .east => true
  | .south => true
  | .west => true
  | .spur k => decide (k < 5)
  | .ringCw => true
  | .ringCcw => true
  | .block => true

/-- Who asks a stack for a line. -/
def Issuer.wf : Issuer → Bool
  | .core i va => i.wf && decide (va < 2 ^ 48)
  | .dma c => decide (c < 640)
  | .session n => decide (n < 64)
  | .collective e t => decide (e < 4) && decide (t < 4)
  | .internal => true

/-- The source of a non-finite notice. -/
def NfSource.wf : NfSource → Bool
  | .stream i => i.wf
  | .accEngine k => decide (k < 8)
  | .collEngine e t => decide (e < 4) && decide (t < 4)

/-- Symbol errors: 72 symbols, none of them unchanged (R180). -/
def symErrsOk (es : SymErrs) : Bool := es.all fun p => decide (p.1 < 72) && decide (p.2 ≠ 0)

/-- A datagram at a host port (R302). -/
def Datagram.wf (d : Datagram) : Bool :=
  decide (d.port < 2) && decide (d.srcMac < 2 ^ 48) && decide (d.srcIp < 2 ^ 128) && decide (d.dstIp < 2 ^ 128) &&
  decide (d.srcUdp < 2 ^ 16) && decide (d.dstUdp < 2 ^ 16) && decide (d.vlan.getD 0 < 4096) && decide (d.udpSum < 2 ^ 16) &&
  decide (d.bytes.length < 2 ^ 16)

/-- What the physical part shows at a boot: stacks and cores that exist. -/
def BootWorld.wf (w : BootWorld) : Bool := w.trainFail.all (· < 8) && w.coreFail.all (· < 640)

/-- A sampling of the sensors (R397). -/
def Samples.wf (v : Samples) : Bool :=
  v.sites.all (fun p => decide (p.1 < 640) && decide (p.2 < 256)) &&
  v.stops.all (fun p => decide (p.1 < 24) && decide (p.2 < 256)) &&
  v.stackTemps.all (fun p => decide (p.1 < 8) && decide (p.2 < 256)) &&
  decide (v.supplyMv < 1024) && decide (v.power8 < 2 ^ 14)

/-- A well-formed command. -/
def Instr.wf (c : Instr) : Bool :=
  match c with
  | .nopInstr i => i.wf
  | .add i _ _ _ _ => i.wf
  | .sub i _ _ _ _ => i.wf
  | .and i _ _ _ _ => i.wf
  | .or i _ _ _ _ => i.wf
  | .xor i _ _ _ _ => i.wf
  | .shl i _ _ _ _ => i.wf
  | .shr i _ _ _ _ => i.wf
  | .sar i _ _ _ _ => i.wf
  | .mul i _ _ _ => i.wf
  | .li i _ _ => i.wf
  | .lhi i _ _ _ => i.wf
  | .cmp i _ _ _ _ => i.wf
  | .br i _ _ _ _ => i.wf
  | .jr i _ _ => i.wf
  | .ld i _ _ _ _ => i.wf
  | .st i _ _ _ _ => i.wf
  | .amode i _ => i.wf
  | .halt i => i.wf
  | .illegalInstruction i _ => i.wf
  | .vadd i _ => i.wf
  | .vsub i _ => i.wf
  | .vmul i _ => i.wf
  | .vfma i _ => i.wf
  | .vmax i _ => i.wf
  | .vmin i _ => i.wf
  | .vcmp i _ _ _ => i.wf
  | .vcvt i _ _ _ => i.wf
  | .vdiv i _ => i.wf
  | .vsqrt i _ => i.wf
  | .vrcp i _ => i.wf
  | .vrsqrt i _ => i.wf
  | .vexp i _ => i.wf
  | .vlog i _ => i.wf
  | .vsel i _ => i.wf
  | .vredsum i _ => i.wf
  | .vld i _ _ _ _ => i.wf
  | .vst i _ _ _ _ => i.wf
  | .vmovs i _ _ _ => i.wf
  | .vbcast i _ _ => i.wf
  | .tcfg i _ _ _ _ _ => i.wf
  | .tcfgHoldRelease core _ => decide (core < 640)
  | .tld i _ => i.wf
  | .tst i _ => i.wf
  | .tvrd i _ _ _ _ => i.wf
  | .tvwr i _ _ _ _ => i.wf
  | .mma i _ => i.wf
  | .mmaz i _ => i.wf
  | .mmaRetire core => decide (core < 640)
  | .accz i _ => i.wf
  | .acct i _ => i.wf
  | .accrd i _ _ _ => i.wf
  | .accwr i _ _ _ => i.wf
  | .accadd i _ _ _ => i.wf
  | .fnb i _ => i.wf
  | .fsb i _ => i.wf
  | .gset i _ _ _ _ => i.wf
  | .upd i _ _ _ _ => i.wf
  | .updTally i _ _ _ _ _ => i.wf
  | .tallyAdd i _ _ => i.wf
  | .tallyAddv i _ _ _ _ => i.wf
  | .tallyClr i _ => i.wf
  | .updCommit i _ _ => i.wf
  | .tallyMarkArrival _ => true
  | .ncflush i _ _ => i.wf
  | .ncinv i _ _ => i.wf
  | .ncfi i _ _ => i.wf
  | .mfence i => i.wf
  | .xcinv i _ => i.wf
  | .dma i _ => i.wf
  | .dmaw i => i.wf
  | .flm i _ _ => i.wf
  | .dacc i _ _ _ _ _ => i.wf
  | .syCfg i _ => i.wf
  | .syAdd i _ => i.wf
  | .sySet i _ => i.wf
  | .syWait i _ => i.wf
  | .syPost i _ => i.wf
  | .syAcq i _ => i.wf
  | .syArrive i _ => i.wf
  | .syArrw i _ => i.wf
  | .syEvset i _ => i.wf
  | .syEvclr i _ => i.wf
  | .syEvwait i _ => i.wf
  | .syRd i _ => i.wf
  | .syRmt i _ => i.wf
  | .syncOpArrival _ => true
  | .syncWake _ => true
  | .syncCancel _ => true
  | .seqStart core _ => decide (core < 640)
  | .seqPause core _ _ => decide (core < 640)
  | .servicePauseTakeEffect core _ => decide (core < 640)
  | .seqResume core _ => decide (core < 640)
  | .seqAbort core _ => decide (core < 640)
  | .externalFaultArrival core _ code _ => decide (core < 640) &&
      [0x01, 0x02, 0x03, 0x10, 0x11, 0x20, 0x21, 0x30, 0x31, 0x40, 0x50, 0x60, 0x61].contains code.toNat
  | .translationWalk core unit va _ => decide (core < 640) && decide (unit < 4) && decide (va < 2 ^ 48)
  | .nearCacheFill i va _ => i.wf && decide (va < 2 ^ 48)
  | .nearCacheWriteback core _ => decide (core < 640)
  | .runAheadPrefetch core va _ _ _ => decide (core < 640) && decide (va < 2 ^ 48)
  | .ncFlushAll core => decide (core < 640)
  | .ncInvAll core => decide (core < 640)
  | .xlateInvGo core _ => decide (core < 640)
  | .vcapClearAll core => decide (core < 640)
  | .ilvPatternWrite core _ _ => decide (core < 640)
  | .rotationStart core => decide (core < 640)
  | .slotEnd core => decide (core < 640)
  | .shimHorizonExpiry core => decide (core < 640)
  | .rampPeriodEnd core _ => decide (core < 640)
  | .shimCtrlWrite core _ => decide (core < 640)
  | .clockChange core mhz => decide (core < 640) && decide (800 ≤ mhz) && decide (mhz ≤ 1800)
  | .flumeRequestStart eng t => decide (eng < 16) && decide (t < 4)
  | .flumeUnitRead eng t => decide (eng < 16) && decide (t < 4)
  | .flumeDeliveryArrival _ _ => true
  | .slotRecord _ => true
  | .flumeQueueSkip eng t => decide (eng < 16) && decide (t < 4)
  | .flumeQueueClear eng t => decide (eng < 16) && decide (t < 4)
  | .dmaDescriptorStart core => decide (core < 640)
  | .dmaDescriptorComplete core _ _ => decide (core < 640)
  | .dmaResume core => decide (core < 640)
  | .dmaAbort core => decide (core < 640)
  | .accDeliveryArrival _ _ => true
  | .daccAckArrival _ => true
  | .boomArrival site _ => decide (site < 640)
  | .boomHoldExpiry site ctx => decide (site < 640) && decide (ctx < 64)
  | .boomContextLeave site ctx => decide (site < 640) && decide (ctx < 64)
  | .dataPacketHop node out _ _ => node.wf && out.wf
  | .controlMessageHop node out _ _ => node.wf && out.wf
  | .memLineRead pa by_ noise _ => decide (pa < 2 ^ 39) && by_.wf && symErrsOk noise.errs
  | .memLineWrite pa by_ data _ noise =>
    decide (pa < 2 ^ 39) && by_.wf && decide (pa % 64 + data.length ≤ 64) && symErrsOk noise.errs
  | .stackFlitReceive stack flit => decide (stack < 8) && decide (flit.length = 72)
  | .stackLinkRetrainDone stack _ => decide (stack < 8)
  | .stackRetrain stack => decide (stack < 8)
  | .refresh stack => decide (stack < 8)
  | .scarfAddGo stack _ => decide (stack < 8)
  | .scarfCopyComplete stack => decide (stack < 8)
  | .cruiseStart stack => decide (stack < 8)
  | .cruiseAbort stack => decide (stack < 8)
  | .cruiseLine stack noise => decide (stack < 8) && symErrsOk noise.errs
  | .accWinWrite stack w _ => decide (stack < 8) && decide (w < 8)
  | .accClearGo stack _ => decide (stack < 8)
  | .accClearDone stack => decide (stack < 8)
  | .fabricFrameReceive port frame => decide (port < 12) && decide (frame.bytes.length ≤ 8742)
  | .syncRecord _ => true
  | .grantRecord _ => true
  | .abortRecord _ => true
  | .heartbeatRecord _ => true
  | .requestRecord _ => true
  | .putOpenRecord _ => true
  | .dataRecord _ => true
  | .fabricAckTimer peer route _ => decide (peer < 8192) && decide (route < 2)
  | .rtoExpiry peer route _ => decide (peer < 8192) && decide (route < 2)
  | .heartbeatPeriod => true
  | .peerSilenceExpiry peer => decide (peer < 8192)
  | .portDownExpiry port => decide (port < 14)
  | .pcsLockLoss port => decide (port < 14)
  | .portLinkUp port _ _ => decide (port < 14)
  | .portCtrlWrite port _ => decide (port < 14)
  | .peerReviveGo _ => true
  | .collectiveStart e t => decide (e < 4) && decide (t < 4)
  | .collectiveComplete e t slot => decide (e < 4) && decide (t < 4) && decide (slot < 64)
  | .ceQprodWrite e t _ => decide (e < 4) && decide (t < 4)
  | .ceQueueSkip e t => decide (e < 4) && decide (t < 4)
  | .ceQueueClear e t => decide (e < 4) && decide (t < 4)
  | .sortYardMemberComplete e t slot => decide (e < 4) && decide (t < 4) && decide (slot < 64)
  | .arpRequest port targetIp senderMac senderIp =>
    decide (port < 2) && decide (targetIp < 2 ^ 32) && decide (senderMac < 2 ^ 48) && decide (senderIp < 2 ^ 32)
  | .neighbourSolicitation port targetIp senderMac senderIp =>
    decide (port < 2) && decide (targetIp < 2 ^ 128) && decide (senderMac < 2 ^ 48) && decide (senderIp < 2 ^ 128)
  | .open d => d.wf
  | .command d => d.wf
  | .ack d => d.wf
  | .read d => d.wf
  | .close d => d.wf
  | .commandDispatch session => decide (session < 64)
  | .nop session seq => decide (session < 64) && decide (seq < 2 ^ 48)
  | .cfgRead session seq => decide (session < 64) && decide (seq < 2 ^ 48)
  | .cfgWrite session seq => decide (session < 64) && decide (seq < 2 ^ 48)
  | .memWrite session seq => decide (session < 64) && decide (seq < 2 ^ 48)
  | .memRead session seq => decide (session < 64) && decide (seq < 2 ^ 48)
  | .run session seq => decide (session < 64) && decide (seq < 2 ^ 48)
  | .hrelease session seq => decide (session < 64) && decide (seq < 2 ^ 48)
  | .faultBind session seq => decide (session < 64) && decide (seq < 2 ^ 48)
  | .semAcquire session seq => decide (session < 64) && decide (seq < 2 ^ 48)
  | .semRenew session seq => decide (session < 64) && decide (seq < 2 ^ 48)
  | .semRelease session seq => decide (session < 64) && decide (seq < 2 ^ 48)
  | .commandCompletion session seq => decide (session < 64) && decide (seq < 2 ^ 48)
  | .eventTransmit session => decide (session < 64)
  | .eventRtoExpiry session => decide (session < 64)
  | .sessionSilenceExpiry session => decide (session < 64)
  | .leaseLapse => true
  | .dispatchRelease => true
  | .journalResync _ => true
  | .tenValidWrite t _ => decide (t < 4)
  | .tenancyReset t => decide (t < 4)
  | .tenancyResetDone t => decide (t < 4)
  | .phaseEnd => true
  | .coreSwitch core => decide (core < 640)
  | .coreSwitchDone core => decide (core < 640)
  | .nfNotice src => src.wf
  | .lossSample t _ => decide (t < 4)
  | .lossClear t => decide (t < 4)
  | .lookoutRecompute => true
  | .lookoutDecay => true
  | .coldRstNRise w => w.wf
  | .warmRstNRise w => w.wf
  | .resetCtrlWarm w => w.wf
  | .resetCtrlCold w => w.wf
  | .coreResetGo core => decide (core < 640)
  | .flashRead session seq => decide (session < 64) && decide (seq < 2 ^ 48)
  | .flashErase session seq => decide (session < 64) && decide (seq < 2 ^ 48)
  | .flashWrite session seq => decide (session < 64) && decide (seq < 2 ^ 48)
  | .secAttest session seq => decide (session < 64) && decide (seq < 2 ^ 48)
  | .svnAdvance session seq => decide (session < 64) && decide (seq < 2 ^ 48)
  | .warmReset session seq w => decide (session < 64) && decide (seq < 2 ^ 48) && w.wf
  | .coreReset session seq => decide (session < 64) && decide (seq < 2 ^ 48)
  | .coldReset session seq w => decide (session < 64) && decide (seq < 2 ^ 48) && w.wf
  | .keyEnrol session seq => decide (session < 64) && decide (seq < 2 ^ 48)
  | .keyRevoke session seq => decide (session < 64) && decide (seq < 2 ^ 48)
  | .supplyOutOfWindow _ w => w.wf
  | .sensorSample v => v.wf
  | .powerLimitStep _ => true
  | .regulatorAck => true
  | .regulatorAckTimeout => true
  | .pwrCtrlWrite _ _ => true
  | .i3cPrivateWrite _ => true
  | .i3cPrivateRead _ => true
  | .powerCapWrite _ => true
  | .emergencyWrite _ => true
  | .i3cAddressAssign _ _ => true
  | .utilSelWrite _ => true
  | .shardPolicyCountClr t => decide (t < 4)
  | .syncObjectWordWrite session obj _ _ => decide (session < 64) && decide (obj < 262144)
  | .coldRstNAssert => true
  | .coreResetDone core _ => decide (core < 640)
  | .journalResyncDone _ => true
  | .boomContextStorageError site ctx => decide (site < 640) && decide (ctx < 64)

end Sys2Proof
end

