-- ==== Sys2Proof/Safety.lean ====
section
/-! DEFINITION. The terms that claims use: when a stream is ready, what a command may change, and the form that every
step keeps. -/

namespace Sys2Proof.Machine

/-! ### When an instruction issues and ends -/

/-- The stream can issue, no marked granule holds its instruction, and no fault from outside waits for its boundary. -/
def State.ready (s : State) (i : At) : Prop :=
  s.canIssue i = true ∧ s.fetchBites i = false ∧ (s.stream i).pendingFault = none

/-- The stream is ready for an instruction of a unit that has accepted none in this cycle (R121). -/
def State.readyOn (s : State) (u : ExecUnit) (i : At) : Prop :=
  s.ready i ∧ (s.core i.core).takenBy u = none ∧ (s.core i.core).unitBusy u = false

/-- A stream at its next instruction: the program counter moved on by 8, no wait for an array slot, and no line
prepared ahead. -/
def Stream.next (t : Stream) : Stream := { t with pc := t.pc + 8, slotWait := none, held := none, prepared := [] }

/-- The state `t` that an instruction's effect leaves, with the stream at the next instruction and the instruction
counted (Table 17.5). -/
def State.retired (t : State) (i : At) : State := (t.advance i).issued i

/-- A scalar register of a stream. -/
def State.sval (s : State) (i : At) (r : SReg) : SVal := (s.stream i).sreg r

/-- A vector register of a stream. -/
def State.vval (s : State) (i : At) (r : VReg) : VVal := (s.stream i).vreg r

/-- The scalar register that an instruction of the S class writes. -/
def scalarDest : Instr → Option (At × SReg)
  | .add i sd _ _ _ => some (i, sd)
  | .sub i sd _ _ _ => some (i, sd)
  | .and i sd _ _ _ => some (i, sd)
  | .or i sd _ _ _ => some (i, sd)
  | .xor i sd _ _ _ => some (i, sd)
  | .shl i sd _ _ _ => some (i, sd)
  | .shr i sd _ _ _ => some (i, sd)
  | .sar i sd _ _ _ => some (i, sd)
  | .mul i sd _ _ => some (i, sd)
  | .li i sd _ => some (i, sd)
  | .lhi i sd _ _ => some (i, sd)
  | .cmp i cond sd _ _ => if cond = 7 then none else some (i, sd)
  | _ => none

/-- The mark of granule `g` of the core store after a store with a mark of the bytes that `on` names (R84). -/
def granuleMark (old bz : Bool) (on : Nat → Bool) (g : Nat) : Bool :=
  let k := ((List.range 64).filter fun j => on (64 * g + j)).length
  if k = 64 then bz else if k = 0 then old else old || bz

/-! ### Frames -/

/-- Is the offset one of the counters that a core's instructions move: non-finite counts, stall counters, event counters
and CYCLES (R347, R390, R393, R395)? -/
def coreCounter (c off : Nat) : Bool :=
  (decide (coreBase c + 0xB00 ≤ off) && decide (off < coreBase c + 0xB30)) ||
  (decide (coreBase c + 0xC00 ≤ off) && decide (off < coreBase c + 0xE40)) || off == coreBase c + 0xF00

/-- Nothing differs but one core and its counters: every other core, memory, every saved image, every other register
and every other unit are as before. -/
def OnlyCore (c : Nat) (s t : State) : Prop :=
  t = { s with cores := t.cores, regs := t.regs } ∧
  (∀ d, d ≠ c → t.core d = s.core d) ∧
  (∀ off, coreCounter c off = false → t.reg off = s.reg off)

/-- Nothing differs but one stream, the counters of its core, its unacknowledged notice, which stream a unit has
accepted and how long the vector engine stays occupied (R121, R135): tiles, accumulators, the
core store, the near cache, the other streams and all else are as before. -/
def OnlyStream (i : At) (s t : State) : Prop :=
  OnlyCore i.core s t ∧
  t.core i.core = { s.core i.core with
    img := (s.core i.core).img.setStream i.stream (t.stream i)
    noticeF := (t.core i.core).noticeF, noticeB := (t.core i.core).noticeB, noticeU := (t.core i.core).noticeU
    scalarBy := (t.core i.core).scalarBy, vectorBy := (t.core i.core).vectorBy
    vectorLeft := (t.core i.core).vectorLeft }

/-- The stream's vector registers, predicates, ARITH bits and control are as before; its scalar registers, its program
counter and nothing else may differ. -/
def OnlyScalars (i : At) (s t : State) : Prop :=
  t.stream i = { (s.stream i).next with sregs := (t.stream i).sregs, pc := (t.stream i).pc }

/-- Every byte of device memory reads as before, with every mark and every count. -/
def SameMemory (s t : State) : Prop :=
  t.mem.bytes = s.mem.bytes ∧ t.mem.areas = s.mem.areas ∧ t.mem.blz = s.mem.blz ∧ t.mem.errs = s.mem.errs ∧
    t.mem.counts = s.mem.counts ∧ t.mem.badCounts = s.mem.badCounts

/-- A vector instruction completes with register `vd` as given: its value and mark. The rest of the stream but its
program counter, which moves on by 8, and everything outside the stream are as before. -/
def GivesVector (i : At) (vd : VReg) (c : Instr) (s : State) (v : VData) (bz : Bool) : Prop :=
  ∃ t, exec c s = .next t ∧ t.vval i vd = ⟨v, bz⟩ ∧ (∀ r, r ≠ vd → t.vval i r = s.vval i r) ∧
    t.stream i = { (s.stream i).next with vregs := (t.stream i).vregs } ∧ OnlyStream i s t

/-- A vector instruction completes with the given lanes of a format in `vd`: the active lanes of a mask take the new
elements and the others keep their bits; the mark is that of the sources, and the register's own where a lane is kept
(R62). -/
def GivesLanes (i : At) (o : VOp) (c : Instr) (s : State) (f : Fmt) (mask : BitVec 256) (srcs : List VReg)
    (lane : Nat → Elt) : Prop :=
  let old := s.vval i o.vd
  GivesVector i o.vd c s
    (ofLanes f ((maskLanes mask f.laneBytes (lanesOf f old.val) lane).map Elt.bits))
    ((!allLanes mask f.laneBytes f.lanes && old.bz) || srcs.any fun r => (s.vval i r).bz)

/-! ### What every step keeps -/

/-- A core store and the set of its marked granules are in their canonical form. -/
def CoreImage.storeOk (m : CoreImage) : Bool := Memory.wf m.store && SMap.wf m.storeBlz

/-- The byte stores of the device are in their canonical form: device memory, the flash, every core store and every
saved core store, with the marks of the core stores' granules. -/
def State.storesOk (s : State) : Bool :=
  Memory.wf s.mem.bytes && Memory.wf s.boot.flash && (s.cores.all fun p => p.2.img.storeOk) &&
  s.images.all fun p => p.2.storeOk

end Sys2Proof.Machine
end

