-- ==== Sys2Proof/Certificates/Slice0/Obligations.lean ====
section
/-! DEFINITION. The statements for the provers. -/

open Sys2Proof Sys2Proof.Machine

/-! ### The step -/

/-- With a command at the front of the queue, a step is that command on the state with the queue's rest. -/
def Obligations.StepRunsFrontCommand : Prop :=
  ∀ (c : Instr) (cs : List Instr) (s : State), s.pending = c :: cs → step s = exec c { s with pending := cs }

/-- The model's choice (log entry 7): with no command waiting, a step is a tick. The ring counter moves up by one and never
wraps (R389). Beside it the tick moves counters, the time of the cores' arrays, write-backs of whole near caches that are
in progress, the frames of the mesh's outputs, the fault records on their way to the host block (log entry 158) and the
express records that wait for their ports. Where no record waits that a port's window denies, no stream, session, command
or sync object changes, and no memory where no such write-back is in progress. With COLD_RST_N low or after a thermal trip
nothing at all changes. -/
def Obligations.IdleStepTicksRingCounter : Prop :=
  ∀ s : State, s.pending = [] →
    ((s.pins.coldLow || s.pins.thermtrip) = true → step s = .next s) ∧
    ((s.pins.coldLow || s.pins.thermtrip) = false →
      ∃ t, step s = .next t ∧ t.reg 0x700 = min (s.reg 0x700 + 1) (2 ^ 64 - 1) ∧
        let only : Prop := (∀ i, t.stream i = s.stream i) ∧
          t = { s with
            regs := t.regs, cores := t.cores, mem := t.mem, faultQ := t.faultQ, free := t.free
            fab := { s.fab with
              paths := t.fab.paths, express := t.fab.express, tx := t.fab.tx, refusals := t.fab.refusals
              refused := t.fab.refused }
            host := { s.host with drops := t.host.drops }, noc := t.noc }
        (s.fab.shut = [] → s.fab.express = [] → only) ∧
        (s.fab.shut = [] → (∀ c, (s.core c).ncOp = none) → (∀ x ∈ s.fab.express, ∀ r, s.routeDenied x r = false) →
          only ∧ t.mem = s.mem ∧
          (s.noc.faults = [] → t.noc = { s.noc with frames := [] } ∧ t.faultQ = s.faultQ ∧ t.host = s.host)))

/-- No command stops the device: every step from every state answers a next state. A fault of the device is part of its
state. The model's choice: Fault and Refusal have no reason that arises (DESIGN CHOICE, log entry 110), and a command that
cannot act changes nothing (DESIGN CHOICE, log entries 9 and 94). -/
def Obligations.EveryStepAnswersNext : Prop := ∀ s : State, ∃ t, step s = .next t

/-- The byte stores at reset are in canonical form. -/
def Obligations.StoresCanonicalAtReset : Prop := State.reset.storesOk = true

/-- Every step keeps the canonical form of device memory, of the flash, and of every core store and every saved core
store with their marked granules, whatever the command and the state. -/
def Obligations.StoresStayCanonical : Prop :=
  ∀ s t : State, s.storesOk = true → step s = .next t → t.storesOk = true

/-! ### The S class (Table 3.6) -/

/-- R61, Table 3.6: the scalar results of the S class, at 64 bits, with the sources' marks (R62). -/
def Obligations.ScalarResults : Prop :=
  ∀ (i : At) (sd sa sb : SReg) (imm : Imm) (s : State), s.readyOn .scalar i →
    let a := s.sval i sa
    let b := s.sval i sb
    let k : Word := imm.signExtend 64
    let gives (c : Instr) (v : Word) (bz : Bool) : Prop := exec c s = .next (((s.takeUnit i .scalar).putS i sd v bz).retired i)
    gives (.add i sd sa sb imm) (a.val + b.val + k) (a.bz || b.bz) ∧
    gives (.sub i sd sa sb imm) (a.val - b.val + k) (a.bz || b.bz) ∧
    gives (.and i sd sa sb imm) (a.val &&& (b.val ||| k)) (a.bz || b.bz) ∧
    gives (.or i sd sa sb imm) (a.val ||| (b.val ||| k)) (a.bz || b.bz) ∧
    gives (.xor i sd sa sb imm) (a.val ^^^ (b.val ||| k)) (a.bz || b.bz) ∧
    gives (.shl i sd sa sb imm) (a.val <<< ((b.val + k).toNat % 64)) (a.bz || b.bz) ∧
    gives (.shr i sd sa sb imm) (a.val >>> ((b.val + k).toNat % 64)) (a.bz || b.bz) ∧
    gives (.sar i sd sa sb imm) (a.val.sshiftRight ((b.val + k).toNat % 64)) (a.bz || b.bz) ∧
    gives (.mul i sd sa sb) (a.val * b.val) (a.bz || b.bz) ∧
    gives (.li i sd imm) k false ∧
    gives (.lhi i sd sa imm) (imm ++ a.val.extractLsb' 0 32) a.bz

/-- R74: `cmp` under each condition; "always" reads neither operand; the reserved code is illegal (R63). -/
def Obligations.CompareResults : Prop :=
  ∀ (i : At) (sd sa sb : SReg) (s : State), s.readyOn .scalar i →
    let a := s.sval i sa
    let b := s.sval i sb
    let gives (cond : BitVec 3) (v : Bool) : Prop :=
      exec (.cmp i cond sd sa sb) s = .next (((s.takeUnit i .scalar).putS i sd (if v then 1 else 0) (a.bz || b.bz)).retired i)
    gives 0 (a.val == b.val) ∧ gives 1 (a.val != b.val) ∧
    gives 2 (decide (a.val.toInt < b.val.toInt)) ∧ gives 3 (decide (b.val.toInt ≤ a.val.toInt)) ∧
    gives 4 (decide (a.val.toNat < b.val.toNat)) ∧ gives 5 (decide (b.val.toNat ≤ a.val.toNat)) ∧
    exec (.cmp i 6 sd sa sb) s = .next (((s.takeUnit i .scalar).putS i sd 1 false).retired i) ∧
    exec (.cmp i 7 sd sa sb) s = .next (s.modStream i fun x => { x with state := .illegal })

/-- What a retired scalar result is: the destination holds the value and its mark, except that s0 still reads as zero
(R61); every other scalar register, every vector register, predicate and control field of the stream is as before; the
program counter moves on by 8; every other stream, core, unit, register and byte is as before. Where the scalar unit has
accepted an instruction in the present cycle, this one loses a cycle, under OTHER, to another stream that goes first, and
else issues as in the next cycle (R121; DEDUCED, log entry 137). -/
def Obligations.ScalarInstructionsFrame : Prop :=
  (∀ (c : Instr) (i : At) (sd : SReg) (s t : State), scalarDest c = some (i, sd) → s.readyOn .scalar i → exec c s = .next t →
     (∀ r, r ≠ sd → t.sval i r = s.sval i r) ∧ t.sval i 0 = ⟨0, false⟩ ∧
     (t.stream i).pc = (s.stream i).pc + 8 ∧ OnlyScalars i s t ∧ OnlyStream i s t) ∧
  (∀ (i : At) (sd : SReg) (v : Word) (bz : Bool) (s : State), sd ≠ 0 →
     (((s.takeUnit i .scalar).putS i sd v bz).retired i).sval i sd = ⟨v, bz⟩) ∧
  (∀ (c : Instr) (i : At) (sd : SReg) (y : StreamId) (s : State), scalarDest c = some (i, sd) → s.ready i →
     (s.core i.core).scalarBy = some y →
     let lost : Prop := y ≠ i.stream ∧ (s.core i.core).slotStream ≠ some i.stream ∧
       ((s.core i.core).slotStream = some y ∨ y.idx < i.stream.idx)
     (lost → exec c s = .next (s.stall i .other)) ∧
     (¬ lost → exec c s = exec c (s.corePass i.core 1 none false)))

/-- R74, R436, R341: `br` goes to PC + 8 × IMM32 where its condition holds and falls through where it does not; `jr` goes
to sa + 8 × IMM32. A target that is no instruction address faults with TILE_BOUNDS and the target in SEQ_FADDR; a marked
operand that is read bites. -/
def Obligations.BranchesGoOrFault : Prop :=
  ∀ (i : At) (cond : BitVec 3) (sa sb : SReg) (imm : Imm) (s : State), s.readyOn .scalar i →
    let a := s.sval i sa
    let b := s.sval i sb
    let t1 : Word := (s.stream i).pc.setWidth 64 + 8 * imm.signExtend 64
    let t2 : Word := a.val + 8 * imm.signExtend 64
    let goes (c : Instr) (t : Word) : Prop :=
      (t.toNat % 8 = 0 ∧ t.toNat < 2 ^ 21 →
        exec c s = .next (((s.takeUnit i .scalar).modStream i fun x => { x with pc := t.setWidth 21 }).issued i)) ∧
      (¬ (t.toNat % 8 = 0 ∧ t.toNat < 2 ^ 21) → exec c s = .next (s.faultStream i codeTileBounds (t.toNat % 2 ^ 48)))
    (a.bz = false → goes (.jr i sa imm) t2) ∧
    (a.bz = true → exec (.jr i sa imm) s = .next (s.faultStream i codeBlazeBite 0)) ∧
    goes (.br i 6 sa sb imm) t1 ∧
    (cond.toNat < 6 → (a.bz || b.bz) = true → exec (.br i cond sa sb imm) s = .next (s.faultStream i codeBlazeBite 0)) ∧
    (cond.toNat < 6 → (a.bz || b.bz) = false → condScalar cond a.val b.val = some true → goes (.br i cond sa sb imm) t1) ∧
    (cond.toNat < 6 → (a.bz || b.bz) = false → condScalar cond a.val b.val = some false →
      exec (.br i cond sa sb imm) s = .next ((s.takeUnit i .scalar).retired i)) ∧
    exec (.br i 7 sa sb imm) s = .next (s.modStream i fun x => { x with state := .illegal })

/-- `nop` only moves on; `amode` writes the stream's own ARITH bits, where RMODE 0b11 leaves that field as it was; a word
that the device does not execute stops the stream in ILLEGAL with its program counter at the word (R46, R63). `halt`: with
no notice of the stream unacknowledged it enters IDLE; its array instructions are in flight no more, and their words and
marks stand in their accumulators; with one it waits, and only a stall is counted (R349). -/
def Obligations.ControlOfOneStream : Prop :=
  (∀ (i : At) (imm : Imm) (s : State), s.readyOn .scalar i →
     exec (.nopInstr i) s = .next ((s.takeUnit i .scalar).retired i) ∧
     (∃ t, exec (.amode i imm) s = .next t ∧ OnlyStream i s t ∧
       t.stream i = { (s.stream i).next with arith := (t.stream i).arith } ∧
       (bits 2 1 imm.toNat ≠ 3 → (t.stream i).arith = imm.setWidth 5) ∧
       (bits 2 1 imm.toNat = 3 → bits 2 1 (t.stream i).arith.toNat = bits 2 1 (s.stream i).arith.toNat ∧
         bits 0 0 (t.stream i).arith.toNat = bits 0 0 imm.toNat ∧
         bits 4 3 (t.stream i).arith.toNat = bits 4 3 imm.toNat))) ∧
  (∀ (i : At) (word : Word) (s : State), s.ready i → legalWord word.toNat = false →
     exec (.illegalInstruction i word) s = .next (s.modStream i fun x => { x with state := .illegal })) ∧
  (∀ (i : At) (s : State), s.readyOn .scalar i →
     (s.notice i = false → ∃ t, exec (.halt i) s = .next t ∧ (t.stream i).state = .idle ∧
       (t.core i.core).inflight = (s.core i.core).inflight.filter (fun f => f.stream != i.stream) ∧
       (∀ n, (t.core i.core).img.acc n = (((s.core i.core).inflight.filter fun f => f.stream == i.stream && f.acc == n).foldl
         (fun a f => (a.setWords f.words).setSegs f.segs) ((s.core i.core).img.acc n))) ∧
       (t.core i.core).img.store = (s.core i.core).img.store ∧ OnlyCore i.core s t) ∧
     (s.notice i = true → exec (.halt i) s = .next ((s.takeUnit i .scalar).stall i .sync)))

/-- R433, R341, R84: `ld` and `st` on the core store. The address is sb + IMM32 modulo 2^64; a marked base bites; eight
bytes outside the 2 MiB store fault with TILE_BOUNDS; else `ld` reads the little-endian word with its granules' marks,
and `st` writes exactly the eight bytes, with the register's mark on their granules: a granule written in part keeps a mark
that it has, and every other granule is as before. The cycles that deliveries to the store take from either are log entry
139 (DESIGN CHOICE). -/
def Obligations.CoreStoreLoadsAndStores : Prop :=
  ∀ (i : At) (sd sa sb : SReg) (imm : Imm) (s : State), s.readyOn .scalar i → (s.core i.core).img.storeOk = true →
    let b := s.sval i sb
    let v := s.sval i sa
    let a := (b.val + imm.signExtend 64).toNat
    let m := (s.core i.core).img
    (b.bz = true → exec (.ld i sd sb false imm) s = .next (s.faultStream i codeBlazeBite 0) ∧
      exec (.st i sa sb false imm) s = .next (s.faultStream i codeBlazeBite 0)) ∧
    (b.bz = false → 2 ^ 21 < a + 8 → exec (.ld i sd sb false imm) s = .next (s.faultStream i codeTileBounds (a % 2 ^ 48)) ∧
      exec (.st i sa sb false imm) s = .next (s.faultStream i codeTileBounds (a % 2 ^ 48))) ∧
    (b.bz = false → a + 8 ≤ 2 ^ 21 →
      exec (.ld i sd sb false imm) s =
        .next ((((s.takeUnit i .scalar).meet i false).putS i sd (BitVec.ofNat 64 (leNat (m.store.read a 8)))
          (m.storeMark a 8)).retired i) ∧
      ∃ t, exec (.st i sa sb false imm) s = .next t ∧ OnlyCore i.core { s with free := t.free } t ∧
        (t.core i.core).img.store.read a 8 = leBytes 8 v.val.toNat ∧
        (∀ x, x < a ∨ a + 8 ≤ x → (t.core i.core).img.store.get x = (s.core i.core).img.store.get x) ∧
        (∀ g, NSet.has (t.core i.core).img.storeBlz g =
          granuleMark (NSet.has m.storeBlz g) v.bz (fun x => decide (a ≤ x) && decide (x < a + 8)) g) ∧
        t.stream i = (s.stream i).next ∧
        (t.core i.core).img.tiles = m.tiles ∧ (t.core i.core).img.accs = m.accs)

/-- `ld` and `st` of device virtual memory end as their access does: it is done; a page fault suspends the stream with one
record (R231); a denial stops it in FAULTED with ACCESS (Table 13.7); an access that is held only counts a stall. -/
def Obligations.VirtualLoadsAndStores : Prop :=
  ∀ (i : At) (sd sa sb : SReg) (imm : Imm) (s : State), s.readyOn .scalar i → (s.sval i sb).bz = false →
    let a := ((s.sval i sb).val + imm.signExtend 64).toNat
    let v := s.sval i sa
    let u0 := s.takeUnit i .scalar
    (2 ^ 48 < a + 8 → exec (.ld i sd sb true imm) s = .next (s.faultStream i codeTileBounds (a % 2 ^ 48)) ∧
      exec (.st i sa sb true imm) s = .next (s.faultStream i codeTileBounds (a % 2 ^ 48))) ∧
    (a + 8 ≤ 2 ^ 48 →
      (∀ r u, u0.vmRead i a 8 false = .ok r u →
        exec (.ld i sd sb true imm) s = .next (s.finish i (.done (u.putS i sd (BitVec.ofNat 64 (leNat r.1)) r.2)))) ∧
      (∀ u va l c, u0.vmRead i a 8 false = .page u va l c →
        exec (.ld i sd sb true imm) s = .next (s.finish i (.page u va false l c))) ∧
      (∀ u va, u0.vmRead i a 8 false = .denied u va →
        exec (.ld i sd sb true imm) s = .next (s.finish i (.faultAfter u codeAccess (va % 2 ^ 48)))) ∧
      (∀ u c, u0.vmRead i a 8 false = .held u c → exec (.ld i sd sb true imm) s = .next (u.stall i c)) ∧
      (∀ u, u0.vmWrite i a 8 [(0, leBytes 8 v.val.toNat)] v.bz false = .ok () u →
        exec (.st i sa sb true imm) s = .next (s.finish i (.done u))) ∧
      (∀ u va l c, u0.vmWrite i a 8 [(0, leBytes 8 v.val.toNat)] v.bz false = .page u va l c →
        exec (.st i sa sb true imm) s = .next (s.finish i (.page u va true l c))) ∧
      (∀ u va, u0.vmWrite i a 8 [(0, leBytes 8 v.val.toNat)] v.bz false = .denied u va →
        exec (.st i sa sb true imm) s = .next (s.finish i (.faultAfter u codeAccess (va % 2 ^ 48)))) ∧
      (∀ u c, u0.vmWrite i a 8 [(0, leBytes 8 v.val.toNat)] v.bz false = .held u c →
        exec (.st i sa sb true imm) s = .next (u.stall i c)))

/-! ### The V class (Tables 3.5, 3.7) -/

/-- R48, R434: the lanes of the exact operations. Integers saturate once at the lane's width; floating point rounds once
to nearest even. -/
def Obligations.VectorArithmeticLanes : Prop :=
  ∀ (i : At) (o : VOp) (f : Fmt) (m : BitVec 256) (s : State), s.readyOn .vector i → arithFmt o.fmt.toNat = some f →
    predMask (s.stream i) o.pred o.pneg = some m →
    let st := (s.stream i).strict
    let x (r : VReg) (j : Nat) : Int := signedOf f.width ((lanesOf f (s.vval i r).val).getD j 0)
    let y (r : VReg) (j : Nat) : FVal := readElement st f ((lanesOf f (s.vval i r).val).getD j 0)
    let gives (c : Instr) (srcs : List VReg) (lane : Nat → Elt) : Prop := GivesLanes i o c s f m srcs lane
    (f.isInt = true →
      gives (.vadd i o) [o.va, o.vb] (fun j => intElt f (x o.va j + x o.vb j)) ∧
      gives (.vsub i o) [o.va, o.vb] (fun j => intElt f (x o.va j - x o.vb j)) ∧
      gives (.vmul i o) [o.va, o.vb] (fun j => intElt f (x o.va j * x o.vb j)) ∧
      gives (.vfma i o) [o.va, o.vb, o.vc] (fun j => intElt f (x o.va j * x o.vb j + x o.vc j)) ∧
      gives (.vmax i o) [o.va, o.vb] (fun j => intElt f (max (x o.va j) (x o.vb j))) ∧
      gives (.vmin i o) [o.va, o.vb] (fun j => intElt f (min (x o.va j) (x o.vb j)))) ∧
    (f.isInt = false →
      gives (.vadd i o) [o.va, o.vb] (fun j => result st f (addVal st (y o.va j) (y o.vb j))) ∧
      gives (.vsub i o) [o.va, o.vb] (fun j => result st f (addVal st (y o.va j) (y o.vb j).negate)) ∧
      gives (.vmul i o) [o.va, o.vb] (fun j => result st f (mulVal st (y o.va j) (y o.vb j))) ∧
      gives (.vfma i o) [o.va, o.vb, o.vc] (fun j => result st f (fmaVal st (y o.va j) (y o.vb j) (y o.vc j))) ∧
      gives (.vmax i o) [o.va, o.vb] (fun j => result st f (maxVal st (y o.va j) (y o.vb j))) ∧
      gives (.vmin i o) [o.va, o.vb] (fun j => result st f (minVal st (y o.va j) (y o.vb j))))

/-- R47: in strict mode a divide, a square root and a reciprocal are rounded correctly; else they and the other functions
lie within their bounds of the correctly rounded value, by a free amount. An integer format is illegal for them (R76). -/
def Obligations.VectorFunctionsWithinBounds : Prop :=
  ∀ (i : At) (o : VOp) (f : Fmt) (m : BitVec 256) (s : State), s.readyOn .vector i → arithFmt o.fmt.toNat = some f →
    predMask (s.stream i) o.pred o.pneg = some m →
    let st := (s.stream i).strict
    let x (r : VReg) (j : Nat) : Nat := (lanesOf f (s.vval i r).val).getD j 0
    let y (r : VReg) (j : Nat) : FVal := readElement st f (x r j)
    let within (u : Nat) (r : FVal × Bool) (e : Elt) : Prop := ∃ d : Int, e = resultWithin u d st f r.1 r.2
    let gives (c : Instr) (srcs : List VReg) (ok : Nat → Elt → Prop) : Prop :=
      ∃ lane, (∀ j, ok j (lane j)) ∧ GivesLanes i o c s f m srcs lane
    let bound : Nat := if st then 1 else 2
    let cut (g : Nat → FVal × Bool) (j : Nat) (e : Elt) : Prop :=
      if st then e = result st f (g j).1 (g j).2 else within 2 (g j) e
    (f.isInt = true → ∀ c ∈ [Instr.vdiv i o, .vsqrt i o, .vrcp i o, .vrsqrt i o, .vexp i o, .vlog i o],
      exec c s = .next (s.modStream i fun t => { t with state := .illegal })) ∧
    (f.isInt = false →
      gives (.vdiv i o) [o.va, o.vb] (cut fun j => divVal st (y o.va j) (y o.vb j)) ∧
      gives (.vsqrt i o) [o.va] (cut fun j => sqrtVal st (y o.va j)) ∧
      gives (.vrcp i o) [o.va] (cut fun j => divVal st oneVal (y o.va j)) ∧
      gives (.vrsqrt i o) [o.va] (fun j => within bound (rsqrtVal st (y o.va j))) ∧
      gives (.vexp i o) [o.va] (fun j => within bound (expVal st (y o.va j))) ∧
      gives (.vlog i o) [o.va] (fun j => within bound (logVal st (y o.va j))))

/-- The other vector instructions on registers: `vsel` writes every lane from one source or the other (R72); `vredsum`
writes the sum to lane 0 and zeros elsewhere; `vbcast` the low bits of a scalar to every lane; `vmovs` one lane to a
scalar register. The model's readings (DEDUCED): `vmovs` extends by sign or by zeros (log entry 18), `vsel` copies
unflushed (log entry 23), and `vredsum` adds all lanes whatever the predicate (log entry 24), of which fast mode reads a
subnormal FP16 one as zero before it is widened (log entry 150). That `vmovs` writes whatever the predicate is its choice
(DESIGN CHOICE, log entry 151). -/
def Obligations.VectorMovesAndSelects : Prop :=
  ∀ (i : At) (o : VOp) (f : Fmt) (m : BitVec 256) (sd sa : SReg) (lane : BitVec 8) (s : State), s.readyOn .vector i →
    arithFmt o.fmt.toNat = some f → predMask (s.stream i) o.pred o.pneg = some m →
    let x (r : VReg) (j : Nat) : Nat := (lanesOf f (s.vval i r).val).getD j 0
    let a := s.vval i o.va
    let b := s.vval i o.vb
    GivesVector i o.vd (.vsel i o) s
      (ofLanes f ((List.range f.lanes).map fun j => if laneOn m (j * f.laneBytes) then x o.va j else x o.vb j))
      (a.bz || b.bz) ∧
    GivesLanes i o (.vredsum i o) s f m [o.va]
      (fun j => if j = 0 then redSum (s.stream i) f (lanesOf f a.val) else ⟨0, false⟩) ∧
    GivesVector i o.vd (.vbcast i o sa) s
      (ofLanes f ((maskLanes m f.laneBytes (lanesOf f (s.vval i o.vd).val)
        fun _ => ⟨(s.sval i sa).val.toNat % 2 ^ f.width, false⟩).map Elt.bits))
      ((!allLanes m f.laneBytes f.lanes && (s.vval i o.vd).bz) || (s.sval i sa).bz) ∧
    (lane.toNat < f.lanes →
      exec (.vmovs i o sd lane) s = .next ((((s.takeUnit i .vector).putS i sd
        (if f.isInt then BitVec.ofInt 64 (signedOf f.width (x o.va lane.toNat)) else BitVec.ofNat 64 (x o.va lane.toNat))
        a.bz).event i.core (some i.stream) evVector 1).retired i)) ∧
    (f.lanes ≤ lane.toNat →
      exec (.vmovs i o sd lane) s = .next (s.modStream i fun t => { t with state := .illegal }))

/-- R74: `vcmp` sets the lowest bit of each active lane in the predicate to whether the condition holds, and leaves every
bit of an inactive lane; what the other bits of an active lane become the manual does not state, and the model leaves it
free (log entry 15). -/
def Obligations.VectorComparesToPredicate : Prop :=
  ∀ (i : At) (o : VOp) (f : Fmt) (m : BitVec 256) (pd cond : BitVec 3) (s : State), s.readyOn .vector i →
    arithFmt o.fmt.toNat = some f → predMask (s.stream i) o.pred o.pneg = some m → cond.toNat ≠ 7 →
    let x (r : VReg) (j : Nat) : Nat := (lanesOf f (s.vval i r).val).getD j 0
    let holds (j : Nat) : Bool := (laneCond cond (s.stream i).strict f (x o.va j) (x o.vb j)).getD false
    ∃ t, exec (.vcmp i o pd cond) s = .next t ∧
      (∀ j, j < f.lanes → laneOn m (j * f.laneBytes) = true →
        ((t.stream i).preg pd.toNat).getLsbD (j * f.laneBytes) = holds j) ∧
      (∀ k, k < 256 → laneOn m (k / f.laneBytes * f.laneBytes) = false →
        ((t.stream i).preg pd.toNat).getLsbD k = ((s.stream i).preg pd.toNat).getLsbD k) ∧
      t.stream i = { (s.stream i).next with preds := (t.stream i).preds } ∧
      (∀ q, q ≠ pd.toNat → (t.stream i).preg q = (s.stream i).preg q) ∧
      t = { s with cores := t.cores, regs := t.regs, free := t.free } ∧ (∀ d, d ≠ i.core → t.core d = s.core d)

/-- R431: `vcvt` under the element mapping of PART. A combination that R431 does not give, and a predicate with a
block-scaled destination, are illegal; else each destination element that the mapping names is converted from its source
element, and the others keep their bits; the register's mark follows the partial rule of R62. -/
def Obligations.VectorConverts : Prop :=
  ∀ (i : At) (o : VOp) (dfmt : BitVec 4) (part : BitVec 3) (f g : Fmt) (m : BitVec 256) (s : State), s.readyOn .vector i →
    moveFmt o.fmt.toNat = some f → moveFmt dfmt.toNat = some g → predMask (s.stream i) o.pred o.pneg = some m →
    let a := s.vval i o.va
    let old := s.vval i o.vd
    let val := cvtValue (regElements (s.stream i).strict f a.val) f.regCount g.regCount part.toNat
    let keeps : Bool := (List.range g.regCount).any fun d => (val d).isNone || !laneOn m (d * g.laneBytes)
    (partOk f.regCount g.regCount part.toNat = false ∨ (g.isMx = true ∧ o.pred ≠ 0) →
      exec (.vcvt i o dfmt part) s = .next (s.modStream i fun t => { t with state := .illegal })) ∧
    (partOk f.regCount g.regCount part.toNat = true → g.isMx = false →
      ∃ t, exec (.vcvt i o dfmt part) s = .next t ∧
        t.vval i o.vd = ⟨ofLanes g ((cvtLanes (s.stream i) s.free g m old.val val).map Elt.bits), (keeps && old.bz) || a.bz⟩ ∧
        t.stream i = { (s.stream i).next with vregs := (t.stream i).vregs } ∧
        (∀ r, r ≠ o.vd → t.vval i r = s.vval i r)) ∧
    (partOk f.regCount g.regCount part.toNat = true → g.isMx = true → o.pred = 0 →
      ∃ t, exec (.vcvt i o dfmt part) s = .next t ∧
        (t.vval i o.vd).val = BitVec.ofNat 2048 (packBlocks g ((List.range (g.blocks g.regLen)).map
          (cvtBlock (s.stream i) s.free g old.val (decodeRow g g.regLen old.val.toNat) val))) ∧
        (t.vval i o.vd).bz = (((List.range g.regCount).any fun d => (val d).isNone) && old.bz || a.bz) ∧
        t.stream i = { (s.stream i).next with vregs := (t.stream i).vregs } ∧
        (∀ r, r ≠ o.vd → t.vval i r = s.vval i r))

/-- R433, R84: `vld` and `vst` of the core store. The address is the base register plus sixteen times the offset field,
modulo 2^64; 256 bytes outside the store fault with TILE_BOUNDS; else `vld` copies the bytes of the active lanes with the
granules' marks, and `vst` writes the bytes of the active lanes and no other byte: a granule written whole takes the
register's mark, one written in part also keeps its own, and every other granule is as before. The model's choices: the
range is checked for all 256 bytes whatever the predicate (DESIGN CHOICE, log entry 113), a block-scaled format is
predicated byte by byte (DEDUCED, log entry 17), and deliveries to the store take cycles from either (DESIGN CHOICE, log
entry 139). -/
def Obligations.VectorLoadsAndStores : Prop :=
  ∀ (i : At) (o : VOp) (sBase : SReg) (off : BitVec 16) (f : Fmt) (m : BitVec 256) (s : State), s.readyOn .vector i →
    moveFmt o.fmt.toNat = some f → predMask (s.stream i) o.pred o.pneg = some m → (s.sval i sBase).bz = false →
    (s.core i.core).img.storeOk = true →
    let a := ((s.sval i sBase).val.toNat + 16 * off.toNat) % 2 ^ 64
    let img := (s.core i.core).img
    let w := moveBytes f
    let old := s.vval i o.vd
    let on (k : Nat) : Bool := laneOn m (k / w * w)
    let ended (c : Instr) (t : State) : Prop := exec c s = .next t ∧ OnlyCore i.core { s with free := t.free } t
    (2 ^ 21 < a + 256 →
      exec (.vld i o sBase false off) s = .next (s.faultStream i codeTileBounds (a % 2 ^ 48)) ∧
      exec (.vst i o sBase false off) s = .next (s.faultStream i codeTileBounds (a % 2 ^ 48))) ∧
    (a + 256 ≤ 2 ^ 21 →
      (∃ t, ended (.vld i o sBase false off) t ∧ t.vval i o.vd =
          ⟨BitVec.ofNat 2048 (leNat ((leBytes 256 old.val.toNat).zipIdx.map fun p =>
            if on p.2 then img.store.get (a + p.2) else p.1)), (!allLanes m w (256 / w) && old.bz) || img.storeMark a 256⟩ ∧
        (∀ r, r ≠ o.vd → t.vval i r = s.vval i r) ∧
        t.stream i = { (s.stream i).next with vregs := (t.stream i).vregs } ∧
        (t.core i.core).img = img.setStream i.stream (t.stream i)) ∧
      ∃ t, ended (.vst i o sBase false off) t ∧
        (∀ k, k < 256 → on k = true → (t.core i.core).img.store.get (a + k) = (leBytes 256 old.val.toNat).getD k 0) ∧
        (∀ x, (x < a ∨ a + 256 ≤ x ∨ on (x - a) = false) → (t.core i.core).img.store.get x = img.store.get x) ∧
        (∀ g, NSet.has (t.core i.core).img.storeBlz g = granuleMark (NSet.has img.storeBlz g) old.bz
          (fun x => decide (a ≤ x) && decide (x < a + 256) && on (x - a)) g) ∧
        t.stream i = (s.stream i).next ∧
        (t.core i.core).img.tiles = img.tiles ∧ (t.core i.core).img.accs = img.accs)

/-! ### The T class (R77–R88) -/

/-- R77, R80: a `tcfg` that no instruction in flight holds back gives its tile its shape with every row zero, or releases
it, or stops with TILE_SHAPE and the tile and reason of Table 3.8; one that is held back is held, and its cycle counts
under TCFG_HOLD. A held `tcfg` proceeds once its tile is in no flight; before that, and where none is held, nothing changes.
The model's choice: the hold is judged before the faults of Table 3.8 (DEDUCED, log entry 25). -/
def Obligations.TileConfigures : Prop :=
  (∀ (i : At) (tile : TReg) (rowsM1 : BitVec 8) (lenM1 : BitVec 5) (fmt : BitVec 4) (clear : Bool) (s : State),
     s.ready i → s.tileHeld i tile.toNat = false →
     let o : TcfgOp := ⟨tile, rowsM1, lenM1, fmt, clear⟩
     let m := (s.core i.core).img
     let c : Instr := .tcfg i tile rowsM1 lenM1 fmt clear
     (s.tileWriteBusy i tile.toNat = true →
       exec c s = .next ((s.modStream i fun x => { x with heldTcfg := some o }).stall i .tcfgHold)) ∧
     (s.tileWriteBusy i tile.toNat = false → tcfgReason m o = none → ∃ t, exec c s = .next t ∧ OnlyCore i.core s t ∧
       t.stream i = (s.stream i).next ∧
       (clear = true → (t.core i.core).img.tile tile.toNat = {}) ∧
       (clear = false → ((t.core i.core).img.tile tile.toNat).rows = rowsM1.toNat + 1 ∧
         ((t.core i.core).img.tile tile.toNat).len = 16 * (lenM1.toNat + 1) ∧
         ((t.core i.core).img.tile tile.toNat).fmt = fmt.toNat ∧
         ∀ r, ((t.core i.core).img.tile tile.toNat).row r = ⟨0, false⟩) ∧
       (∀ n, n ≠ tile.toNat → (t.core i.core).img.tile n = m.tile n) ∧ (t.core i.core).img.store = m.store) ∧
     (∀ r, s.tileWriteBusy i tile.toNat = false → tcfgReason m o = some r → ∃ t, exec c s = .next t ∧
       OnlyCore i.core s t ∧ t.stream i = (s.stream i).stop codeTileShape 0 ∧
       (t.core i.core).img.tcfgFaultTile = tile.toNat ∧ (t.core i.core).img.tcfgFaultReason = r ∧
       (t.core i.core).img.tiles = m.tiles)) ∧
  (∀ (core : Nat) (x : StreamId) (n : Nat) (s : State), (s.core core).res = some n →
     let i : At := ⟨core, x⟩
     ((s.stream i).heldTcfg = none → exec (.tcfgHoldRelease core x) s = .next s) ∧
     ∀ o : TcfgOp, (s.stream i).heldTcfg = some o →
       (s.tileWriteBusy i o.tile.toNat = true → exec (.tcfgHoldRelease core x) s = .next s) ∧
       (s.tileWriteBusy i o.tile.toNat = false → (s.stream i).state = .running → (s.stream i).pendingFault = none →
         tcfgReason (s.core core).img o = none →
         ∃ t, exec (.tcfgHoldRelease core x) s = .next t ∧ OnlyCore core s t ∧
           (t.core core).img.tile o.tile.toNat = o.shape ∧
           t.stream i = { (s.stream i).next with heldTcfg := none } ∧
           ∀ k, k ≠ o.tile.toNat → (t.core core).img.tile k = (s.core core).img.tile k))

/-- R83, R84: `tld` and `tst` between a tile and the core store, with no pause asked for and no switch on its way: every
row, in order, at the base plus IMM32 plus the row times the stride, with the granules' marks. `tld` changes nothing of the
tenancy's state but its tile and its stream; `tst` nothing but the bytes and marks of its rows and its stream. -/
def Obligations.TileTransfersWithCoreStore : Prop :=
  ∀ (i : At) (o : TileMemOp) (s : State), s.ready i → s.tileHeld i o.tile.toNat = false → o.space = false →
    (s.sval i o.sBase).bz = false → (s.sval i o.sStride).bz = false → (s.stream i).restartValid = false →
    s.mayStop i = false →
    let m := (s.core i.core).img
    let tile := m.tile o.tile.toNat
    let at_ (r : Nat) : Nat := ((s.stream i).rowAddr o r).toNat
    let end_ : Stream := { (s.stream i).next with part := none }
    tile.configured = true → rowsOk (s.stream i) o tile.rows tile.len = true → m.storeOk = true →
    (s.tileWriteBusy i o.tile.toNat = false → s.starved i o true tile.rows tile.len = false →
      ∃ t, exec (.tld i o) s = .next t ∧ OnlyCore i.core { s with free := t.free } t ∧
        (∀ r, r < tile.rows → ((t.core i.core).img.tile o.tile.toNat).row r =
          ⟨BitVec.ofNat 4096 (leNat (m.store.read (at_ r) tile.len)), m.storeMark (at_ r) tile.len⟩) ∧
        (∀ r, tile.rows ≤ r → ((t.core i.core).img.tile o.tile.toNat).row r = tile.row r) ∧
        (t.core i.core).img.tile o.tile.toNat = { tile with data := ((t.core i.core).img.tile o.tile.toNat).data } ∧
        (∀ n, n ≠ o.tile.toNat → (t.core i.core).img.tile n = m.tile n) ∧
        (t.core i.core).img = { m.setStream i.stream end_ with tiles := (t.core i.core).img.tiles }) ∧
    (s.tileReadBusy i o.tile.toNat = false → ∃ t, exec (.tst i o) s = .next t ∧
      OnlyCore i.core { s with free := t.free } t ∧
      (t.core i.core).img = ((List.range tile.rows).foldl
        (fun m r => m.storeWrite (at_ r) (rowImage tile (tile.row r).val) (tile.row r).bz) m).setStream i.stream end_ ∧
      (∀ r k, r < tile.rows → k < tile.len → (∀ q, r < q → q < tile.rows → at_ r + k < at_ q ∨ at_ q + tile.len ≤ at_ r + k) →
        (t.core i.core).img.store.get (at_ r + k) = (rowImage tile (tile.row r).val).getD k 0) ∧
      ∀ x, (∀ r, r < tile.rows → x < at_ r ∨ at_ r + tile.len ≤ x) → (t.core i.core).img.store.get x = m.store.get x)

/-- R83, R87, R233, R341: where `tld` and `tst` fault at issue they do nothing else; a `tld` whose rows of the core store
have still to be delivered waits; else they transfer their rows from RESTART_ROW on, or from row 0, to or from either
space. The model's choices: TILE_BOUNDS leaves SEQ_FADDR 0 (DEDUCED, log entry 37), and the `tld` that waits for a delivery
counts under WEIGHT_STARVE (DEDUCED, log entry 114). -/
def Obligations.TileTransfersCheckAndRestart : Prop :=
  ∀ (i : At) (o : TileMemOp) (s : State), s.ready i → s.tileHeld i o.tile.toNat = false →
    let m := (s.core i.core).img
    let tile := m.tile o.tile.toNat
    let again := (s.stream i).restartValid
    let r := if again then (s.stream i).restartRow.toNat else 0
    let u := s.bankLoss i o (tile.rows - r) tile.len
    let bites := (s.sval i o.sBase).bz || (s.sval i o.sStride).bz
    (bites = true → exec (.tld i o) s = .next (s.faultStream i codeBlazeBite 0) ∧
      exec (.tst i o) s = .next (s.faultStream i codeBlazeBite 0)) ∧
    (bites = false → (tile.configured && rowsOk (s.stream i) o tile.rows tile.len) = false →
      exec (.tld i o) s = .next (s.faultStream i codeTileBounds 0) ∧
      exec (.tst i o) s = .next (s.faultStream i codeTileBounds 0)) ∧
    (bites = false → (tile.configured && rowsOk (s.stream i) o tile.rows tile.len) = true →
      (s.tileWriteBusy i o.tile.toNat = false →
        (s.starved i o true tile.rows tile.len = true → exec (.tld i o) s = .next (s.stall i .weightStarve)) ∧
        (s.starved i o true tile.rows tile.len = false →
          exec (.tld i o) s = .next (s.finish i (tileRows i o true again (tile.rows - r) r u)))) ∧
      (s.tileReadBusy i o.tile.toNat = false →
        exec (.tst i o) s = .next (s.finish i (tileRows i o false again (tile.rows - r) r u))))

/-- R86: `tvrd` and `tvwr` move one half of a row, 256 bytes, between a tile and a vector register; a marked row index
bites, and an index or half outside the tile faults with TILE_BOUNDS. -/
def Obligations.TileRowMoves : Prop :=
  ∀ (i : At) (tile : TReg) (v : VReg) (sRow : SReg) (half : Bool) (s : State), s.ready i →
    s.tileHeld i tile.toNat = false →
    let x := (s.core i.core).img.tile tile.toNat
    let r := (s.sval i sRow).val.toNat % 256
    let inside := x.configured && decide (r < x.rows) && !(half && decide (x.len ≤ 256))
    let h := if half then 256 else 0
    let old := leBytes x.len (x.row r).val.toNat
    ((s.sval i sRow).bz = true →
      exec (.tvrd i tile v sRow half) s = .next (s.faultStream i codeBlazeBite 0) ∧
      exec (.tvwr i tile v sRow half) s = .next (s.faultStream i codeBlazeBite 0)) ∧
    ((s.sval i sRow).bz = false → inside = false →
      exec (.tvrd i tile v sRow half) s = .next (s.faultStream i codeTileBounds 0) ∧
      exec (.tvwr i tile v sRow half) s = .next (s.faultStream i codeTileBounds 0)) ∧
    ((s.sval i sRow).bz = false → inside = true →
      (s.tileReadBusy i tile.toNat = false →
        GivesVector i v (.tvrd i tile v sRow half) s
          (BitVec.ofNat 2048 (leNat ((old.drop h).take 256))) (x.row r).bz) ∧
      (s.tileWriteBusy i tile.toNat = false →
        ∃ t, exec (.tvwr i tile v sRow half) s = .next t ∧ OnlyCore i.core s t ∧
          ((t.core i.core).img.tile tile.toNat).row r =
            ⟨BitVec.ofNat 4096 (leNat ((old.take h ++ (leBytes 256 (s.vval i v).val.toNat).take (x.len - h) ++
              old.drop (h + 256)).take x.len)),
             if 256 < x.len then (x.row r).bz || (s.vval i v).bz else (s.vval i v).bz⟩ ∧
          (∀ k, k ≠ r → ((t.core i.core).img.tile tile.toNat).row k = x.row k) ∧
          (∀ n, n ≠ tile.toNat → (t.core i.core).img.tile n = (s.core i.core).img.tile n) ∧
          (t.core i.core).img.store = (s.core i.core).img.store ∧
          t.stream i = (s.stream i).next))

/-! ### The A class (R100–R112) -/

/-- R101, R103, R108, R116, R125: an `mma` or `mmaz` that passes its checks, owns the slot, is not withheld by the ramp and
fits its slot stands in flight with its words and marks; no accumulator changes until it retires. One that fails a check
faults at issue; one without its slot, or that the ramp withholds, or that does not fit, waits under its cause. -/
def Obligations.ArrayMultiplyIssues : Prop :=
  ∀ (i : At) (o : MmaOp) (z : Bool) (s : State), s.ready i → o.opa ≠ 3 → o.opw ≠ 3 →
    s.tileHeld i o.ta.toNat = false → s.tileHeld i o.tw.toNat = false →
    let c : Instr := if z then .mmaz i o else .mma i o
    let k := s.core i.core
    let st := (s.stream i).strict
    let level := s.shimLevel i.core
    let on := s.shimOn i.core
    let len := k.img.slotCycles
    (∀ code, mmaCheck s i.core o = .error code → exec c s = .next (s.faultStream i code 0)) ∧
    (∀ g, mmaCheck s i.core o = .ok g → s.accBusy i.core o.acc.toNat = false →
      s.tileReadBusy i o.ta.toNat = false → s.tileReadBusy i o.tw.toNat = false →
      let lp := mmaCycles o g st
      let occ := occupancy k.arr (!k.arr.slotRun && (s.stream i).slotWait == some true) o.form.toNat (groupClass g) lp.1 lp.2
      let mine : Prop := k.slotOwner = i.stream.ownerCode
      let withheld : Bool := on && k.arr.cap == 0 && decide (0 < level)
      (¬ mine → exec c s = .next ((s.slotWaits i).stall i .slotIdle)) ∧
      (mine → withheld = true → exec c s = .next ((s.ramps i.core).stall i .power)) ∧
      (mine → withheld = false → k.arr.fits occ len level on = false → exec c s = .next ((s.slotWaits i).stall i .other)) ∧
      (mine → withheld = false → k.arr.fits occ len level on = true →
        let ops := operandOf k.latches (b2n o.la) o.opa.toNat o.ta.toNat (k.img.tile o.ta.toNat) o.tra o.arow.toNat
          o.koff.toNat
        let opw := operandOf ops.2 (2 + b2n o.lw) o.opw.toNat o.tw.toNat (k.img.tile o.tw.toNat) o.trw 0 0
        let r := mmaResult st o z g (k.img.tile o.ta.toNat) (k.img.tile o.tw.toNat) ops.1 opw.1 (k.img.acc o.acc.toNat)
        ∃ t, exec c s = .next t ∧ OnlyCore i.core s t ∧
          (t.core i.core).inflight = k.inflight ++ [⟨i.stream, o.ta.toNat, o.tw.toNat, o.acc.toNat,
            (r.1.map fun q => q.2.map fun w => (w.1, BitVec.ofNat 32 w.2.bits)).flatten, r.2⟩] ∧
          (t.core i.core).latches = opw.2 ∧
          (t.core i.core).arr = k.arr.run o.form.toNat (groupClass g) occ lp.2 len level on ∧
          (t.core i.core).img = k.img.readyAhead.setStream i.stream (s.stream i).next))

/-- R108, R64: the oldest array instruction of a core retires: its words and marks are in its accumulator, every other
word and mark of it as before, and nothing but that accumulator and the list of instructions in flight changes. With none
in flight nothing changes. -/
def Obligations.ArrayMultiplyRetires : Prop :=
  ∀ (core : Nat) (s : State),
    ((s.core core).inflight = [] → exec (.mmaRetire core) s = .next s) ∧
    ∀ f fs, (s.core core).inflight = f :: fs → ∃ t, exec (.mmaRetire core) s = .next t ∧
      t = { s with cores := t.cores } ∧ (∀ d, d ≠ core → t.core d = s.core d) ∧
      t.core core = { s.core core with
        inflight := fs, img := { (s.core core).img with accs := (t.core core).img.accs } } ∧
      (∀ a, a ≠ f.acc → (t.core core).img.acc a = (s.core core).img.acc a) ∧
      ((t.core core).img.acc f.acc) = (((s.core core).img.acc f.acc).setWords f.words).setSegs f.segs ∧
      (∀ w, w ∉ f.words.map Prod.fst → ((t.core core).img.acc f.acc).word w = ((s.core core).img.acc f.acc).word w) ∧
      ((f.words.map Prod.fst).Nodup → ∀ p ∈ f.words, ((t.core core).img.acc f.acc).word p.1 = p.2) ∧
      (∀ g, g < 32 → g ∉ f.segs.map Prod.fst → ((t.core core).img.acc f.acc).seg g = ((s.core core).img.acc f.acc).seg g) ∧
      ((f.segs.map Prod.fst).Nodup → ∀ p ∈ f.segs, p.1 < 32 → ((t.core core).img.acc f.acc).seg p.1 = p.2)

/-- R111: `accz`, `accrd`, `accwr` and `accadd`. The index is the low four bits of the scalar, which bites where marked;
64 words move, and each of the two segments takes its mark. -/
def Obligations.AccumulatorMoves : Prop :=
  ∀ (i : At) (v : VReg) (sIdx : SReg) (acc : BitVec 2) (s : State), s.ready i → s.accBusy i.core acc.toNat = false →
    let a := (s.core i.core).img.acc acc.toNat
    let x := s.vval i v
    let q := (s.sval i sIdx).val.toNat % 16
    let st := (s.stream i).strict
    let word (k : Nat) : FVal := readElement st .fp32 (a.word (64 * q + k)).toNat
    let lane (k : Nat) : FVal := readElement st .fp32 ((unpack 32 64 x.val.toNat).getD k 0)
    let writes (c : Instr) (w : Nat → W32) (m0 m1 : Bool) : Prop := ∃ t, exec c s = .next t ∧ OnlyCore i.core s t ∧
      (∀ k, k < 64 → ((t.core i.core).img.acc acc.toNat).word (64 * q + k) = w k) ∧
      (∀ k, k < 64 * q ∨ 64 * q + 64 ≤ k → ((t.core i.core).img.acc acc.toNat).word k = a.word k) ∧
      ((t.core i.core).img.acc acc.toNat).seg (2 * q) = m0 ∧ ((t.core i.core).img.acc acc.toNat).seg (2 * q + 1) = m1 ∧
      (∀ b, b ≠ acc.toNat → (t.core i.core).img.acc b = (s.core i.core).img.acc b) ∧
      (t.core i.core).img.tiles = (s.core i.core).img.tiles ∧
      t.stream i = (s.stream i).next
    (∃ t, exec (.accz i acc) s = .next t ∧ OnlyCore i.core s t ∧ (t.core i.core).img.acc acc.toNat = {} ∧
      (∀ b, b ≠ acc.toNat → (t.core i.core).img.acc b = (s.core i.core).img.acc b) ∧
      t.stream i = (s.stream i).next) ∧
    ((s.sval i sIdx).bz = true → ∀ c ∈ [Instr.accrd i v sIdx acc, .accwr i v sIdx acc, .accadd i v sIdx acc],
      exec c s = .next (s.faultStream i codeBlazeBite 0)) ∧
    ((s.sval i sIdx).bz = false →
      GivesVector i v (.accrd i v sIdx acc) s
        (BitVec.ofNat 2048 (pack 32 ((List.range 64).map fun k => (a.word (64 * q + k)).toNat)))
        (a.seg (2 * q) || a.seg (2 * q + 1)) ∧
      writes (.accwr i v sIdx acc) (fun k => BitVec.ofNat 32 ((unpack 32 64 x.val.toNat).getD k 0)) x.bz x.bz ∧
      writes (.accadd i v sIdx acc)
        (fun k => BitVec.ofNat 32 (result st .fp32 (addVal st (word k) (lane k))).bits)
        (a.seg (2 * q) || x.bz) (a.seg (2 * q + 1) || x.bz))

/-- R112: `acct` writes accumulator rows, converted to the tile's format, into tile rows with their segments' marks; rows
outside the form or the tile fault with TILE_BOUNDS. -/
def Obligations.AccumulatorRowsToTile : Prop :=
  ∀ (i : At) (o : AcctOp) (f : Fmt) (s : State), s.ready i → s.tileHeld i o.tile.toNat = false →
    let tile := (s.core i.core).img.tile o.tile.toNat
    let a := (s.core i.core).img.acc o.acc.toNat
    let form := o.form.toNat
    let cnt := o.countM1.toNat + 1
    let inside := decide (o.arow.toNat + cnt ≤ formK form) && decide (o.trow.toNat + cnt ≤ tile.rows)
    tile.configured = true → Fmt.ofCode tile.fmt = some f →
    (inside = false → exec (.acct i o) s = .next (s.faultStream i codeTileBounds 0)) ∧
    (inside = true → s.accBusy i.core o.acc.toNat = false → s.tileWriteBusy i o.tile.toNat = false →
      ∃ t, exec (.acct i o) s = .next t ∧
        (∀ j, j < cnt → ((t.core i.core).img.tile o.tile.toNat).row (o.trow.toNat + j) =
          ⟨BitVec.ofNat 4096 (acctRow (s.stream i) (s.free + 1024 * j) f tile.len ((List.range (formN form)).map fun c =>
            (a.word ((o.arow.toNat + j) * formN form + c)).toNat)).1,
           (List.range (2 ^ form)).any fun g => a.seg ((o.arow.toNat + j) * 2 ^ form + g)⟩) ∧
        (∀ r, r < o.trow.toNat ∨ o.trow.toNat + cnt ≤ r → ((t.core i.core).img.tile o.tile.toNat).row r = tile.row r) ∧
        (∀ n, n ≠ o.tile.toNat → (t.core i.core).img.tile n = (s.core i.core).img.tile n) ∧
        (t.core i.core).img.accs = (s.core i.core).img.accs ∧
        t.stream i = (s.stream i).next ∧ t.mem = s.mem ∧
        (∀ d, d ≠ i.core → t.core d = s.core d))

/-! ### The K class (R131–R138) -/

/-- R121, R131, R134, R135, R341: `fnb` and `fsb`. Tiles of different shapes or formats, and rows outside any tile that the
mode uses, fault with TILE_BOUNDS; a marked sH bites; else the instruction completes with its cycles of the vector engine
counted, for which it occupies the engine; STAT mode leaves every tile and the core store as they are, and APPLY mode every
tile but the destination. While the engine is occupied the next instruction for it is held back, under OTHER. -/
def Obligations.BackwardKernelsComplete : Prop :=
  (∀ (i : At) (p : FsbOp) (f : Fmt) (s : State), s.ready i → (s.core i.core).vectorBy = none →
    0 < (s.core i.core).vectorLeft →
    let used := [p.ty.toNat, p.tg.toNat] ++ (if p.mode then [p.td.toNat] else [])
    used.any (s.tileHeld i) = false → kernelShape (used.map (s.core i.core).img.tile) = some f →
    (used.any fun t => decide (((s.core i.core).img.tile t).rows < p.row0.toNat + (p.countM1.toNat + 1))) = false →
    ([p.ty.toNat, p.tg.toNat].any (s.tileReadBusy i)) = false → (p.mode && s.tileWriteBusy i p.td.toNat) = false →
    exec (.fsb i p) s = .next (s.stall i .other)) ∧
  ∀ (i : At) (o : FnbOp) (p : FsbOp) (s : State), s.readyOn .vector i →
    let u0 := s.takeUnit i .vector
    let m := (s.core i.core).img
    let nUsed := [o.tx.toNat, o.tg.toNat] ++ (if o.mode then [o.td.toNat] else []) ++ [o.tp.toNat]
    let ends (u : State) (f : Fmt) (tile : TReg) (count : Nat) : State :=
      (u.vectorCycles i (kernelCycles f (m.tile tile.toNat).len count)).retired i
    let sUsed := [p.ty.toNat, p.tg.toNat] ++ (if p.mode then [p.td.toNat] else [])
    let nIn := !(nUsed.any fun t => decide ((m.tile t).rows < o.row0.toNat + (o.countM1.toNat + 1))) &&
      decide (o.grow.toNat < (m.tile o.tp.toNat).rows)
    let sIn := !(sUsed.any fun t => decide ((m.tile t).rows < p.row0.toNat + (p.countM1.toNat + 1)))
    let idle (reads writes : List Nat) : Bool := !reads.any (s.tileReadBusy i) && !writes.any (s.tileWriteBusy i)
    (nUsed.any (s.tileHeld i) = false →
      ((s.sval i o.sH).bz = true → exec (.fnb i o) s = .next (s.faultStream i codeBlazeBite 0)) ∧
      ((s.sval i o.sH).bz = false → (kernelShape (nUsed.map m.tile) = none ∨ nIn = false) →
        exec (.fnb i o) s = .next (s.faultStream i codeTileBounds 0)) ∧
      (∀ f, (s.sval i o.sH).bz = false → kernelShape (nUsed.map m.tile) = some f → nIn = true →
        (o.mode = false → idle [o.tx.toNat, o.tg.toNat, o.tp.toNat] [] = true → s.accBusy i.core o.acc.toNat = false →
          exec (.fnb i o) s = .next (ends (fnbStat i o f u0) f o.tx (o.countM1.toNat + 1)) ∧
          (ends (fnbStat i o f u0) f o.tx (o.countM1.toNat + 1)).core i.core =
            { (ends (fnbStat i o f u0) f o.tx (o.countM1.toNat + 1)).core i.core with
              img := { ((ends (fnbStat i o f u0) f o.tx (o.countM1.toNat + 1)).core i.core).img with tiles := m.tiles, store := m.store } }) ∧
        (o.mode = true → idle [o.tx.toNat, o.tg.toNat, o.tp.toNat] [o.td.toNat] = true →
          exec (.fnb i o) s = .next (ends (fnbApply i o f u0) f o.tx (o.countM1.toNat + 1)) ∧
          ∀ n, n ≠ o.td.toNat → ((ends (fnbApply i o f u0) f o.tx (o.countM1.toNat + 1)).core i.core).img.tile n = m.tile n))) ∧
    (sUsed.any (s.tileHeld i) = false →
      ((kernelShape (sUsed.map m.tile) = none ∨ sIn = false) →
        exec (.fsb i p) s = .next (s.faultStream i codeTileBounds 0)) ∧
      (∀ f, kernelShape (sUsed.map m.tile) = some f → sIn = true →
        (p.mode = false → idle [p.ty.toNat, p.tg.toNat] [] = true →
          exec (.fsb i p) s = .next (ends (fsbStat i p f u0) f p.ty (p.countM1.toNat + 1)) ∧ OnlyStream i s (ends (fsbStat i p f u0) f p.ty (p.countM1.toNat + 1))) ∧
        (p.mode = true → idle [p.ty.toNat, p.tg.toNat] [p.td.toNat] = true →
          exec (.fsb i p) s = .next (ends (fsbApply i p f u0) f p.ty (p.countM1.toNat + 1)) ∧
          ∀ n, n ≠ p.td.toNat → ((ends (fsbApply i p f u0) f p.ty (p.countM1.toNat + 1)).core i.core).img.tile n = m.tile n)))

/-! ### The P class (R148–R170) -/

/-- R153, R160, R334: `gset` writes one 32-bit word of a group's descriptor, sVal + IMM32, with sVal's mark; `upd.commit`
advances the shard's version by one, modulo 2^32, and sd receives it. A marked group or shard number bites; a group or shard
that is not the tenancy's is denied; a request that its stack, its way, the tracker or the port holds waits under that cause.
The model's choice: a write that no window permits stops the stream with ACCESS and the physical address (DEDUCED, log
entry 140). -/
def Obligations.GroupWordsAndVersions : Prop :=
  ∀ (i : At) (sGrp sVal sd sShard : SReg) (word : BitVec 5) (imm : Imm) (s : State), s.ready i →
    let g := s.sval i sGrp
    let v := s.sval i sVal
    let n := g.val.toNat % 4096
    let pa := s.gdescPa n + 4 * word.toNat
    let ten := s.tenOf i.core
    let ok (a : Nat) : Bool := s.memOk (masterTen ten) a 4 true
    let no (c : Instr) (a : Nat) : Prop :=
      exec c s = .next (s.finish i (.faultAfter ((s.request i.core 1).memDenied (masterTen ten) a true) codeAccess a))
    let x := s.sval i sShard
    let e := s.shard (x.val.toNat % 65536)
    (g.bz = true → exec (.gset i sGrp sVal word imm) s = .next (s.faultStream i codeBlazeBite 0)) ∧
    (g.bz = false → s.groupOk ten n = false →
      exec (.gset i sGrp sVal word imm) s = .next (s.faultStream i codeAccess 0)) ∧
    (g.bz = false → s.groupOk ten n = true →
      (∀ k, s.requestHeld i pa = some k → exec (.gset i sGrp sVal word imm) s = .next (s.stall i k)) ∧
      (s.requestHeld i pa = none → ok pa = false → no (.gset i sGrp sVal word imm) pa) ∧
      (s.requestHeld i pa = none → ok pa = true → exec (.gset i sGrp sVal word imm) s =
        .next ((((s.request i.core 1).memWrite pa (leBytes 4 ((v.val + imm.signExtend 64).toNat % 2 ^ 32)) v.bz).writeMark
          i.core (pa / 64)).retired i))) ∧
    (x.bz = true → exec (.updCommit i sd sShard) s = .next (s.faultStream i codeBlazeBite 0)) ∧
    (x.bz = false → ∀ k, s.requestHeld i e.pa = some k → exec (.updCommit i sd sShard) s = .next (s.stall i k)) ∧
    (x.bz = false → s.requestHeld i e.pa = none →
      ((s.shardOk ten e = false ∨ s.homeStack i.core ≠ e.stack) →
        exec (.updCommit i sd sShard) s = .next (s.faultStream i codeAccess 0)) ∧
      (s.shardOk ten e = true → s.homeStack i.core = e.stack →
        (ok (e.pa + 16) = false → no (.updCommit i sd sShard) (e.pa + 16)) ∧
        (ok (e.pa + 16) = true → ∃ t, exec (.updCommit i sd sShard) s = .next t ∧
          t = ((((s.request i.core 1).touchTables e none).advanceVersion e).putS i sd
            (BitVec.ofNat 64 ((e.version + 1) % 2 ^ 32)) false).retired i ∧
          (sd ≠ 0 → t.sval i sd = ⟨BitVec.ofNat 64 ((e.version + 1) % 2 ^ 32), false⟩))))

/-- R121, R156, R161, R170, R334, Table 6.7: `upd` takes the vector engine and stops in the order of its checks, with no
effect; else it updates its blocks in order, and ends with the last of them, or in FAULTED where `runUpdate` stops: at the
first block with a marked granule or with a range that no window permits, with its code and address. While what it reads
cannot be reached it waits, before any block. That a denied range stops it with ACCESS is the model's reading (DEDUCED, log
entry 104). -/
def Obligations.UpdateRunsItsBlocks : Prop :=
  ∀ (i : At) (sShard sBlk sSc : SReg) (countM1 : BitVec 4) (s : State), s.readyOn .vector i →
    let v := s.takeUnit i .vector
    let a := s.sval i sShard
    let b := s.sval i sBlk
    let c := s.sval i sSc
    let e := s.shard (a.val.toNat % 65536)
    let d := s.gdesc e.group
    let n := countM1.toNat + 1
    let bs := (List.range n).map (· + b.val.toNat)
    let cmd : Instr := .upd i sShard sBlk sSc countM1
    let fault (code addr : Nat) : Prop := exec cmd s = .next (s.faultStream i code addr)
    ((a.bz || b.bz || c.bz) = true → fault codeBlazeBite 0) ∧
    ((a.bz || b.bz || c.bz) = false → ∀ k, v.tablesHeld i e d.pa = some k → exec cmd s = .next (v.stall i k)) ∧
    ((a.bz || b.bz || c.bz) = false → v.tablesHeld i e d.pa = none →
      (∀ code addr, updCheck i e d v = some (code, addr) → fault code addr) ∧
      (updCheck i e d v = none →
        (e.blocks < b.val.toNat + n → fault codeTileBounds 0) ∧
        (b.val.toNat + n ≤ e.blocks → (bs.all fun k => addrOk e d (e.blockLen k) k) = false → fault codeAccess 0) ∧
        (b.val.toNat + n ≤ e.blocks → (bs.all fun k => addrOk e d (e.blockLen k) k) = true →
          (v.blocksCut i.core e d bs = true → exec cmd s = .next (v.stall i .memLimit)) ∧
          (v.blocksCut i.core e d bs = false →
            ∀ (u : State) (r : Option (Nat × Nat)), runUpdate i e d c.val bs (v.touchTables e (some d.pa)) = (u, r) →
              exec cmd s = .next (s.finish i (match r with
                | none => .done u
                | some f => .faultAfter u f.1 f.2))))))

/-- R164: `tally.add` and `tally.addv` send one mark for each row they name to the shard's unit, in order: the marks on
their way grow by those, each as a message of the control plane, the shard's entry is read by a request, and the
instruction retires with no other effect; a row outside the shard faults with TILE_BOUNDS and a shard that is not the
tenancy's with ACCESS, with no effect; while the control plane is full for the core, the stream waits under SYNC (R241;
DEDUCED, log entry 138). `tally.clr` clears a group's marks, walks and flag in the home stack's unit, and retires with no
other effect; behind the core's own marks for that unit it waits (R32; DEDUCED, log entry 138). R32, R163, R166, R168: a
mark that arrives leaves the marks on their way. One that was marked is dropped and counted; any other is kept once,
stored while its unit has fewer than 131,072 entries, and else sets its group's overflow flag and is counted; one for a
row in which a walk stands is noted for the next walk. It changes no other unit's marks and nothing else of the device but
that its message leaves the network. One behind an earlier mark of its core to the same unit, on its way, not accepted by
the control plane (R241), or cut off by a halted node, waits. That a lane of `tally.addv` is an unsigned row number is log
entry 154 (DESIGN CHOICE). -/
def Obligations.TallyMarksTravelAndAreKept : Prop :=
  (∀ (i : At) (sShard sRow : SReg) (va : VReg) (pred : BitVec 4) (pneg : Bool) (m : BitVec 256) (s : State), s.ready i →
     predMask (s.stream i) pred pneg = some m →
     let j := (s.sval i sShard).val.toNat % 65536
     let e := s.shard j
     let r := s.sval i sRow
     let v := s.vval i va
     let rows := ((lanesOf .int32 v.val).zipIdx.filter fun p => laneOn m (4 * p.2)).map Prod.fst
     let u := (s.touchTables e none).request i.core 1
     let sends (c : Instr) (rs : List Nat) (bz : Bool) : Prop :=
       (s.shardOk (s.tenOf i.core) e = false → exec c s = .next (s.faultStream i codeAccess 0)) ∧
       (s.shardOk (s.tenOf i.core) e = true → bz = false → (∃ q ∈ rs, e.rows ≤ q) →
         exec c s = .next (s.faultStream i codeTileBounds 0)) ∧
       (s.shardOk (s.tenOf i.core) e = true → (bz = true ∨ ∀ q ∈ rs, q < e.rows) →
         (s.planeFull i.core = true → exec c s = .next (s.stall i .sync)) ∧
         (s.planeFull i.core = false → exec c s = .next (State.retired { u with
           tally := { s.tally with msgs := s.tally.msgs ++ rs.zipIdx.map fun q =>
             { stack := e.stack, mark := ⟨j, q.1, e.group⟩, bz := bz, src := i, id := s.noc.nextId + q.2 } }
           noc := { s.noc with nextId := s.noc.nextId + rs.length } } i)))
     (s.requestHeld i e.pa = none →
       sends (.tallyAdd i sShard sRow) [r.val.toNat] r.bz ∧ sends (.tallyAddv i sShard va pred pneg) rows v.bz) ∧
     (∀ k, s.requestHeld i e.pa = some k → ∀ c ∈ [Instr.tallyAdd i sShard sRow, .tallyAddv i sShard va pred pneg],
       exec c s = .next (s.stall i k))) ∧
  (∀ (i : At) (sGrp : SReg) (s : State), s.ready i →
     let x := s.sval i sGrp
     let g := x.val.toNat % 4096
     let st := s.homeStack i.core
     (x.bz = true → exec (.tallyClr i sGrp) s = .next (s.faultStream i codeBlazeBite 0)) ∧
     (x.bz = false → s.groupOk (s.tenOf i.core) g = false →
       exec (.tallyClr i sGrp) s = .next (s.faultStream i codeAccess 0)) ∧
     let waits := s.tally.msgs.any (fun m => m.src.core == i.core && m.stack == st) || s.planeFull i.core
     (x.bz = false → s.groupOk (s.tenOf i.core) g = true → waits = true → exec (.tallyClr i sGrp) s = .next (s.stall i .sync)) ∧
     (x.bz = false → s.groupOk (s.tenOf i.core) g = true → waits = false →
       ∃ t : State, exec (.tallyClr i sGrp) s = .next (t.retired i) ∧ t = { s with tally := t.tally } ∧
         t.marks st = (s.marks st).filter (fun m => m.group != g) ∧ (∀ k, k ≠ st → t.marks k = s.marks k) ∧
         t.tally.ovf = NSet.sub s.tally.ovf (4096 * st + g) ∧ t.tally.msgs = s.tally.msgs ∧
         t.tally.walks = s.tally.walks.filter fun w => !(w.stack == st && w.mark.group == g))) ∧
  (∀ (n : Nat) (s : State),
     (s.tally.msgs[n]? = none → exec (.tallyMarkArrival n) s = .next s) ∧
     ∀ x, s.tally.msgs[n]? = some x →
       let off := memBase x.stack + 0x8000
       let ms := s.marks x.stack
       let known := ms.any fun m => m.shard == x.mark.shard && m.row == x.mark.row
       let stands (w : TallyWalk) : Bool := w.stack == x.stack && w.mark.shard == x.mark.shard && w.mark.row == x.mark.row
       let noted := s.tally.walks.map fun w => if stands w then { w with again := true } else w
       (s.markWaits n x = true → exec (.tallyMarkArrival n) s = .next s) ∧
       (s.markWaits n x = false → ∃ t, exec (.tallyMarkArrival n) s = .next t ∧
         t = { s with regs := t.regs, tally := t.tally, noc := (s.takeOut (.control (.mark x.id))).noc } ∧
         t.tally.msgs = s.tally.msgs.eraseIdx n ∧
         (∀ k, k ≠ x.stack → t.marks k = s.marks k) ∧ (∀ k, k ≠ off → t.reg k = s.reg k) ∧
         (x.bz = true → t.tally.marks = s.tally.marks ∧ t.tally.ovf = s.tally.ovf ∧ t.tally.walks = s.tally.walks ∧
           t.field off 63 48 = min (s.field off 63 48 + 1) 65535) ∧
         (x.bz = false → t.tally.walks = noted) ∧
         (x.bz = false → known = true → t.marks x.stack = ms ∧ t.tally.ovf = s.tally.ovf ∧ t.regs = s.regs) ∧
         (x.bz = false → known = false → ms.length < 131072 →
           t.marks x.stack = ms ++ [x.mark] ∧ t.tally.ovf = s.tally.ovf ∧ t.regs = s.regs) ∧
         (x.bz = false → known = false → 131072 ≤ ms.length → t.marks x.stack = ms ∧
           t.tally.ovf = NSet.add s.tally.ovf (4096 * x.stack + x.mark.group) ∧
           t.field off 47 32 = min (s.field off 47 32 + 1) 65535)))

/-- R121, R161, R165, R167, R170, Table 6.7: `upd.tally` stops, with no effect, at the first of its checks: a marked operand,
those that it shares with `upd`, a ROW_LEN that is no multiple of 32, a block with a range outside the tenancy's, and an
overflow flag under OVF_FAULT, with TALLY_OVERFLOW. A walk that finds no further marked row writes all ones to the cursor
and updates no block; one that finds a row updates up to COUNT of its blocks and, with the row at its end, clears the
row's mark, but for one that came meanwhile, and moves the cursor to the next row; else the walk stands in the row. A walk
that stops at a block leaves the cursor. The model's choices: a denied range of a block stops the walk with ACCESS
(DEDUCED, log entry 104), a BLOCK past the row's blocks faults with TILE_BOUNDS (DESIGN CHOICE, log entry 141), and the walk
reads the unit behind none of the marks on their way (DESIGN CHOICE, log entry 149). -/
def Obligations.TallyWalkAdvancesCursor : Prop :=
  ∀ (i : At) (sShard sCur sSc sPart : SReg) (countM1 : BitVec 4) (s : State), s.readyOn .vector i →
    let v := s.takeUnit i .vector
    let a := s.sval i sShard
    let cur := s.sval i sCur
    let c := s.sval i sSc
    let part := s.sval i sPart
    let j := a.val.toNat % 65536
    let e := s.shard j
    let d := s.gdesc e.group
    let cmd : Instr := .updTally i sShard sCur sSc sPart countM1
    let fault (code addr : Nat) : Prop := exec cmd s = .next (s.faultStream i code addr)
    let target := s.walkFromCursor e j (bits 15 0 part.val.toNat) (bits 31 16 part.val.toNat) cur.val.toNat
    let bs := match target with
      | some (r, b) => (List.range (min (countM1.toNat + 1) (e.rowBlocks r - b))).map (· + r * (e.rowLen / 32) + b)
      | none => []
    let past := ∃ r b, target = some (r, b) ∧ e.rowBlocks r ≤ b
    let inside := bs.all fun k => addrOk e d (e.blockLen k) k
    let flagged := d.ovfFault && s.tallyOvf e.stack e.group
    let s0 := (v.touchTables e (some d.pa)).takeRow e.stack j target
    let s1 := if cur.val = 0 && s.tallyOvf e.stack e.group then s0.updCount i.core 48 else s0
    ((a.bz || cur.bz || c.bz || part.bz) = true → fault codeBlazeBite 0) ∧
    ((a.bz || cur.bz || c.bz || part.bz) = false → ∀ k, v.tablesHeld i e d.pa = some k → exec cmd s = .next (v.stall i k)) ∧
    ((a.bz || cur.bz || c.bz || part.bz) = false → v.tablesHeld i e d.pa = none →
      (∀ code addr, updCheck i e d v = some (code, addr) → fault code addr) ∧
      (updCheck i e d v = none →
        (e.rowLen % 32 ≠ 0 → fault codeTileBounds 0) ∧
        (e.rowLen % 32 = 0 → past → fault codeTileBounds 0) ∧
        (e.rowLen % 32 = 0 → ¬ past → inside = false → fault codeAccess 0) ∧
        (e.rowLen % 32 = 0 → ¬ past → inside = true → flagged = true → fault codeTallyOverflow 0) ∧
        (e.rowLen % 32 = 0 → ¬ past → inside = true → flagged = false → v.blocksCut i.core e d bs = true →
          exec cmd s = .next (v.stall i .memLimit)) ∧
        (e.rowLen % 32 = 0 → ¬ past → inside = true → flagged = false → v.blocksCut i.core e d bs = false →
          (∀ u f, runUpdate i e d c.val bs s1 = (u, some f) → exec cmd s = .next (s.finish i (.faultAfter u f.1 f.2))) ∧
          (∀ u, runUpdate i e d c.val bs s1 = (u, none) →
            (target = none → exec cmd s = .next (s.finish i (.done (u.putS i sCur (BitVec.allOnes 64) false)))) ∧
            (∀ r b, target = some (r, b) → e.rowBlocks r ≤ b + bs.length →
              exec cmd s = .next (s.finish i (.done ((u.clearRow e.stack j r).putS i sCur (BitVec.ofNat 64 (r + 1)) false)))) ∧
            (∀ r b, target = some (r, b) → b + bs.length < e.rowBlocks r →
              exec cmd s = .next (s.finish i (.done ((u.standIn e.stack ⟨j, r, e.group⟩).putS i sCur
                (BitVec.ofNat 64 (r + 2 ^ 32 * (b + bs.length))) false))))))))

/-! ### The M class, the near cache and the translation cache (R91–R95, R227–R231, R435) -/

/-- R91, R92, R95, R96: `ncflush`, `ncinv` and `ncfi` over the lines of their range, which for a length of zero is the whole
cache: the dirty ones are written back, the lines invalidated, or both, and nothing else; a walk of the range that is held,
or a write-back that its stack, its way, the tracker or the port holds, makes the instruction wait. `mfence` retires once
nothing earlier of its stream is outstanding; `xcinv` drops the translations of its address, all of them for address 0. The
model's choices: a range over pages that do not translate retires without a fault (DEDUCED, log entry 29), and `mfence`
does not wait for accumulate deliveries (DEDUCED, log entry 38). -/
def Obligations.NearCacheMaintenance : Prop :=
  ∀ (i : At) (sa sb : SReg) (s : State), s.ready i →
    let a := (s.sval i sa).val.toNat
    let n := (s.sval i sb).val.toNat
    let r := s.rangeLines i a n
    (n = 0 → r = .ok ((s.core i.core).nc.map Prod.fst) s) ∧
    (∀ u k, r = .held u k → ∀ c ∈ [Instr.ncflush i sa sb, .ncfi i sa sb, .ncinv i sa sb], exec c s = .next (u.stall i k)) ∧
    (∀ ls u, r = .ok ls u →
      (∀ k, u.flushHeld i ls = some k → ∀ c ∈ [Instr.ncflush i sa sb, .ncfi i sa sb], exec c s = .next (u.stall i k)) ∧
      (u.flushHeld i ls = none →
        exec (.ncflush i sa sb) s = .next ((u.flushLines i.core ls).retired i) ∧
        exec (.ncfi i sa sb) s = .next (((u.flushLines i.core ls).invLines i.core ls).retired i)) ∧
      exec (.ncinv i sa sb) s = .next ((u.invLines i.core ls).retired i) ∧
      (SMap.wf (s.core i.core).nc = true → ∀ l,
        (u.invLines i.core ls).ncLine i.core l = (if l ∈ ls then none else s.ncLine i.core l) ∧
        (l ∈ ls → u.flushHeld i ls = none → ((u.flushLines i.core ls).ncLine i.core l).any NcLine.dirty = false)) ∧
      (u.invLines i.core ls).mem = u.mem) ∧
    (s.fenceBusy i = true → exec (.mfence i) s = .next (s.stall i .sync)) ∧
    (s.fenceBusy i = false → exec (.mfence i) s = .next (s.retired i)) ∧
    ∃ t : State, exec (.xcinv i sa) s = .next (t.retired i) ∧ t = { s with cores := t.cores } ∧
      (∀ d, d ≠ i.core → t.core d = s.core d) ∧ t.core i.core = { s.core i.core with
        tlb := if a = 0 then [] else (s.core i.core).tlb.filter fun e => !e.maps a }

/-- R91, R94, R229, R435: a fill through a cached translation brings the line as its stack delivers it, with both grants as
the windows give them; a write-back stores the line and its mark and leaves it clean, and one that is denied drops it; one
that its stack, its way, the tracker or the port holds back changes nothing. The maintenance registers write back what is
not held, invalidate every line, and drop translations. Run-ahead reads nothing without a cached translation, and what the
prefetcher may read it reads as one line after another. The model's reading: a flush or an invalidation of the whole cache
is one command that is complete at once where nothing holds a write-back (DEDUCED, log entry 80). Its choice: two lines of a
stream make an ascending run that the prefetcher follows (DESIGN CHOICE, log entry 156). -/
def Obligations.NearCacheEvents : Prop :=
  ∀ (i : At) (va l : Nat) (w fromTld inPage : Bool) (lines : Nat) (addr : BitVec 48) (s : State),
    let c := i.core
    let m := masterTen (s.tenOf c)
    let allowed (write : Bool) : Bool := s.memOk m (64 * l) 64 write
    let wb : Instr := .nearCacheWriteback c l
    (∀ e, s.canIssue i = true → va < 2 ^ 48 → (s.core c).lookup va w = some e → e.pa va / 64 = l → l < 2 ^ 33 →
      s.ncLine c l = none → s.requestHeld i (e.pa va) = none → s.roomHeld c l = false → allowed w = true →
      ∃ t, exec (.nearCacheFill i va w) s = .next t ∧ (∀ x, x ≠ i.stream → t.stream ⟨c, x⟩ = s.stream ⟨c, x⟩) ∧
        t.stream i = { s.stream i with prepared := NSet.add (s.stream i).prepared (va / 64) } ∧
        (∀ d, d ≠ c → t.core d = s.core d) ∧
        t.ncLine c l = some ⟨BitVec.ofNat 512 (leNat (s.lineView l).1), false, (s.lineView l).2 || s.readBad c l,
          (if w then allowed false else true), (if w then true else allowed true)⟩) ∧
    ((s.canIssue i = false ∨ 2 ^ 48 ≤ va) → exec (.nearCacheFill i va w) s = .next s) ∧
    (∀ v, s.ncLine c l = some v → v.dirty = true → l < 2 ^ 33 → s.writeWaits c l = false → (s.core c).ncOp = none →
      Memory.wf s.mem.bytes = true → SMap.wf s.mem.blz = true → SMap.wf (s.core c).nc = true →
      (allowed true = true → (s.stack (stackOfLine l)).state ≠ stFailed →
        ∃ t, exec wb s = .next t ∧ t.ncLine c l = some { v with dirty := false } ∧
          (∀ k, k ≠ l → t.ncLine c k = s.ncLine c k) ∧ (∀ x, t.stream ⟨c, x⟩ = s.stream ⟨c, x⟩) ∧
          t.mem.bytes.read (64 * l) 64 = leBytes 64 v.data.toNat ∧ NSet.has t.mem.blz l = (v.bz || s.wroteBad c l) ∧
          (∀ x, x < 64 * l ∨ 64 * l + 64 ≤ x → t.mem.bytes.get x = s.mem.bytes.get x) ∧ t.noc = s.noc) ∧
      (allowed true = false →
        ∃ t, exec wb s = .next t ∧ t.ncLine c l = none ∧ (∀ k, k ≠ l → t.ncLine c k = s.ncLine c k) ∧ t.mem = s.mem ∧
          t.noc.faults = s.noc.faults ++
            [⟨⟨0, codeAccess, s.tenOf c, c + 0x1000, 64 * l, 0, true, 0, 0, 0⟩, s.noc.nextId⟩])) ∧
    ((s.core c).ncOp = none → s.writeWaits c l = true → exec wb s = .next s) ∧
    ((s.core c).ncOp = none → (∀ v, s.ncLine c l = some v → v.dirty = false) → exec wb s = .next s) ∧
    ((s.core c).res = none ∨ (s.core c).tlb = [] → exec (.runAheadPrefetch c va lines fromTld inPage) s = .next s) ∧
    ((s.core c).res.isSome = true → s.runAhead ⟨c, .f⟩ (va / 64 * 64) = some l →
      exec (.runAheadPrefetch c va 1 false inPage) s = .next (s.runAheadLine c l) ∧
      ((s.ncLine c l).isSome = false → s.memHeld (64 * l) = false → s.cutOff c (64 * l) = false → s.roomHeld c l = false →
        s.poolFree c = true → s.canInject c 1 = true →
        allowed false = true → ((s.runAheadLine c l).ncLine c l).isSome = true)) ∧
    (SMap.wf (s.core c).nc = true → ∃ t, exec (.ncFlushAll c) s = .next t ∧ (t.core c).img = (s.core c).img ∧
      (∀ k v, t.ncLine c k = some v → v.dirty = true → s.writeWaits c k = true) ∧
      ((∀ k, s.writeWaits c k = false) → (t.core c).ncOp = none)) ∧
    (∃ t, exec (.ncInvAll c) s = .next t ∧ t = { s with cores := t.cores } ∧ (∀ d, d ≠ c → t.core d = s.core d) ∧
      t.core c = { s.core c with nc := [] }) ∧
    (∃ t, exec (.xlateInvGo c addr) s = .next t ∧ t.reg (coreBase c + 0x408) = addr.toNat ∧
      (∀ off, off ≠ coreBase c + 0x408 → t.reg off = s.reg off) ∧ t = { s with regs := t.regs, cores := t.cores } ∧
      (∀ d, d ≠ c → t.core d = s.core d) ∧ t.core c = { s.core c with
        tlb := if addr = 0 then [] else (s.core c).tlb.filter fun e => !e.maps addr.toNat })

/-- R226, R227, R231: a walk for a stream fills the translation cache or suspends the stream with one fault record; a walk
for the DMA unit, for its first running descriptor, fills it or suspends the unit; one whose entries cannot be read yet
changes nothing. What a walk finds is what it puts into the cache and what it gives. A suspended unit whose RESUME found its
walk held walks again (R70). -/
def Obligations.TranslationWalksFillOrSuspend : Prop :=
  ∀ (core : Nat) (x : StreamId) (va : Nat) (w : Bool) (s : State),
    let i : At := ⟨core, x⟩
    let u := (s.core core).img.dma
    let a := va % 2 ^ 48
    let here := s.resident (s.tenOf core) core
    let first := u.descs.zipIdx.find? fun p => p.1.started && !p.1.suspended
    let walk : Instr := .translationWalk core x.idx va w
    let dmaWalk : Instr := .translationWalk core 3 va w
    ((s.stream i).state = .suspended → (s.stream i).heldResume = true → here = true → exec walk s = .next (s.rewalk i)) ∧
    (((s.stream i).state ≠ .suspended ∨ (s.stream i).heldResume = false ∨ here = false) → s.canIssue i = false →
      exec walk s = .next s) ∧
    (s.canIssue i = true →
      (∀ pa t, s.translate core (some x) a w = .ok pa t → exec walk s = .next t) ∧
      (∀ t v l c, s.translate core (some x) a w = .page t v l c → exec walk s = .next (s.finish i (.page t v w l c))) ∧
      (∀ t c, s.translate core (some x) a w = .held t c → exec walk s = .next s)) ∧
    (here = true → u.suspended = true → u.resume = true → exec dmaWalk s = .next (s.dmaRewalk core (s.tenOf core))) ∧
    (here = false → exec dmaWalk s = .next s) ∧
    (here = true → (u.suspended && u.resume) = false →
      (first = none → exec dmaWalk s = .next s) ∧
      (∀ d k, first = some (d, k) →
        (∀ pa t, s.translate core (some d.stream) a w false = .ok pa t → exec dmaWalk s = .next t) ∧
        (∀ t v l c, s.translate core (some d.stream) a w false = .page t v l c →
          exec dmaWalk s = .next (t.dmaSuspend core (s.tenOf core) k v w l c)) ∧
        (∀ t c, s.translate core (some d.stream) a w false = .held t c → exec dmaWalk s = .next s))) ∧
    (∀ y as, s.walkBy core a w = (y, as) → (s.core core).lookup a w = none →
      let waits := (as.any fun p => s.memHeld p || s.cutOff core p) || (!as.isEmpty && !s.canInject core 1)
      (waits = true → s.translate core (some x) a w = .held s .xlate) ∧
      (waits = false →
        (∀ e, y = .ok e →
          ∃ t, s.translate core (some x) a w = .ok (e.pa a) t ∧ (t.core core).lookup a w = some e ∧
            (t.core core).nc = (s.core core).nc ∧ ∀ z, t.stream ⟨core, z⟩ = s.stream ⟨core, z⟩) ∧
        (∀ l c, y = .fail l c → ∃ t, s.translate core (some x) a w = .page t a l c ∧
          (t.core core).tlb = (s.core core).tlb)))

/-! ### The D class and its units (R212–R225, R232) -/

/-- R96, R213, R221, R222: `dma` and `flm` copy 64 bytes at issue, after their bites and range checks; a descriptor that
passes its checks is queued in the core's DMA unit, a request in its engine's queue; `dmaw` retires once no descriptor of its
stream is left. `dacc` sends one delivery of a vector register to the block at its address and takes a tracker entry; with
none free, with a delivery held at its router or with no room there it stalls. A `flm` whose way to its engine is cut off
waits, and one with no room at its port. Each retires and changes nothing else. The model's choices: an address whose block
lies past 2^48 faults with TILE_BOUNDS (DEDUCED, log entry 39), a `flm` travels on the channel of requests (DEDUCED, log
entry 138), deliveries to the store take cycles from the copy of the 64 bytes (DESIGN CHOICE, log entry 139), and a ROW_BYTES
above 16,777,216 is accepted (DESIGN CHOICE, log entry 155). -/
def Obligations.TransfersAreIssued : Prop :=
  ∀ (i : At) (r sMeta sSig : SReg) (va : VReg) (bf16 : Bool) (eng : BitVec 4) (s : State), s.ready i →
    let a := s.sval i r
    let n := a.val.toNat
    let img := (s.core i.core).img
    let ten := s.tenOf i.core
    let bites : Bool := a.bz || img.storeMark n 64
    let inside : Bool := decide (n % 64 = 0) && decide (n + 64 ≤ 2 ^ 21)
    let x := leNat (img.store.read n 64)
    let d := readDesc i x
    let q := s.flq eng.toNat ten
    let queued (m : CoreImage) : CoreImage := { m with dma := { m.dma with descs := m.dma.descs ++ [d] } }
    let u := s.meet i false
    let asked : State := { u with flume := { s.flume with
      queues := SMap.put s.flume.queues (4 * eng.toNat + ten) { q with reqs := q.reqs ++ [readReq x] } } }
    let m := (s.sval i sMeta).val.toNat
    let g := s.sval i sSig
    let sig := g.val.toNat
    let v := s.vval i va
    let dacc : Instr := .dacc i va r sMeta sSig bf16
    (bites = true → ∀ c ∈ [Instr.dma i r, .flm i r eng], exec c s = .next (s.faultStream i codeBlazeBite 0)) ∧
    (bites = false → inside = false →
      ∀ c ∈ [Instr.dma i r, .flm i r eng], exec c s = .next (s.faultStream i codeTileBounds 0)) ∧
    (bites = false → inside = true →
      ((dmaReservedOk x && d.shapeOk) = false → exec (.dma i r) s = .next (s.faultStream i codeTileBounds 0)) ∧
      ((dmaReservedOk x && d.shapeOk) = true → s.descAllowed ten d = false →
        exec (.dma i r) s = .next (s.faultStream i codeAccess 0)) ∧
      ((dmaReservedOk x && d.shapeOk) = true → s.descAllowed ten d = true →
        (8 ≤ img.dma.descs.length → exec (.dma i r) s = .next (s.stall i .memLimit)) ∧
        (img.dma.descs.length < 8 → exec (.dma i r) s = .next ((u.modImg i.core queued).retired i))) ∧
      let shut : Bool := decide (64 ≤ q.reqs.length) || s.cut (some (s.flmEntry i.core eng.toNat))
      (shut = true → exec (.flm i r eng) s = .next (s.stall i .memLimit)) ∧
      (shut = false → s.canInject i.core 1 = false → exec (.flm i r eng) s = .next (s.stall i .nocBp)) ∧
      (shut = false → s.canInject i.core 1 = true → exec (.flm i r eng) s = .next (asked.retired i))) ∧
    (img.dma.descs.any (fun d => d.stream == i.stream) = true → exec (.dmaw i) s = .next (s.stall i .sync)) ∧
    (img.dma.descs.any (fun d => d.stream == i.stream) = false → exec (.dmaw i) s = .next (s.retired i)) ∧
    ((a.bz || g.bz) = true → exec dacc s = .next (s.faultStream i codeBlazeBite 0)) ∧
    ((a.bz || g.bz) = false → (n % 256 ≠ 0 ∨ bits 31 16 m = 0 ∨ 2 ^ 48 < n + 256) →
      exec dacc s = .next (s.faultStream i codeTileBounds 0)) ∧
    ((a.bz || g.bz) = false → n % 256 = 0 → bits 31 16 m ≠ 0 → n + 256 ≤ 2 ^ 48 →
      ((bit 63 sig && !s.inRange ten (bits 17 0 sig)) = true → exec dacc s = .next (s.faultStream i codeAccess 0)) ∧
      ((bit 63 sig && !s.inRange ten (bits 17 0 sig)) = false →
        (s.trackFree i = false → exec dacc s = .next (s.stall i .memLimit)) ∧
        (s.trackFree i = true → s.boomHeld i.core = true → exec dacc s = .next (s.stall i .boomBp)) ∧
        (s.trackFree i = true → s.boomHeld i.core = false → s.canInject i.core 3 = false →
          exec dacc s = .next (s.stall i .nocBp)) ∧
        (s.trackFree i = true → s.boomHeld i.core = false → s.canInject i.core 3 = true →
          (∀ pa u, s.translate i.core (some i.stream) n true = .ok pa u →
            let dl : AccDelivery :=
              { ten := ten, block := pa / 256, data := v.val, bf16 := bf16, k := bits 31 16 m, bz := v.bz,
                shard := bits 15 0 m, ctx := BitVec.ofNat 32 (bits 63 32 m), n := 1, src := i, named := true, va := n,
                sig := bits 17 0 sig, sigEn := bit 63 sig, origin := u.siteOf i.core, id := u.noc.nextId }
            let sent : State := { u with accMsgs := u.accMsgs ++ [dl], noc := { u.noc with nextId := u.noc.nextId + 1 } }
            exec dacc s =
              .next (((sent.setTrack i (sent.track i + 1)).event i.core (some i.stream) evDacc 1).retired i)) ∧
          (∀ u v l c, s.translate i.core (some i.stream) n true = .page u v l c →
            exec dacc s = .next (s.finish i (.page u v true l c))) ∧
          (∀ u c, s.translate i.core (some i.stream) n true = .held u c → exec dacc s = .next (u.stall i c)))))

/-- R223–R225, R231: the DMA unit of a core. A descriptor starts, at most two at once and none while the unit is suspended,
once its wait is met, which it sends once; a row between places of the core's own store is copied there and nowhere
else; a resumed unit walks its faulting address again and goes on where it is found, and keeps the RESUME while that walk is
held; an aborted one is IDLE with every descriptor discarded. In any other state RESUME and ABORT are ignored. -/
def Obligations.DmaUnitRunsDescriptors : Prop :=
  ∀ (core t k : Nat) (d : DmaDesc) (s : State), (s.core core).res = some t → (s.core core).switching = false →
    let u := (s.core core).img.dma
    let store := (s.core core).img.store
    let with' (s : State) (v : DmaUnit) : State := s.modImageOf core t fun m => { m with dma := v }
    let descs (ds : List DmaDesc) : State := with' s { u with descs := ds }
    let firstIdle := u.descs.zipIdx.find? fun p => !p.1.started
    let waitOp (d : DmaDesc) (cancel : Bool) : SyncOp :=
      { src := .waiter (.dma core), ten := t, op := 3, obj := d.waitObj, x := d.waitValue, cancel := cancel }
    let cancelled : State := match u.descs.find? fun d => d.waitSent && !d.waitMet with
      | some d => s.sendSync (waitOp d true)
      | none => s
    (firstIdle = none → exec (.dmaDescriptorStart core) s = .next s) ∧
    (firstIdle = some (d, k) →
      ((u.suspended = true ∨ 2 ≤ k) → exec (.dmaDescriptorStart core) s = .next s) ∧
      (u.suspended = false → k < 2 → (!d.waitEn || d.waitMet) = true →
        exec (.dmaDescriptorStart core) s = .next (descs (u.descs.set k { d with started := true }))) ∧
      (u.suspended = false → k < 2 → (!d.waitEn || d.waitMet) = false →
        (d.waitSent = true → exec (.dmaDescriptorStart core) s = .next s) ∧
        (d.waitSent = false → exec (.dmaDescriptorStart core) s =
          .next ((descs (u.descs.set k { d with waitSent := true })).sendSync (waitOp d false))))) ∧
    (u.descs[k]? = none → ∀ rows, exec (.dmaDescriptorComplete core k rows) s = .next s) ∧
    (u.descs[k]? = some d → (d.started && !d.suspended) = false →
      ∀ rows, exec (.dmaDescriptorComplete core k rows) s = .next s) ∧
    (u.descs[k]? = some d → d.started = true → d.suspended = false → d.srcSpace = spOwn → d.dstSpace = spOwn →
      d.row + 1 < d.rows → Memory.wf store = true →
      let a := (rowAt d.srcAddr d.srcStride d.row).toNat
      let b := (rowAt d.dstAddr d.dstStride d.row).toNat
      ∃ s', exec (.dmaDescriptorComplete core k 1) s = .next s' ∧ OnlyCore core { s with free := s'.free } s' ∧
        (s'.core core).img = { (s.core core).img with
          dma := { u with descs := u.descs.set k { d with row := d.row + 1 } }
          store := (s'.core core).img.store, storeBlz := (s'.core core).img.storeBlz } ∧
        (s'.core core).img.store.read b d.rowBytes = store.read a d.rowBytes ∧
        ∀ x, x < b ∨ b + d.rowBytes ≤ x → (s'.core core).img.store.get x = store.get x) ∧
    (∀ rows, u.descs[k]? = some d → d.started = true → d.suspended = false →
      exec (.dmaDescriptorComplete core k rows) s = .next (s.dmaRows core t k (min rows (d.rows - d.row)))) ∧
    (u.suspended = false → exec (.dmaResume core) s = .next s ∧ exec (.dmaAbort core) s = .next s) ∧
    (∀ p, u.suspended = true → u.page = some p →
      let again := s.translate core ((u.descs.find? DmaDesc.suspended).map DmaDesc.stream) p.va p.write false
      (∀ pa v, again = .ok pa v → exec (.dmaResume core) s =
        .next (with' v { descs := u.descs.map fun d => { d with suspended := false } })) ∧
      (∀ v a l c, again = .page v a l c → exec (.dmaResume core) s =
        .next ((with' v { u with resume := false }).sendFault ⟨1, codePageFault, t, dmaEngine core, a, 0, p.write, l, c, 0⟩)) ∧
      (∀ v c, again = .held v c → exec (.dmaResume core) s = .next (with' v { u with resume := true }))) ∧
    (u.suspended = true → exec (.dmaAbort core) s = .next (with' cancelled {}))

/-- R139, R140, R214–R219, R239, R332, R333: a Flume engine. The first request of a queue starts once its wait is met, or
faults its queue under the first case of Table 8.5 that holds; none starts while a row waits at a core that its tenancy has
left (R217); its units are read in order, the queues in their turns; a row that arrives is written at its core; SKIP
discards a faulted request and CLEAR all that have not started; a capture is performed at its stack. -/
def Obligations.FlumeEngineRunsRequests : Prop :=
  ∀ (eng t n row : Nat) (q : FlumeReq) (r : FlumeRun) (d : FlumeDelivery) (s : State), eng < 16 → t < 4 →
    let x := s.flq eng t
    let c := s.startCase eng t q
    let waits : Bool := q.waitEn && s.inRange t q.waitObj && !x.waitMet
    let queue (s : State) (y : FlumeQueue) : State :=
      { s with flume := { s.flume with queues := SMap.put s.flume.queues (4 * eng + t) y } }
    let waitOp (q : FlumeReq) (cancel : Bool) : SyncOp :=
      { src := .waiter (.flume eng t), ten := t, op := 3, obj := q.waitObj, x := q.waitValue, cancel := cancel }
    let cancelled : State := match x.reqs with
      | q :: _ => if x.waitSent && !x.waitMet then s.sendSync (waitOp q true) else s
      | [] => s
    ((x.reqs = [] ∨ x.faulted = true ∨ s.flAway eng t = true) → exec (.flumeRequestStart eng t) s = .next s) ∧
    (x.reqs.head? = some q → x.faulted = false → s.flAway eng t = false →
      (waits = true → x.waitSent = true → exec (.flumeRequestStart eng t) s = .next s) ∧
      (waits = true → x.waitSent = false → exec (.flumeRequestStart eng t) s =
        .next ((queue s { x with waitSent := true }).sendSync (waitOp q false))) ∧
      (waits = false → s.flHeld eng q = true → exec (.flumeRequestStart eng t) s = .next s) ∧
      (waits = false → s.flHeld eng q = false → c.1 ≠ 0 → ∃ u, exec (.flumeRequestStart eng t) s = .next u ∧
        u.flq eng t = { x with faulted := true, faultCode := c.2, faultCase := c.1, faultShard := q.shard } ∧
        u.flume = { s.flume with queues := u.flume.queues } ∧ u.cores = s.cores ∧ u.accMsgs = s.accMsgs) ∧
      (waits = false → s.flHeld eng q = false → c.1 = 0 → ∃ u v, exec (.flumeRequestStart eng t) s = .next u ∧
        let deliver (p : Nat × Nat) : FlumeDelivery := { run := v.id, core := p.1, rank := p.2 }
        u.flq eng t = { x with reqs := x.reqs.tail, waitSent := false, waitMet := false } ∧
        u.flume = { s.flume with
          queues := u.flume.queues
          nextId := s.flume.nextId + 1
          runs := s.flume.runs ++ [v]
          deliveries := s.flume.deliveries ++ v.cores.zipIdx.map deliver } ∧
        v = { id := s.flume.nextId, eng := eng, ten := t, req := q, base := (s.shard q.shard).base,
              version := BitVec.ofNat 32 (s.shard q.shard).version, cores := maskCores (s.mcast q.group).mask,
              left := q.unitList v.base, units := [], marks := [], doneCores := 0 } ∧ u.cores = s.cores)) ∧
    ((s.flNext eng t = none ∨ s.flTurn eng = none) → exec (.flumeUnitRead eng t) s = .next s) ∧
    (∀ k v used, s.flNext eng t = some (r, k) → s.flTurn eng = some (v, used) →
      (v ≠ t → exec (.flumeUnitRead eng t) s = .next s) ∧
      (v = t →
        let u := (s.touch (256 * k) 256).setRun { r with
          left := r.left.tail, units := SMap.put r.units k (s.memBytes (256 * k) 256),
          marks := (unitsOf 64 (256 * k) 256).foldl (fun m l => NSet.mark m l (s.lineView l).2) r.marks,
          order := SMap.put r.order k s.noc.nextId }
        exec (.flumeUnitRead eng t) s = .next (State.flRetire { u with
          noc := { u.noc with nextId := s.noc.nextId + 1 }
          flume := { u.flume with turns := SMap.put s.flume.turns eng (v, used) } } r.id))) ∧
    (s.flume.deliveries[n]? = none → exec (.flumeDeliveryArrival n row) s = .next s) ∧
    (s.flume.deliveries[n]? = some d → s.flRun d.run = some r →
      let ready : Bool := s.resident r.ten d.core && decide (row < r.req.rows) && !NSet.has d.got row && r.rowReady row &&
        !s.earlierRow r d.core row && !s.rowOnWay r d.core row
      let stale : Prop := r.req.capMode = 2 ∧ d.checked = false ∧
        capAgrees ((s.imageOf d.core r.ten).cap r.req.capIndex) r.req.shard r.version = false
      let s1 := s.capMismatch r.ten d.core r.req.capIndex r.req.shard
      (ready = false → exec (.flumeDeliveryArrival n row) s = .next s) ∧
      (ready = true → ¬ stale → exec (.flumeDeliveryArrival n row) s = .next (s.flRow n r d row)) ∧
      (ready = true → stale → bit 0 (s1.reg (0x400 + 8 * r.ten)) = true →
        exec (.flumeDeliveryArrival n row) s = .next (s1.flRow n r d row)) ∧
      (ready = true → stale → bit 0 (s1.reg (0x400 + 8 * r.ten)) = false →
        exec (.flumeDeliveryArrival n row) s = .next ((s1.externalFault r.ten
          ⟨d.core, (StreamId.ofNat? (r.req.capStream - 1)).getD .f⟩ codeStaleShard 0).flDone n r false))) ∧
    (x.faulted = false → exec (.flumeQueueSkip eng t) s = .next s) ∧
    (x.faulted = true → exec (.flumeQueueSkip eng t) s = .next (queue s { reqs := x.reqs.tail })) ∧
    exec (.flumeQueueClear eng t) s = .next (queue cancelled {}) ∧
    (s.flume.slots[n]? = none → exec (.slotRecord n) s = .next s) ∧
    (∀ p, s.flume.slots[n]? = some p →
      (s.recordWaits n p = true → exec (.slotRecord n) s = .next s) ∧
      (s.recordWaits n p = false →
        let u := State.slotRecord { s with flume := { s.flume with slots := s.flume.slots.eraseIdx n } } p
        (p.sig = none → exec (.slotRecord n) s = .next u ∧ u.sync = s.sync) ∧
        (∀ o, p.sig = some o → exec (.slotRecord n) s = .next (u.addFrom (.flume p.eng p.core) p.ten o 1))))

/-- R195–R199, R221, R239: a delivery that arrives is treated under the first case of Table 7.11 that holds. One that is
outside every window, frozen or excluded leaves its block; one that is added or reseeds writes its block and count and no
other byte. Its acknowledgement frees the core's tracker entry, and a denied one faults its stream. Each waits behind the
earlier ones of its path, and for its shard's entry where that is read. -/
def Obligations.AccumulateDeliveriesAreTreated : Prop :=
  ∀ (n : Nat) (d : AccDelivery) (a : DaccAck) (ue : Bool) (s : State),
    let pa := 256 * d.block
    let st := stackOf pa
    let waits : Bool := s.accWaits n d
    let read := if s.accReads d then s.touch (s.shard d.shard).pa 32 else s
    let ack (denied : Bool) : DaccAck :=
      { src := d.src, ten := d.ten, va := d.va, n := d.n, denied := denied, sender := 640 + stackOf pa, block := d.block }
    (s.accMsgs[n]? = none → exec (.accDeliveryArrival n ue) s = .next s) ∧
    (s.accMsgs[n]? = some d → waits = true → exec (.accDeliveryArrival n ue) s = .next s) ∧
    (s.accMsgs[n]? = some d → waits = false → (s.stack st).state = stFailed →
      ∃ t, exec (.accDeliveryArrival n ue) s = .next t ∧ t.mem = s.mem ∧ t.cores = s.cores ∧
        t.accMsgs = s.accMsgs.eraseIdx n) ∧
    (s.accMsgs[n]? = some d → waits = false → (s.stack st).state ≠ stFailed → st < 8 →
      (s.memOk (masterTen d.ten) pa 256 true = false → ∃ t, exec (.accDeliveryArrival n ue) s = .next t ∧
        t.mem = s.mem ∧ t.cores = s.cores ∧ t.accMsgs = s.accMsgs.eraseIdx n ∧
        (d.named = true → t.accAcks = s.accAcks ++ [ack true])) ∧
      (s.memOk (masterTen d.ten) pa 256 true = true →
        (s.treatment d ue ∈ [Treat.outside, .frozen, .excluded] → ∃ t, exec (.accDeliveryArrival n ue) s = .next t ∧
          t.mem = read.mem ∧ t.cores = s.cores ∧ t.accMsgs = s.accMsgs.eraseIdx n ∧
          (d.named = true → t.accAcks = s.accAcks ++ [ack (decide (s.treatment d ue = .outside))])) ∧
        (s.treatment d ue ∈ [Treat.reseed, .add] → Memory.wf s.mem.bytes = true →
          let buf := (s.accWindow pa).getD false
          let f := accFmt buf
          let new := accElements buf d
          let old := unpack f.width f.lanes (read.memNat pa 256)
          let out := if s.treatment d ue = .add then accAdd f old new else accSeed f new
          ∃ t, exec (.accDeliveryArrival n ue) s = .next t ∧ t.accMsgs = s.accMsgs.eraseIdx n ∧ t.cores = s.cores ∧
            t.mem.bytes.read pa 256 = leBytes 256 (pack f.width (out.1.map Elt.bits ++ out.2)) ∧
            (∀ x, x < pa ∨ pa + 256 ≤ x → t.mem.bytes.get x = read.mem.bytes.get x) ∧
            (SMap.wf s.mem.counts = true → t.accCount d.block =
              if s.treatment d ue = .add then min 65535 (s.accCount d.block + d.k) else d.k)))) ∧
    (s.accAcks[n]? = none → exec (.daccAckArrival n) s = .next s) ∧
    (s.accAcks[n]? = some a →
      let u := State.setTrack { s with accAcks := s.accAcks.eraseIdx n } a.src (s.track a.src - 1)
      (s.ackWaits n a = true → exec (.daccAckArrival n) s = .next s) ∧
      (s.ackWaits n a = false →
        u.track a.src = s.track a.src - 1 ∧ (a.denied = false → exec (.daccAckArrival n) s = .next u) ∧
        (a.denied = true → exec (.daccAckArrival n) s = .next (u.externalFault a.ten a.src codeAccess a.va))))

/-! ### The Y class and the sync banks (R255–R273) -/

/-- R241, R257, R261, R262, R267: a Y-class instruction at issue: its reserved field, its bites and its fence in that order;
then one that only acts sends its operation and retires, and one that waits sends it and stays, and takes a pause that was
asked for before. A full control plane holds it. No object changes before the operation arrives at its bank. `sy.rmt` sends
to a peer, with the mark that the control plane set on it (R236); a LOST peer stops the stream. The model's choice: one
without an entry, without a job tag or beyond the device numbers stops it with ACCESS (DEDUCED, log entry 34). -/
def Obligations.SyncInstructionsSend : Prop :=
  ∀ (i : At) (o : SyOp) (s : State), s.ready i →
    let ov := s.sval i o.sObj
    let v := s.sval i o.sVal
    let j := ov.val.toNat % 2 ^ 18
    let x : Word := v.val + o.imm.signExtend 64
    let ten := s.tenOf i.core
    let peer := bits 47 32 ov.val.toNat
    let sends : List (Instr × Nat) := [(.syCfg i o, 0), (.syAdd i o, 1), (.sySet i o, 2), (.syPost i o, 4),
      (.syArrive i o, 6), (.syEvset i o, 8), (.syEvclr i o, 9)]
    let waits : List (Instr × Nat) := [(.syWait i o, 3), (.syAcq i o, 5), (.syArrw i o, 7), (.syEvwait i o, 10),
      (.syRd i o, 11)]
    let own := (sends ++ waits).map Prod.fst
    let op (n : Nat) : SyncOp :=
      { src := .waiter (.stream i), ten := ten, op := n, obj := j, x := x, id := s.noc.nextId }
    let sent (n : Nat) : State := { s with
      sync := { s.sync with ops := s.sync.ops ++ [op n] }, noc := { s.noc with nextId := s.noc.nextId + 1 } }
    let waiting (n : Nat) : State := (sent n).modStream i fun t => { t with wait := some ⟨n, j, x, o.sd, none, .sent⟩ }
    let reserved : Prop := o.rop ≠ 0
    let remoteOp : Prop := o.rop.toNat ∈ [1, 2, 4, 6, 8]
    let bites : Bool := ov.bz || v.bz
    let illegal (c : Instr) : Prop := exec c s = .next (s.modStream i fun t => { t with state := .illegal })
    (reserved → ∀ c ∈ own, illegal c) ∧ (¬ remoteOp → illegal (.syRmt i o)) ∧
    (¬ reserved → bites = true → ∀ c ∈ own, exec c s = .next (s.faultStream i codeBlazeBite 0)) ∧
    (remoteOp → bites = true → exec (.syRmt i o) s = .next (s.faultStream i codeBlazeBite 0)) ∧
    (¬ reserved → bites = false → ((o.rel && s.fenceBusy i) || s.planeFull i.core) = true →
      ∀ c ∈ own, exec c s = .next (s.stall i .sync)) ∧
    (remoteOp → bites = false → (o.rel && s.fenceBusy i) = true → exec (.syRmt i o) s = .next (s.stall i .sync)) ∧
    (¬ reserved → bites = false → ((o.rel && s.fenceBusy i) || s.planeFull i.core) = false →
      (∀ p ∈ sends, exec p.1 s = .next ((sent p.2).retired i)) ∧
      ((s.stream i).pauseReq = false → ∀ p ∈ waits, exec p.1 s = .next ((waiting p.2).issued i)) ∧
      ((s.stream i).pauseReq = true → ∀ p ∈ waits, exec p.1 s = .next (((waiting p.2).pauseNow i).issued i))) ∧
    (remoteOp → bites = false → (o.rel && s.fenceBusy i) = false →
      ((s.peer peer).lost ≠ 0 → exec (.syRmt i o) s = .next (s.faultStream i (lossCode (s.peer peer).lost) 0)) ∧
      ((s.peer peer).lost = 0 →
        ((8192 ≤ peer ∨ s.devNum.isNone = true ∨ (s.jobTag ten).isNone = true ∨ (s.peerEntry peer).valid = false) →
          exec (.syRmt i o) s = .next (s.faultStream i codeAccess 0)) ∧
        (peer < 8192 → s.devNum.isSome = true → (s.peerEntry peer).valid = true → ∀ job, s.jobTag ten = some job →
          let held := s.planeFull i.core || s.cut (s.msgEntry (.rmt i.core))
          ((held = true ∨ s.expressRoute peer = none) → exec (.syRmt i o) s = .next (s.stall i .sync)) ∧
          (∀ route, held = false → s.expressRoute peer = some route →
            let port := (s.peerEntry peer).port route
            (s.sendOk ten port peer = false → exec (.syRmt i o) s =
              .next ((s.denied (60 + port) (masterTen ten) peer true).faultStream i codeAccess 0)) ∧
            (s.sendOk ten port peer = true → exec (.syRmt i o) s = .next (((s.queueExpress
              ⟨peer, route, 0, job, some ten, some i,
                .sync o.rop.toNat (bits 17 0 ov.val.toNat) (s.core i.core).rmtBz x⟩).modCore i.core fun k =>
                  { k with rmtBz := false }).sentRemote i |>.retired i))))))

/-- R258–R261, R263, R265, R270: an operation at its bank. The first case of Table 10.3a that holds refuses it, which
changes no object and is counted; else Table 10.2 applies. An add to a counter adds, wakes exactly the waiters whose value
is reached, by one message for each column and stop, and leaves every other object. An earlier message of its node to the
bank goes first. A cancel takes its registration away and answers a stream CANCELLED; one that the answer has crossed
changes nothing. R262–R266: a wake that reaches a running stream ends its wait: the destination holds the value and its mark,
and the stream moves on. A stream that was stopped keeps the answer; CANCELLED keeps the generation of a `sy.arrw`, or waits
again where the stream has resumed; a refusal faults the stream (R261). An answer of an earlier wait ends none. That later
waiters of a semaphore stay when a cancel removes the first is log entry 159 (DESIGN CHOICE). -/
def Obligations.SyncBankPerformsOperations : Prop :=
  (∀ (n : Nat) (o : SyncOp) (s : State),
     let u := s.takeOp n o
     let code := s.refusal o o.bz
     let waits := s.opWaits n o
     let j := s.obj o.obj
     let v := j.value + o.x
     let met (r : SyncReg) : Bool := r.obj == o.obj && decide (r.x.toNat ≤ v.toNat)
     let plain (w : SyncWakeMsg) : SyncWakeMsg := { w with id := 0 }
     (s.sync.ops[n]? = none → exec (.syncOpArrival n) s = .next s ∧ exec (.syncCancel n) s = .next s) ∧
     (s.sync.ops[n]? = some o → (o.cancel || waits) = true → exec (.syncOpArrival n) s = .next s) ∧
     (s.sync.ops[n]? = some o → o.cancel = false → waits = false →
       (o.bz = true → code = codeBlazeBite) ∧
       (o.bz = false → (262144 ≤ o.obj ∨ s.inRange o.ten o.obj = false) → code = codeAccess) ∧
       (code = 0 → exec (.syncOpArrival n) s = .next (((u.perform o).numberWakes).bankDone o 0)) ∧
       (code ≠ 0 → exec (.syncOpArrival n) s = .next ((u.countRefusal o code).bankDone o code)) ∧
       (code ≠ 0 → ∃ t, exec (.syncOpArrival n) s = .next t ∧ t.sync.objs = s.sync.objs ∧ t.sync.regs = s.sync.regs) ∧
       (code = 0 → o.op = 1 → ∃ t, exec (.syncOpArrival n) s = .next t ∧
         t.obj o.obj = { j with value := v } ∧ (∀ k, k ≠ o.obj → t.obj k = s.obj k) ∧
         t.sync.regs = s.sync.regs.filter (fun r => !met r) ∧
         t.sync.wakes.map plain = (s.sync.wakes ++ (s.sync.regs.filter met).map fun r =>
           ({ waiter := r.waiter, ten := r.ten, obj := o.obj, value := v } : SyncWakeMsg)).map plain ∧
         ∀ a ∈ t.sync.wakes.drop s.sync.wakes.length, ∀ b ∈ t.sync.wakes.drop s.sync.wakes.length,
           a.id = b.id ↔ s.wakeGroup a.waiter = s.wakeGroup b.waiter)) ∧
     (s.sync.ops[n]? = some o → o.cancel = true → waits = false →
       ((∀ w, o.src ≠ .waiter w) → exec (.syncCancel n) s = .next s) ∧
       (∀ w, o.src = .waiter w →
         (∀ r, s.registration o w = some r → ∃ t, exec (.syncCancel n) s = .next t ∧ t.cores = s.cores ∧
           t.sync.regs = s.sync.regs.filter (· ≠ r) ∧ t.sync.objs = s.sync.objs ∧
           (∀ i, w = .stream i → t.sync.wakes.map plain = (s.sync.wakes ++ [(SyncWakeMsg.mk w o.ten o.obj 0 false 0
             (.cancelled (if r.op = 7 then some r.gen else none)))]).map plain) ∧
           ((∀ i, w ≠ .stream i) → t.sync.wakes = s.sync.wakes)) ∧
         (s.registration o w = none → exec (.syncCancel n) s = .next u))) ∧
     (s.sync.ops[n]? = some o → (o.cancel = false ∨ waits = true) → exec (.syncCancel n) s = .next s)) ∧
  (∀ (n : Nat) (m : SyncWakeMsg) (i : At) (w : WaitOp) (s : State),
     let u := s.takeWake n m
     (s.sync.wakes[n]? = none → exec (.syncWake n) s = .next s) ∧
     (s.sync.wakes[n]? = some m → s.wakeWaits n m = true → exec (.syncWake n) s = .next s) ∧
     (s.sync.wakes[n]? = some m → s.wakeWaits n m = false →
       u.sync = { s.sync with wakes := s.sync.wakes.eraseIdx n } ∧ u = { s with sync := u.sync, noc := u.noc } ∧
       (s.staleWake n m = true → exec (.syncWake n) s = .next (u.refused m)) ∧
       (∀ code, m.waiter = .stream i → m.kind = .refused code → u.refused m = u.externalFault m.ten i code 0) ∧
       ((∀ code, m.kind ≠ .refused code) → u.refused m = u) ∧
       (s.staleWake n m = false →
         (m.waiter = .stream i → u.waitsOn m.ten i m.obj = true →
           (∀ gen, m.kind = .cancelled gen → exec (.syncWake n) s = .next (u.waitCancelled m.ten i gen)) ∧
           (∀ code, m.kind = .refused code → exec (.syncWake n) s = .next
             ((u.modTenStream m.ten i fun x => { x with wait := none }).externalFault m.ten i code 0))) ∧
         (m.waiter = .stream i → m.kind = .value → (s.core i.core).res = some m.ten → (s.stream i).wait = some w → w.obj = m.obj →
           w.phase = .sent → ∃ t, exec (.syncWake n) s = .next t ∧ OnlyStream i u t ∧
           ((s.stream i).state = .running →
             t.stream i = { (s.stream i).setSreg w.sd m.value m.bz with wait := none, pc := (s.stream i).pc + 8 }) ∧
           ((s.stream i).state ≠ .running →
             t.stream i = { s.stream i with wait := some { w with phase := .granted m.value m.bz } })) ∧
         (∀ c, m.waiter = .dma c → exec (.syncWake n) s = .next (u.modDma c m.ten fun d =>
           { d with descs := meetWait m.obj d.descs })) ∧
         (∀ e t, m.waiter = .flume e t → exec (.syncWake n) s = .next (u.modFlq e t fun q =>
           match q.reqs with
           | r :: _ => if q.waitSent && r.waitObj == m.obj then { q with waitMet := true } else q
           | [] => q)) ∧
         (∀ e t k, m.waiter = .coll e t k → exec (.syncWake n) s = .next (u.modCeq e t fun q =>
           if q.waitSent && q.cons == k && q.waitObj == m.obj then { q with waitMet := true } else q)))))

/-! ### Sequencers, interleave and shims (R66–R70, R116–R126, R432) -/

/-- R66–R70, R265, R432: START, PAUSE, RESUME and ABORT of a stream on a live core, and the boundary where a pause takes
effect; a fault from outside stops a running stream, waits for a sliced one, and goes to the host alone for a stream that
does not run. On a core that is not live none but such a fault has an effect. A RESUME whose walk is held stands until the
walk is made. The model's choices: ABORT leaves RESTART_ROW 0 (DESIGN CHOICE, log entry 117) and SEQ_FADDR as it was
(DEDUCED, log entry 99); which tenancy's stream a peer's refusal faults, where several have sent a `sy.rmt` from it, is free
(DESIGN CHOICE, log entry 157). -/
def Obligations.SequencerControl : Prop :=
  ∀ (core : Nat) (x : StreamId) (v : Bool) (code : Byte) (addr : BitVec 48) (s : State),
    let i : At := ⟨core, x⟩
    let t0 := s.stream i
    let ten := s.tenOf core
    let cmds : List Instr := [.seqStart core x, .seqPause core x v, .servicePauseTakeEffect core x, .seqResume core x,
      .seqAbort core x, .vcapClearAll core]
    let tens := s.faultTens i code.toNat addr.toNat
    let outside : Instr := .externalFaultArrival core x code addr
    let becomes (c : Instr) (t1 : Stream) : Prop := exec c s = .next (s.modStream i fun _ => t1)
    (s.coreLive core = false → ∀ c ∈ cmds, exec c s = .next s) ∧
    ((faultCodes.contains code.toNat = false ∨ s.coreCount ≤ core ∨ (s.core core).resetBusy = true ∨ tens = []) →
      exec outside s = .next s) ∧
    (faultCodes.contains code.toNat = true → core < s.coreCount → (s.core core).resetBusy = false →
      (∀ n, tens = [n] → exec outside s = .next (s.externalFault n i code.toNat addr.toNat)) ∧
      (2 ≤ tens.length → ∃ n ∈ tens, exec outside s = .next ((s.draw 1).externalFault n i code.toNat addr.toNat))) ∧
    (s.coreLive core = true →
      (t0.state = .idle → becomes (.seqStart core x) { t0 with state := .running }) ∧
      (t0.state ≠ .idle → becomes (.seqStart core x) t0) ∧
      (t0.state = .suspended →
        becomes (.seqPause core x true) { t0 with pauseReq := true, state := .paused, fromSuspended := true }) ∧
      (t0.state ≠ .suspended → (t0.state ≠ .running ∨ t0.waiting = false) →
        becomes (.seqPause core x true) { t0 with pauseReq := true }) ∧
      (∀ w, t0.state = .running → t0.wait = some w → w.op ≠ 11 → w.phase = .sent →
        exec (.seqPause core x true) s = .next (State.sendSync (s.modStream i fun _ =>
          { t0 with pauseReq := true, state := .paused, wait := some { w with phase := .cancelling } })
          { src := .waiter (.stream i), ten := ten, op := w.op, obj := w.obj, x := w.x, gen := w.gen, cancel := true })) ∧
      (t0.state ≠ .paused → becomes (.seqPause core x false) { t0 with pauseReq := false }) ∧
      (t0.state = .paused → t0.fromSuspended = false →
        (t0.wait = none → becomes (.seqPause core x false) { t0 with pauseReq := false, state := .running }) ∧
        exec (.seqPause core x false) s = .next (State.resumeWait (s.modStream i fun _ =>
          { t0 with pauseReq := false, state := .running }) ten i)) ∧
      (t0.state = .paused → t0.fromSuspended = true → t0.heldResume = false →
        becomes (.seqPause core x false) { t0 with pauseReq := false, state := .suspended, fromSuspended := false }) ∧
      (t0.state = .running → t0.pauseReq = true → t0.wait = none →
        becomes (.servicePauseTakeEffect core x) { t0.unready with state := .paused, heldTcfg := none }) ∧
      ((t0.state ≠ .running ∨ t0.pauseReq = false ∨ t0.wait.isSome = true) →
        exec (.servicePauseTakeEffect core x) s = .next s) ∧
      (t0.state = .paused → t0.fromSuspended = true → becomes (.seqResume core x) { t0 with heldResume := true }) ∧
      (t0.state ≠ .suspended → (t0.state ≠ .paused ∨ t0.fromSuspended = false) → exec (.seqResume core x) s = .next s) ∧
      (∀ p, t0.state = .suspended → t0.page = some p →
        (∀ pa u, s.translate core (some x) p.va p.write = .ok pa u → exec (.seqResume core x) s =
          .next (u.modStream i fun t => { t with
            state := .running, faultCode := 0, page := none, fromSuspended := false, heldResume := false })) ∧
        (∀ u va l c, s.translate core (some x) p.va p.write = .page u va l c → exec (.seqResume core x) s =
          .next (State.suspend (u.modStream i fun t => { t with fromSuspended := false, heldResume := false })
            i va p.write l c)) ∧
        (∀ u c, s.translate core (some x) p.va p.write = .held u c → becomes (.seqResume core x) { t0 with heldResume := true })) ∧
      (t0.pendingFault = none → ∃ t, exec (.seqAbort core x) s = .next t ∧
        t.stream i = { t0 with
          state := .idle, faultCode := 0, wait := none, heldTcfg := none, page := none, part := none, restartRow := 0,
          restartValid := false, fromSuspended := false, heldResume := false, beforeSlice := none, slotWait := none,
          held := none, prepared := [] } ∧
        (t.core core).img = CoreImage.setStream { (s.core core).img with accs := (t.core core).img.accs } x (t.stream i) ∧
        (∀ d, d ≠ core → t.core d = s.core d) ∧ t.mem = s.mem ∧ t.regs = s.regs ∧ t.faultQ = s.faultQ) ∧
      (faultCodes.contains code.toNat = true → tens = [ten] → t0.pendingFault = none →
        (t0.state = .running → t0.midInstr = false → t0.wait = none →
          becomes outside
            { t0.stop code.toNat addr.toNat with pendingFault := none }) ∧
        (t0.state = .sliced → becomes outside
          { t0 with pendingFault := some ⟨code, addr⟩ }) ∧
        (t0.state = .idle → ∃ t, exec outside s = .next t ∧ t.stream i = t0 ∧
          t.noc.faults = s.noc.faults ++ [⟨⟨0, code.toNat, ten, engineOf i, addr.toNat, 0, false, 0, 0, 0⟩, s.noc.nextId⟩])) ∧
      (∃ t, exec (.vcapClearAll core) s = .next t ∧ OnlyCore core s t ∧
        t.core core = { s.core core with img := { (s.core core).img with caps := (t.core core).img.caps } } ∧
        ∀ k, (t.core core).img.cap k = { (s.core core).img.cap k with valid := false, stale := false }))

/-- R30, R33, R116–R118, R122–R126: a pattern or slot length that is written waits for the next rotation; the cycles that a
slot has left pass at its end and the slot advances, and slot 15's end starts a rotation with the values that wait; an array
with nothing to do in them is in a gap; a gap outlasts its horizon; the cap moves by its step at a ramp period's end; LEVEL
never falls below its floor, and where it does not lie above the cap an array at work has the cap of 256; a core's clock
stays at or below what the limits allow, and one that needs a higher setpoint waits for it. Nothing else changes but the
counters of the core, the setpoint, and a free value that gated issue or a clock change draws. The model's readings: the
cycles left pass with the command that ends a slot, a horizon or a period (DESIGN CHOICE, log entry 7), of which the cap
gives the array its share (DEDUCED, log entry 57), a ramp's first period begins with it (DESIGN CHOICE, log entry 136), and
a device that has stopped does none of it (DEDUCED, log entry 86). -/
def Obligations.InterleaveShimsAndClocks : Prop :=
  ∀ (core mhz : Nat) (ctrl ready : Bool) (value : Word) (s : State),
    let k := s.core core
    let a := k.arr
    let off := coreBase core + 0x600
    let level := s.shimLevel core
    let only (t : State) : Prop := OnlyCore core { s with free := t.free } t
    let f := max 800 (min mhz (s.clockTarget core))
    let kept (t : State) (b : ArrayState) : Prop := t.core core =
      { k with arr := b, scalarBy := (t.core core).scalarBy, vectorBy := (t.core core).vectorBy,
               vectorLeft := (t.core core).vectorLeft }
    let period := s.rampPeriod core - a.rampUsed
    (s.coreLive core = false → ∀ c ∈ [Instr.ilvPatternWrite core ctrl value, .slotEnd core, .rotationStart core],
      exec c s = .next s) ∧
    (s.coreLive core = true →
      exec (.ilvPatternWrite core ctrl value) s = .next (s.modImg core fun m =>
        if ctrl then { m with ilvNextLen := some (BitVec.ofNat 10 value.toNat) }
        else { m with ilvNext := some (BitVec.ofNat 32 value.toNat) }) ∧
      (a.slot ≠ 15 → exec (.rotationStart core) s = .next s) ∧
      (a.slot = 15 → exec (.rotationStart core) s = exec (.slotEnd core) s) ∧
      ∃ t, exec (.slotEnd core) s = .next t ∧ only t ∧
        t.core core = { k with arr := (t.core core).arr, img := (t.core core).img,
                               scalarBy := (t.core core).scalarBy, vectorBy := (t.core core).vectorBy,
                               vectorLeft := (t.core core).vectorLeft } ∧
        (t.core core).arr.slot = (a.slot + 1) % 16 ∧
        (t.core core).arr.slotUsed = 0 ∧ (t.core core).arr.overruns = a.overruns ∧
        (a.slot ≠ 15 → (t.core core).img = k.img ∧ (t.core core).arr.rotations = a.rotations % 2 ^ 32) ∧
        (a.slot = 15 → (t.core core).arr.rotations = (a.rotations + 1) % 2 ^ 32 ∧ (t.core core).img = { k.img with
          ilvPattern := k.img.ilvNext.getD k.img.ilvPattern, ilvLen := k.img.ilvNextLen.getD k.img.ilvLen,
          ilvNext := none, ilvNextLen := none }) ∧
        (a.left = 0 → k.img.slotCycles ≤ a.slotUsed → (t.core core).arr.cap = a.cap ∧ (t.core core).arr.gap = a.gap) ∧
        (a.left = 0 → a.slotUsed < k.img.slotCycles → (t.core core).arr.gap = true)) ∧
    (s.coreCount ≤ core → ∀ c ∈ [Instr.shimHorizonExpiry core, .rampPeriodEnd core ready, .shimCtrlWrite core value,
      .clockChange core mhz], exec c s = .next s) ∧
    (s.stopped = true → ∀ c ∈ [Instr.shimHorizonExpiry core, .rampPeriodEnd core ready, .clockChange core mhz],
      exec c s = .next s) ∧
    (core < s.coreCount → s.stopped = false →
      (a.gap = true → a.horizonPassed = true → exec (.shimHorizonExpiry core) s = .next s) ∧
      ((a.gap = true → a.horizonPassed = false) → ∃ t, exec (.shimHorizonExpiry core) s = .next t ∧ only t ∧
        let b := (t.core core).arr
        kept t b ∧ b.horizonPassed = true ∧ b.gap = true ∧ b.rampUsed = 0 ∧
        (a.gap = true → b.cap = a.cap) ∧
        (a.gap = false → b.left = 0 ∧ b.cap = if s.shimOn core = true ∧ level ≤ a.cap then level else a.cap) ∧
        (a.gap = true → a.left = 0 → b.gapUsed = max a.gapUsed (s.shimHorizon core))) ∧
      (s.shimOn core = false → exec (.rampPeriodEnd core ready) s = .next s) ∧
      (s.shimOn core = true → ∃ t, exec (.rampPeriodEnd core ready) s = .next t ∧ only t ∧
        let b := (t.core core).arr
        kept t b ∧ b.rampUsed = 0 ∧
        (ready = true → a.cap < level → b.gap = a.gap ∧ b.cap =
          let c := min level (a.cap + s.rampStep core)
          if c = level ∧ a.gap = false then 256 else c) ∧
        (ready = true → level ≤ a.cap → b.cap = a.cap ∧ b.gap = a.gap) ∧
        (ready = false → a.gap = true → a.horizonPassed = true → b.cap = a.cap - s.rampStep core) ∧
        (ready = false → a.gap = true → a.horizonPassed = false →
          b.cap = min a.cap (max level (a.cap - s.rampStep core))) ∧
        (ready = false → a.gap = false → period ≤ a.needs level true → b.cap = a.cap ∧ b.gap = false) ∧
        (ready = false → a.gap = false → a.needs level true < period → b.cap = min a.cap level ∧ b.gap = true)) ∧
      (k.freq < f → s.power.setpoint < vSet f → ∃ t, exec (.clockChange core mhz) s = .next t ∧
        t = { s with power := { s.power with
          wanted := t.power.wanted, raises := SMap.put s.power.raises core f, gaveUp := none } } ∧
        ∃ w, t.power.wanted = some w ∧ vSet f ≤ w) ∧
      ((f ≤ k.freq ∨ vSet f ≤ s.power.setpoint) → ∃ t, exec (.clockChange core mhz) s = .next t ∧
        t = { s with cores := t.cores, regs := t.regs, free := t.free, power := t.power } ∧
        t.core core = { k with freq := f } ∧ (∀ d, d ≠ core → t.core d = s.core d) ∧
        (k.freq = f → t.regs = s.regs ∧ t.free = s.free) ∧
        (k.freq ≠ f → t.field (coreBase core + 0xF08) 47 16 = min (s.field (coreBase core + 0xF08) 47 16 + 1) (2 ^ 32 - 1)) ∧
        t.power = { s.power with
          raises := SMap.del s.power.raises core
          setpoint := if s.power.wanted.isSome then s.power.setpoint else vSet t.maxFreq })) ∧
    (core < s.coreCount →
      ∃ t, exec (.shimCtrlWrite core value) s = .next t ∧ t = { s with regs := t.regs, cores := t.cores } ∧
        t.field off 48 41 ≤ t.field off 7 0 ∧ (∀ x, x ≠ off → t.reg x = s.reg x) ∧
        (let b := (t.core core).arr
         let low : Bool := t.shimOn core && decide (t.shimLevel core ≤ a.cap)
         t.core core = { k with arr := b } ∧ (low = false → b = a) ∧
         (low = true → a.gap = true → b = { a with
           rising := false, rampUsed := if t.shimLevel core < a.cap then 0 else a.rampUsed }) ∧
         (low = true → a.gap = false → b = { a with rising := false, cap := 256 })) ∧
        (∀ d, d ≠ core → t.core d = s.core d))


/-! ### Mesh, ring and Boom (R234–R250, R396) -/

/-- R235–R238, R242, R396: a hop of a flit over an output of a node. What moves enters at its source with its first hop; it
waits for its turn and for a credit, and a flit without one counts as blocked. A corrected error is counted; an
uncorrectable payload error is counted and marks what the packet carries; an uncorrectable sideband error halts the node,
which forwards nothing further. That a corrected sideband error counts in the field of the payload's corrections is the
model's reading (log entry 45, DEDUCED), and so is that the mark of a fault record or a notice has no effect (log entry 138,
DEDUCED). A halted or absent node, or an output that is not there, changes nothing. -/
def Obligations.HopsForwardMarkOrHalt : Prop :=
  ∀ (node : Node) (out : OutPort) (pkt : Pkt) (msg : Msg) (err : HopError) (s : State),
    let live : Bool := s.nodeUp node && s.hasOut node out
    let packet := Instr.dataPacketHop node out pkt err
    let message := Instr.controlMessageHop node out msg err
    let row (e : Instr) (c : Cargo) (entry : Option Entry) (corr ue : Nat × Nat) : Prop :=
      ((live = false ∨ s.untreated node c = true ∨ s.entered c entry node = none) → exec e s = .next s) ∧
      ∀ u, live = true → s.untreated node c = false → s.entered c entry node = some u →
        (u.hop c node out = .no → exec e s = .next u) ∧
        (u.hop c node out = .blocked →
          exec e s = .next (u.countBlocked node out (((u.noc.carrier c).map NetPacket.ch).getD 0))) ∧
        ∀ p b w, u.hop c node out = .go p b w →
          let cycle (v : State) : State :=
            if p.ch = 7 then v else { v with noc := v.noc.useCycle (outKey (nodeKey node) out) w }
          let go (v : State) : State := ((cycle v).countUtil node out p.ch).moveFlit p b node out
          let dsts := ((b.legs.find? fun l => l.out == out).map Leg.dsts).getD []
          u.credit node out p.ch = true ∧ u.turn node out p.ch = some b ∧ b.id = p.id ∧
          (err = .none → exec e s = .next (go u) ∧ go u = { u with noc := (go u).noc, regs := (go u).regs }) ∧
          (err = .corrected ∨ err = .sidebandCorrected → exec e s = .next (go (u.nocError corr.1 corr.2))) ∧
          (err = .payload → exec e s = .next (go ((u.nocError ue.1 ue.2).markCargo dsts c))) ∧
          (err = .sideband → ∃ t, exec e s = .next t ∧ t.nodeUp node = false ∧
            t = { u with regs := t.regs, noc := { u.noc with halted := t.noc.halted } } ∧
            t.field nocErr 63 56 = min (u.field nocErr 63 56 + 1) 255)
    row packet (.data pkt) (s.pktEntry pkt) (15, 0) (31, 16) ∧
    row message (.control msg) (s.msgEntry msg) (47, 32) (55, 48) ∧
    ∀ (u : State) (dsts : List Nat),
      (∀ id, u.markCargo dsts (.data (.acc id)) =
        { u with accMsgs := u.accMsgs.map fun d => if d.id = id then { d with bz := true } else d }) ∧
      (∀ run unit k d, d ∈ u.flume.deliveries → d.run = run → u.siteOf d.core ∈ dsts →
        { d with bad := NSet.add d.bad unit } ∈ (u.markCargo dsts (.data (.flume run unit k))).flume.deliveries) ∧
      (∀ core pa, let k := u.core core
        ((u.markCargo dsts (.data (.reply core pa))).core core).replyBz = NSet.add k.replyBz (pa / 64) ∧
        ((u.markCargo dsts (.data (.writeback core pa))).core core).wbBz = NSet.add k.wbBz (pa / 64) ∧
        (∀ toCore, ((u.markCargo dsts (.data (.dma core pa toCore))).core core).dmaBz =
          NSet.add k.dmaBz (dmaKey (pa / 64) toCore)) ∧
        (∀ other out, ((u.markCargo dsts (.data (.dmaCore core other out))).core core).dmaBz =
          NSet.add k.dmaBz (dmaCoreKey other out)) ∧
        ((u.markCargo dsts (.control (.rmt core))).core core).rmtBz = true ∧
        ∀ unit restore, ((u.markCargo dsts (.data (.image core unit restore))).core core).imageBz =
          NSet.add k.imageBz (2 * unit + b2n restore)) ∧
      (∀ id src, u.markCargo dsts (.control (.fault id)) = u ∧ u.markCargo dsts (.control (.notice src)) = u) ∧
      (∀ id o, o ∈ u.sync.ops → o.id = id →
        { o with bz := true } ∈ (u.markCargo dsts (.control (.sync id))).sync.ops) ∧
      (∀ id w, w ∈ u.sync.wakes → w.id = id → dsts = [] →
        { w with bz := true } ∈ (u.markCargo dsts (.control (.wake id))).sync.wakes) ∧
      (∀ id m, m ∈ u.tally.msgs → m.id = id →
        { m with bz := true } ∈ (u.markCargo dsts (.control (.mark id))).tally.msgs) ∧
      (∀ e pa toStack, (u.markCargo dsts (.data (.collData e pa toStack))).fab.bad =
        NSet.add u.fab.bad (2 ^ 33 * e + pa / 64)) ∧
      ∀ n q c, c ∈ u.host.cmds → c.session = n → c.seq = q →
        c.marked ∈ (u.markCargo dsts (.control (.config n q))).host.cmds ∧
        ∀ pa, { c with bad := NSet.add c.bad (pa / 256) } ∈ (u.markCargo dsts (.data (.hostData n q pa))).host.cmds

/-- R246–R250, R238: Boom at a router that forwards. A delivery that has come to it whole, or enters the network there,
and that finds a context of its key whose counts do not overflow merges with it and is acknowledged; the contexts of its
key that cannot take it become eligible. One that finds none takes a free context, passes on where it is marked, and
passes or is held where every context is taken. A context leaves once it is eligible, which the hold's expiry and a
storage error make it, with the cycle in which its first flit has its turn and a credit; the error marks it too. That a
context takes no buffer until then is log entry 138 (DEDUCED). -/
def Obligations.BoomMergesAndLeaves : Prop :=
  ∀ (site n ctx : Nat) (d : AccDelivery) (c : BoomCtx) (s : State),
    let arrives := Instr.boomArrival site n
    let acks : List DaccAck := if d.named then
      [{ src := d.src, ten := d.ten, va := d.va, n := d.n, denied := false, sender := site, block := d.block }] else []
    let pass : AccDelivery := { d with heldAt := none, passedAt := some site }
    let inside := s.entered (.data (.acc d.id)) (s.pktEntry (.acc d.id)) (.site site)
    let e := s.ctxEntry site c.d
    let u := s.leaving site ctx c.d
    let out := s.firstOut e
    let hop := u.hop (.data (.acc s.noc.nextId)) (.site site) out
    (s.accMsgs[n]? = none → exec arrives s = .next s) ∧
    (s.accMsgs[n]? = some d → (d.ctx = 0 ∨ s.nodeUp (.site site) = false ∨ inside = none) → exec arrives s = .next s) ∧
    (∀ v, s.accMsgs[n]? = some d → d.ctx ≠ 0 → s.nodeUp (.site site) = true → inside = some v →
      v = { s with noc := v.noc } ∧ v.ctxs site = s.ctxs site ∧
      (v.accAt site d = false → exec arrives s = .next s) ∧
      (∀ j, v.accAt site d = true → v.mergeCtx site d = some (j, c) →
        (if d.bz then c.d.k else c.d.k + d.k) ≤ 65535 ∧ c.d.n + d.n ≤ 65535 ∧
        ∃ t, exec arrives s = .next t ∧ t.accMsgs = s.accMsgs.eraseIdx n ∧
          SMap.get? (t.ctxs site) j = some { c with d := mergeInto c.d d } ∧ (mergeInto c.d d).n = c.d.n + d.n ∧
          (d.bz = true → (mergeInto c.d d).data = c.d.data) ∧ t.accAcks = s.accAcks ++ acks ∧
          t = { s with accMsgs := t.accMsgs, accAcks := t.accAcks, noc := t.noc }) ∧
      (v.accAt site d = true → v.mergeCtx site d = none →
        let cs := freeKey d (s.ctxs site)
        let full : Prop := d.bz = false ∧ freeCtx cs = none
        let rests (msgs : List AccDelivery) (more : List DaccAck) (cs1 : SMap BoomCtx) : Prop :=
          ∃ t, exec arrives s = .next t ∧ t.accMsgs = msgs ∧ t.accAcks = s.accAcks ++ more ∧ t.ctxs site = cs1 ∧
            t = { s with accMsgs := t.accMsgs, accAcks := t.accAcks, noc := t.noc }
        (d.bz = true → rests (s.accMsgs.set n pass) [] cs) ∧
        (∀ k, d.bz = false → freeCtx cs = some k → rests (s.accMsgs.eraseIdx n) acks
          (SMap.put cs k ⟨{ pass with named := false, origin := site, id := 0 }, false⟩)) ∧
        (full → bit 10 (s.reg (nocBase + 0x10)) = true → rests (s.accMsgs.set n pass) [] cs) ∧
        (full → bit 10 (s.reg (nocBase + 0x10)) = false →
          rests (s.accMsgs.set n { d with heldAt := some site }) [] cs))) ∧
    (SMap.get? (s.ctxs site) ctx = none → ∀ i ∈ [Instr.boomHoldExpiry site ctx, .boomContextStorageError site ctx,
      .boomContextLeave site ctx], exec i s = .next s) ∧
    (SMap.get? (s.ctxs site) ctx = some c →
      (∃ t, exec (.boomHoldExpiry site ctx) s = .next t ∧ t = { s with noc := t.noc } ∧
        t.ctxs site = SMap.put (s.ctxs site) ctx { c with eligible := true }) ∧
      (∃ t, exec (.boomContextStorageError site ctx) s = .next t ∧ t = { s with noc := t.noc } ∧
        t.ctxs site = SMap.put (s.ctxs site) ctx { d := { c.d with bz := true }, eligible := true }) ∧
      ((c.eligible && s.nodeUp (.site site)) = false → exec (.boomContextLeave site ctx) s = .next s) ∧
      ((c.eligible && s.nodeUp (.site site)) = true →
        (hop = .no → exec (.boomContextLeave site ctx) s = .next s) ∧
        (hop = .blocked → exec (.boomContextLeave site ctx) s = .next (s.countBlocked (.site site) out 3)) ∧
        ∀ p b w, hop = .go p b w → ∃ t, exec (.boomContextLeave site ctx) s = .next t ∧
          t = { s with regs := t.regs, noc := t.noc, accMsgs := s.accMsgs ++ [{ c.d with id := s.noc.nextId }] } ∧
          t.ctxs site = SMap.del (s.ctxs site) ctx))

/-! ### The stacks (R172–R202) -/

/-- R181–R184, R195, R334: a line read and written at its stack. What its stack delivers of a line is the bytes and mark of
the decoder's view, and the count of its block may be found uncorrectable; a whole line written is stored with its mark and
no symbol error, a part is merged; no other byte changes. An access that is held, or cut off by a halted node, waits, and
one that its windows deny goes back to its issuer. -/
def Obligations.LinesAreReadAndWritten : Prop :=
  ∀ (pa inner : Nat) (who : Issuer) (errs : SymErrs) (data : List Byte) (bz ue : Bool) (s : State),
    let l := pa / 64
    let u := s.befall l errs
    let allowed (w : Bool) : Bool := match s.issuerMaster who with
      | none => true
      | some m => s.memOk m (pa / 64 * 64) 64 w
    let bs := data.take (64 - pa % 64)
    let v := u.lineView l
    let read : Instr := .memLineRead pa who ⟨errs, inner⟩ ue
    let write : Instr := .memLineWrite pa who data bz ⟨errs, inner⟩
    ((8 ≤ stackOf pa ∨ (s.memHeld pa || s.issuerCut who pa) = true) → exec read s = .next s ∧ exec write s = .next s) ∧
    (stackOf pa < 8 → (s.memHeld pa || s.issuerCut who pa) = false →
      (∀ m, s.issuerMaster who = some m →
        (allowed false = false → exec read s = .next ((s.memDenied m pa false).issuerDenied who false)) ∧
        (allowed true = false → exec write s = .next ((s.memDenied m pa true).issuerDenied who true))) ∧
      (allowed false = true → Memory.wf s.mem.bytes = true → ∃ t, exec read s = .next t ∧
        t.mem.reply = some ⟨pa / 64 * 64, BitVec.ofNat 512 (leNat v.1), v.2⟩ ∧
        (∀ x, x / 64 ≠ l → t.mem.bytes.get x = s.mem.bytes.get x) ∧ t.cores = s.cores ∧ t.mem.counts = s.mem.counts ∧
        t.mem.badCounts = if ue = true ∧ (s.accWindow pa).isSome = true then NSet.add s.mem.badCounts (pa / 256)
          else s.mem.badCounts) ∧
      (allowed true = true → Memory.wf s.mem.bytes = true → bs ≠ [] → (s.stack (stackOf pa)).state ≠ stFailed →
        ∃ t, exec write s = .next t ∧ t.mem.bytes.read pa bs.length = bs ∧
          (∀ x, x / 64 ≠ l → t.mem.bytes.get x = s.mem.bytes.get x) ∧
          (∀ k, k < 64 → (k < pa % 64 ∨ pa % 64 + bs.length ≤ k) → t.mem.bytes.get (64 * l + k) = v.1.getD k 0) ∧
          (SMap.wf s.mem.blz = true → NSet.has t.mem.blz l = if bs.length = 64 then bz else bz || v.2)) ∧
      (allowed true = true → bs = [] → exec write s = .next s) ∧
      (allowed true = true → bs ≠ [] → errs = [] → (s.stack (stackOf pa)).state = stFailed →
        ∃ t, exec write s = .next t ∧ t.mem = s.mem))

/-- R175–R177, R184, R202: a stack's link. A flit whose 72 bytes bear their CRC gives its line with its mark and clears the
replay count, another is replayed, and the ninth failure of one flit retrains the link; a third failed retrain in a row, or
that of a FAILED stack's one further retrain, leaves it FAILED. A refresh keeps every row with its marks. The CRC's initial
value, the order of bits and bytes and the place of the header with its Blaze bit are the model's (log entry 125, PRESUMED).
-/
def Obligations.StackLinksReplayAndRetrain : Prop :=
  ∀ (st : Nat) (ok : Bool) (flit : List Byte) (s : State),
    let passes : Prop := flit.length = 72 ∧ crc16 (flit.take 70) = leNat (flit.drop 70)
    let k := s.stack st
    let becomes (c : Instr) (k1 : Stack) : Prop := ∃ t, exec c s = .next t ∧ t.stack st = k1 ∧
      t = { s with regs := t.regs, mem := { s.mem with dram := t.mem.dram } } ∧ ∀ j, j ≠ st → t.stack j = s.stack j
    ((8 ≤ st ∨ k.state ≠ stReady) → exec (.stackFlitReceive st flit) s = .next s) ∧
    ((8 ≤ st ∨ k.state ≠ stRetraining) → exec (.stackLinkRetrainDone st ok) s = .next s) ∧
    ((8 ≤ st ∨ k.state ≠ stFailed) → exec (.stackRetrain st) s = .next s) ∧
    (st < 8 → k.state = stReady →
      (passes → becomes (.stackFlitReceive st flit) { k with
        crcFails := 0, flit := some (flitLine flit) }) ∧
      (¬ passes → k.crcFails < 8 → becomes (.stackFlitReceive st flit) { k with crcFails := k.crcFails + 1 }) ∧
      (¬ passes → 8 ≤ k.crcFails → becomes (.stackFlitReceive st flit) { k with
        state := stRetraining, crcFails := 0, oneShot := false })) ∧
    (st < 8 → k.state = stRetraining →
      becomes (.stackLinkRetrainDone st true) { k with state := stReady, retrainFails := 0, oneShot := false } ∧
      ((k.oneShot = true ∨ 2 ≤ k.retrainFails) → becomes (.stackLinkRetrainDone st false) { k with
        state := stFailed, retrainFails := 0, oneShot := false, jrn := 1 }) ∧
      (k.oneShot = false → k.retrainFails < 2 → becomes (.stackLinkRetrainDone st false) { k with
        state := stRetraining, crcFails := 0, oneShot := false, retrainFails := k.retrainFails + 1 })) ∧
    (st < 8 → k.state = stFailed →
      becomes (.stackRetrain st) { k with state := stRetraining, crcFails := 0, oneShot := true }) ∧
    exec (.refresh st) s = .next s

/-- R187–R195, R200: the Scarf table takes a resource that passes its checks, copies it and holds its accesses meanwhile,
and refuses another with the first result that holds; a Cruise pass visits its lines in order, reports, and ends at its
limit or where it is aborted, and none of these while the stack's link is down; an accumulate window is written where it
fits and zeroes its counts; a clear zeroes blocks and their counts. The order of a refused addition's results and the
abort at once are the model's choices (log entries 54 and 55, DESIGN CHOICE), what waits for a link that is down is entry
135, what a pass latches at its start entry 146 (both DESIGN CHOICE). -/
def Obligations.ScarfCruiseAndWindows : Prop :=
  ∀ (st w inner : Nat) (value : Word) (errs : SymErrs) (s : State), st < 8 →
    let m := memBase st
    let k := s.stack st
    let e := setBits 3 3 (bits 33 1 value.toNat * 2) 0
    let r := k.scarfCheck e
    let a := bits 38 6 (s.reg (m + 0x200))
    let b := bits 38 6 (s.reg (m + 0x208))
    let startable : Prop := k.cruise.state ≠ 1 ∧ k.linkDown = false ∧ a ≤ b ∧ a / 2 ^ 30 = st ∧ b / 2 ^ 30 = st
    let l := k.cruise.next
    let u := s.befall l errs
    let v := bits 29 0 value.toNat
    let off := m + 0x300 + 8 * w
    let others := ((List.range 8).filter (· ≠ w)).map fun j => s.reg (m + 0x300 + 8 * j)
    (bit 63 value.toNat = true → k.scarfResult ≠ 1 → ∃ t, exec (.scarfAddGo st value) s = .next t ∧
      t.stack st = { k with scarfResult := r, adding := if r = 1 then some e else none } ∧ t.mem.bytes = s.mem.bytes) ∧
    (k.scarfResult = 1 → ∃ t, exec (.scarfAddGo st value) s = .next t ∧ t.mem = s.mem) ∧
    ((k.adding = none ∨ k.linkDown = true) → exec (.scarfCopyComplete st) s = .next s) ∧
    (∀ q, k.adding = some q → k.linkDown = false → ∃ t, exec (.scarfCopyComplete st) s = .next t ∧ (t.stack st).adding = none ∧
      (t.stack st).scarfResult = 2 ∧ (t.stack st).scarfIndex = k.freeIndex ∧
      SMap.get? (t.stack st).scarf k.freeIndex = some (1 + q + 8 + 2 ^ 34 * ((k.freeSpare q).getD 0))) ∧
    (¬ startable → exec (.cruiseStart st) s = .next s) ∧
    (startable → ∃ t, exec (.cruiseStart st) s = .next t ∧ (t.stack st).cruise =
      { state := 1, next := a, limit := b, fix := bit 10 (s.reg (m + 0x210)), badSel := bit 11 (s.reg (m + 0x210)),
        sum := k.cruise.sum } ∧
      t.mem.bytes = s.mem.bytes) ∧
    (k.cruise.state ≠ 1 → exec (.cruiseAbort st) s = .next s ∧ exec (.cruiseLine st ⟨errs, inner⟩) s = .next s) ∧
    (k.linkDown = true → exec (.cruiseLine st ⟨errs, inner⟩) s = .next s) ∧
    (k.cruise.state = 1 → (k.linkDown = true ∨ bit 0 (s.reg (m + 0x218)) = false) → ∃ t, exec (.cruiseAbort st) s = .next t ∧
      (t.stack st).cruise.abort = k.linkDown ∧ (t.stack st).cruise.state = (if k.linkDown then 1 else 3) ∧
      t.mem.bytes = s.mem.bytes) ∧
    (k.cruise.state = 1 → k.state = stReady → k.cruise.abort = false → l < k.cruise.limit → k.adding = none →
      ∃ t, exec (.cruiseLine st ⟨errs, inner⟩) s = .next t ∧ (t.stack st).cruise = k.cruise.tally l (u.decoded l) ∧
        (k.cruise.tally l (u.decoded l)).next = l + 1 ∧ (k.cruise.fix = false → t.mem.bytes = s.mem.bytes)) ∧
    (k.cruise.state = 1 → k.state = stReady → bit 0 (s.reg (m + 0x218)) = false →
      ((k.cruise.abort = true ∨ k.cruise.limit < l) → ∃ t, exec (.cruiseLine st ⟨errs, inner⟩) s = .next t ∧
        (t.stack st).cruise.state = (if k.cruise.abort then 3 else 2) ∧ t.mem.bytes = s.mem.bytes) ∧
      (k.cruise.abort = false → l = k.cruise.limit → k.adding = none →
        ∃ t, exec (.cruiseLine st ⟨errs, inner⟩) s = .next t ∧ (t.stack st).cruise.state = 2 ∧
          (t.stack st).cruise.lines = k.cruise.lines + 1 ∧ (k.cruise.fix = false → t.mem.bytes = s.mem.bytes))) ∧
    (8 ≤ w → exec (.accWinWrite st w value) s = .next s) ∧
    (w < 8 → (winFits others v = false ∨ s.reg off = v) → exec (.accWinWrite st w value) s = .next s) ∧
    (w < 8 → winFits others v = true → s.reg off ≠ v → ∃ t, exec (.accWinWrite st w value) s = .next t ∧
      t.reg off = v ∧ (∀ x, x ≠ off → t.reg x = s.reg x) ∧ t.mem.bytes = s.mem.bytes ∧ t.cores = s.cores ∧
      (SMap.wf s.mem.counts = true → ∀ y, SMap.get 0 t.mem.counts y =
        if st * 2 ^ 28 + winBase v * 4096 ≤ y ∧ y < st * 2 ^ 28 + (winBase v + winSize v) * 4096 ∧ y < (st + 1) * 2 ^ 28 then 0
        else SMap.get 0 s.mem.counts y)) ∧
    (∃ t, exec (.accClearGo st value) s = .next t ∧ t.mem.bytes = s.mem.bytes ∧
      (k.clear = none → bit 63 value.toNat = true →
        (t.stack st).clear = some ⟨bits 35 8 value.toNat, bits 59 36 value.toNat⟩) ∧
      ((k.clear.isSome = true ∨ bit 63 value.toNat = false) → t.mem = s.mem)) ∧
    (k.clear = none → exec (.accClearDone st) s = .next s) ∧
    (∀ q, k.clear = some q → Memory.wf s.mem.bytes = true → k.state ≠ stFailed →
      ∃ t, exec (.accClearDone st) s = .next t ∧ (t.stack st).clear = none ∧
        ∀ x, x / 256 < q.count → q.base + x / 256 < 2 ^ 28 →
          (s.accWindow (256 * (st * 2 ^ 28 + q.base + x / 256))).isSome = true →
          t.mem.bytes.get (256 * (st * 2 ^ 28 + q.base) + x) = 0 ∧
          (SMap.wf s.mem.counts = true → SMap.get 0 t.mem.counts (st * 2 ^ 28 + q.base + x / 256) = 0))

/-! ### Fabric and collectives (R274–R300) -/

/-- R275, R276, R278–R281, R283, R284, R288, R289: bytes that arrive at a port that is up count their codewords; what an
uncorrectable one carried, and what is no frame, is dropped. A frame is judged in order; the next one of its path is
accepted and advances the path, an older one is acknowledged again, any other is discarded. The acknowledgement timer sends
the records that wait, the acknowledgement, then HEARTBEATs. An unacknowledged path is resent up to its limit and then its
route fails. A silent peer is lost and revived by software. A port goes down with its lock and comes up where its control
permits. A peer's refused operations go back to it with a frame (R268). What counts as no frame and is dropped is the
model's choice (log entry 31, DESIGN CHOICE), its FCS is entry 142 (PRESUMED), the heartbeat's job tag `hbJob` is entry 33
(DESIGN CHOICE), that refusals leave with any frame to the peer is entry 157 (DESIGN CHOICE), and that a frame of an
acknowledgement alone consumes no sequence number, so that one with no records advances no path, is entry 96 (DEDUCED). -/
def Obligations.FabricPathsAndLinks : Prop :=
  ∀ (port peer route me : Nat) (bulk rate400 verified : Bool) (fr : FabFrame) (bytes : List Byte) (corr uncorr : Nat) (value : Word)
    (s : State),
    let v := s.countFec port corr uncorr
    let k := pathKey fr.srcDev route fr.bulk
    let u := v.takeAck fr.srcDev route fr.ackBulk fr.ack
    let q := pathKey peer route bulk
    let p := s.path q
    let frame : Instr := .fabricFrameReceive port ⟨bytes, corr, uncorr⟩
    let here : Prop := port < 12 ∧ (s.port port).up = true
    let whole : Prop := here ∧ uncorr = 0 ∧ v.devNum = some me ∧ readFrame bytes = some fr
    let mine : Prop := whole ∧ fr.etherType = v.field (fabBase + 8) 15 0 ∧ fr.ver = 1
    let good : Prop := mine ∧ fr.dstDev = me ∧ v.routeBy fr.srcDev port = some route
    let linkMay : Bool := decide (port < 14) && !(s.port port).up && s.portMay port rate400
    (¬ here → exec frame s = .next s) ∧
    (here → (uncorr ≠ 0 ∨ v.devNum = none ∨ readFrame bytes = none) → exec frame s = .next v) ∧
    (whole → (fr.etherType ≠ v.field (fabBase + 8) 15 0 ∨ fr.ver ≠ 1) → exec frame s = .next v) ∧
    (mine → fr.dstDev ≠ me → exec frame s = .next (v.count (fabBase + 0x48) 15 0 1)) ∧
    (mine → fr.dstDev = me → v.routeBy fr.srcDev port = none → exec frame s = .next (v.count (fabBase + 0x48) 31 16 1)) ∧
    (good → fr.recs = [] → exec frame s = .next u) ∧
    (good → fr.recs ≠ [] →
      (fr.seq = (u.path k).expect → u.grantsFull fr = true → exec frame s = .next u) ∧
      (fr.seq = (u.path k).expect → u.grantsFull fr = false → ∃ t, exec frame s = .next t ∧
        t.path k = { u.path k with expect := ((u.path k).expect + 1) % 2 ^ 32, ackDue := true } ∧ t.cores = u.cores ∧
        t.mem = u.mem ∧
        ∃ xs, t.fab.rx = u.fab.rx ++ xs ∧ ∀ x ∈ xs, x.peer = fr.srcDev ∧ x.seq = fr.seq ∧ x.port = port ∧ x.record ∈ fr.recs) ∧
      (fr.seq ≠ (u.path k).expect → acked (u.path k).expect fr.seq = true → exec frame s =
        .next ((u.modPath k fun p => { p with ackDue := true }).count (fabBase + 0x48) 63 48 1)) ∧
      (fr.seq ≠ (u.path k).expect → acked (u.path k).expect fr.seq = false → exec frame s = .next u)) ∧
    (2 ≤ route → exec (.fabricAckTimer peer route bulk) s = .next s ∧ exec (.rtoExpiry peer route bulk) s = .next s) ∧
    (route < 2 →
      let w := s.sendWaiting false
      ((w.maySend peer && w.routeUsable peer route) = false →
        exec (.fabricAckTimer peer route bulk) s = .next w.sendWaiting) ∧
      ((w.maySend peer && w.routeUsable peer route) = true → ∃ t : State, exec (.fabricAckTimer peer route bulk) s = .next t.sendWaiting ∧
        t = { w with fab := { w.fab with
          paths := t.fab.paths, tx := t.fab.tx, refusals := t.fab.refusals, refused := t.fab.refused } } ∧
        (t.path q).ackDue = false ∧ w.fab.tx <+: t.fab.tx ∧
        t.fab.refusals = (w.fab.refusals.filter fun x => x.1 != peer) ∧
        t.fab.refused = w.fab.refused ++ w.fab.refusals.filter fun x => x.1 == peer)) ∧
    ((s.devNum = none ∨ p.unacked = [] ∨ (s.peer peer).lost ≠ 0 ∨ (s.peer peer).failed route = true) →
      exec (.rtoExpiry peer route bulk) s = .next s) ∧
    (route < 2 → s.devNum.isSome = true → p.unacked ≠ [] → (s.peer peer).lost = 0 → (s.peer peer).failed route = false →
      (p.resends < s.retryLimit → ∃ t, exec (.rtoExpiry peer route bulk) s = .next t ∧
        t = { s with fab := { s.fab with
          paths := t.fab.paths, tx := t.fab.tx, refusals := t.fab.refusals, refused := t.fab.refused } } ∧
        t.path q = { p with resends := p.resends + 1, ackDue := (t.path q).ackDue } ∧
        t.fab.tx.length = s.fab.tx.length + if s.routeUsable peer route then p.unacked.length else 0) ∧
      (s.retryLimit ≤ p.resends → exec (.rtoExpiry peer route bulk) s = .next (s.failRoute peer route 2))) ∧
    (∃ t, exec .heartbeatPeriod s = .next t ∧ t.cores = s.cores ∧ t.mem = s.mem ∧ t.fab.paths = s.fab.paths ∧ t.fab.risks =
      ((s.fab.risks.map fun x => (x.1, x.2 + 1)).filter fun x => decide (x.2 < s.hbMiss)) ∧
      (s.devNum = none → t.fab.express = s.fab.express) ∧
      (s.devNum = some me → ∀ d ∈ s.hbPeers, (s.peer d).lost = 0 → s.routeUsable d 0 = true →
        (⟨d, 0, 0, s.hbJob, none, none, .heartbeat me s.risk⟩ : ExpressRec) ∈ t.fab.express)) ∧
    (s.devNum.isSome = true → s.hbPeers.contains peer = true → s.peerReady peer = true →
      exec (.peerSilenceExpiry peer) s = .next (s.declareLost peer 1) ∧ ((s.declareLost peer 1).peer peer).lost = 1) ∧
    ((s.devNum.isNone = true ∨ s.hbPeers.contains peer = false ∨ s.peerReady peer = false) →
      exec (.peerSilenceExpiry peer) s = .next s) ∧
    ((12 ≤ port ∨ (s.port port).up = true ∨ s.devNum.isNone = true) → exec (.portDownExpiry port) s = .next s) ∧
    (port < 12 → (s.port port).up = false → s.devNum.isSome = true → s.routesOf port = [] →
      exec (.portDownExpiry port) s = .next s) ∧
    (port < 12 → (s.port port).up = false → s.devNum.isSome = true → s.routesOf port = [(peer, route)] →
      (s.peer peer).lost = 0 → exec (.portDownExpiry port) s = .next (s.failRoute peer route 3)) ∧
    (port < 14 → (s.port port).up = true → ∃ t, exec (.pcsLockLoss port) s = .next t ∧ (t.port port).up = false ∧
      (∀ j, j ≠ port → t.port j = s.port j) ∧ t.fab.paths = s.fab.paths ∧ t.cores = s.cores ∧ t.mem = s.mem ∧
      t.field (portStatusReg port) 11 4 = min (s.field (portStatusReg port) 11 4 + 1) 255) ∧
    ((14 ≤ port ∨ (s.port port).up = false) → exec (.pcsLockLoss port) s = .next s) ∧
    (linkMay = true →
      let up : PortState :=
        { up := true, rate400 := rate400
          preempt := decide (port < 12) && bit 4 (s.reg (fabBase + 0x100 + 8 * port)) && verified }
      let w := (s.modPort port fun _ => up).pumpAll
      exec (.portLinkUp port rate400 verified) s =
        .next (if 12 ≤ port ∧ w.booted = true then w.beaconPort (port - 12) else w) ∧
      (s.modPort port fun _ => up).port port = up) ∧
    (linkMay = false → exec (.portLinkUp port rate400 verified) s = .next s) ∧
    (port < 14 → ∃ t, exec (.portCtrlWrite port value) s = .next t ∧ (t.port port).up = false ∧
      (∀ j, j ≠ port → t.port j = s.port j) ∧ t.fab.paths = s.fab.paths ∧ t.cores = s.cores ∧ t.mem = s.mem) ∧
    (14 ≤ port → exec (.portCtrlWrite port value) s = .next s) ∧
    (bit 63 value.toNat = false →
      exec (.peerReviveGo value) s = .next (s.writeReg (fabBase + 0x50) value.toNat)) ∧
    (bit 63 value.toNat = true →
      let d := bits 12 0 value.toNat
      let w := s.writeReg (fabBase + 0x50) value.toNat
      let v := { w with fab := { w.fab with
        peers := SMap.del w.fab.peers d, paths := w.fab.paths.filter fun x => x.1 / 4 != d } }
      exec (.peerReviveGo value) s = .next v.pumpAll ∧ (SMap.wf s.fab.peers = true → (v.peer d).lost = 0))

/-- R268, R288, R292–R300: the records of accepted frames, each performed in the order of its path and taken from those
that wait: a remote operation goes to its bank in the peer's name; a grant feeds its descriptor or is kept; an abort stops
its descriptor, is kept for one that has not started, and is void with a code that Table 0.5 does not give; a heartbeat
brings a risk; a request waits for its grant; a put opens a context, is refused or waits while its table's stack holds
accesses; data is written, or waits while its stack holds it. A row for another record changes nothing. That a 17th put
waits is the model's reading (log entry 97, DEDUCED), the list of its refusals its choice (entry 98, DESIGN CHOICE), what
an ABORT with a reserved code or before its descriptor does entry 143 (DESIGN CHOICE). -/
def Obligations.FabricRecordsArePerformed : Prop :=
  ∀ (n : Nat) (x : RxRec) (s t : State),
    let rows : List Instr := [.syncRecord n, .grantRecord n, .abortRecord n, .heartbeatRecord n, .requestRecord n,
      .putOpenRecord n, .dataRecord n]
    let row : FabRec → Instr := fun
      | .sync _ _ _ _ => .syncRecord n
      | .grant _ _ _ _ _ _ _ => .grantRecord n
      | .abort _ _ _ => .abortRecord n
      | .heartbeat _ _ => .heartbeatRecord n
      | .request _ _ _ _ => .requestRecord n
      | .putOpen _ _ _ _ _ _ => .putOpenRecord n
      | .data _ _ _ _ _ _ => .dataRecord n
    (s.takeRx n = none → ∀ c ∈ rows, exec c s = .next s) ∧
    (s.takeRx n = some (x, t) →
      t = { s with fab := { s.fab with rx := s.fab.rx.eraseIdx n } } ∧ (∀ c ∈ rows, c ≠ row x.record → exec c s = .next s) ∧
      (∀ op obj bz v, x.record = .sync op obj bz v →
        (op ∈ [1, 2, 4, 6, 8] → exec (.syncRecord n) s = .next (t.sendSync
          { src := .peer x.peer x.seq x.port, ten := x.ten, op := op, obj := obj % 2 ^ 18, x := v, bz := bz })) ∧
        (op ∉ [1, 2, 4, 6, 8] → exec (.syncRecord n) s = .next t)) ∧
      (∀ op c id b m f r, x.record = .grant op c id b m f r →
        (∀ y, t.runOf x.engine x.ten id = some y → exec (.grantRecord n) s = .next (t.takeGrant y x.peer x.record)) ∧
        (t.runOf x.engine x.ten id = none → exec (.grantRecord n) s = .next { t with
          fab := { t.fab with grants := t.fab.grants ++ [⟨x.engine, x.ten, x.peer, x.record⟩] } })) ∧
      (∀ code dev id, x.record = .abort code dev id →
        let v := { t with fab := { t.fab with puts := t.fab.puts.filter fun p =>
          !(p.eng == x.engine && p.ten == x.ten && p.peer == x.peer && p.collId == id) } }
        (code.toNat ∉ faultCodes → exec (.abortRecord n) s = .next t) ∧
        (code.toNat ∈ faultCodes →
          (∀ y, v.runOf x.engine x.ten id = some y →
            exec (.abortRecord n) s = .next (v.collFault y code.toNat x.peer dev (some x.peer))) ∧
          (v.runOf x.engine x.ten id = none →
            (v.waitsToStart x.engine x.ten id = false → exec (.abortRecord n) s = .next v) ∧
            (v.waitsToStart x.engine x.ten id = true → exec (.abortRecord n) s = .next { v with
              fab := { v.fab with aborts := v.fab.aborts ++ [⟨x.engine, x.ten, x.peer, x.record⟩] } })))) ∧
      (∀ dev risk, x.record = .heartbeat dev risk → exec (.heartbeatRecord n) s =
        .next { t with fab := { t.fab with risks := t.fab.risks ++ [(risk, 0)] } }) ∧
      (∀ id round shard b, x.record = .request id round shard b →
        let w : SyRecv :=
          { eng := x.engine, ten := x.ten, peer := x.peer, collId := id, round := round, shard := shard, bytes := 16 * b }
        let u := { t with fab := { t.fab with recvs := t.fab.recvs ++ [w] } }
        (t.runOf x.engine x.ten id = none → exec (.requestRecord n) s = .next u) ∧
        (∀ y, t.runOf x.engine x.ten id = some y → exec (.requestRecord n) s = .next (State.pump u y))) ∧
      (∀ dg id va b obj en, x.record = .putOpen dg id va b obj en →
        (16 ≤ (t.fab.puts.filter fun p => p.eng == x.engine).length → exec (.putOpenRecord n) s = .next s) ∧
        ((t.fab.puts.filter fun p => p.eng == x.engine).length < 16 →
          (t.aclOk (56 + x.engine) (masterPeer x.ten) x.peer false = false → exec (.putOpenRecord n) s =
            .next ((t.denied (56 + x.engine) (masterPeer x.ten) x.peer false).refusePut x.ten x.engine x.peer id)) ∧
          (t.aclOk (56 + x.engine) (masterPeer x.ten) x.peer false = true →
            let held := t.rangeHeld (t.engHeld x.engine) x.ten va (putExtent b dg) true
            (held = true → exec (.putOpenRecord n) s = .next s) ∧
            (∀ v, held = false → t.mapRange x.ten va (putExtent b dg) true = (v, none) →
              exec (.putOpenRecord n) s = .next (v.refusePut x.ten x.engine x.peer id)) ∧
            (∀ v m, held = false → t.mapRange x.ten va (putExtent b dg) true = (v, some m) →
              let y : PutCtx :=
                { eng := x.engine, ten := x.ten, peer := x.peer, collId := id, va := va, bytes := b, digest := dg,
                  obj := obj, objEn := en, pages := m }
              exec (.putOpenRecord n) s = .next (State.grantPut { v with fab := { v.fab with puts := v.fab.puts ++ [y] } } y))))) ∧
      (∀ bz last k id off bs, x.record = .data bz last k id off bs →
        (∀ u, t.takeData x bz last k id off (pad256 bs) = .done u → exec (.dataRecord n) s = .next u) ∧
        (∀ u, t.takeData x bz last k id off (pad256 bs) = .denied u → exec (.dataRecord n) s = .next u) ∧
        (t.takeData x bz last k id off (pad256 bs) = .held → exec (.dataRecord n) s = .next s) ∧
        (t.runOf x.engine x.ten id = none →
          t.fab.puts.find? (fun p => p.eng == x.engine && p.ten == x.ten && p.peer == x.peer && p.collId == id) = none →
          exec (.dataRecord n) s = .next t)))

/-- R290, R298–R300: a queue of a collective engine. Its next descriptor sends its wait, and starts once it is met and
nothing holds what its start reads, or faults the queue under the first case of Table 11.10 that holds or with the ABORT
that came before it. A run that is done signals; a Sort-yard member first advances its shards' versions, once nothing holds
their words. PROD is written; SKIP discards a descriptor that faulted at its start; CLEAR all that wait. That an ABORT waits
for the descriptor it names is log entry 143 (DESIGN CHOICE). -/
def Obligations.CollectiveQueuesRunDescriptors : Prop :=
  ∀ (e t slot : Nat) (value : Word) (s : State), e < 4 → t < 4 →
    let q := s.ceq e t
    let pa := s.cePa e t q.cons
    let d := readColl (s.memNat pa 128)
    let bz := s.memMark pa 128
    let u := s.touch pa 128
    let start := Instr.collectiveStart e t
    let member := Instr.sortYardMemberComplete e t slot
    let idle : Prop := bit 39 (s.reg (ceReg e t 0)) = false ∨ q.cons = s.ceProd e t ∨ q.faulted = true ∨
      8 ≤ (s.fab.runs.filter fun r => r.eng == e && r.ten == t).length ∨ s.engHeld e pa = true
    let waits : Bool := !bz && d.waitEn && u.inRange t d.waitObj && !q.waitMet
    let aborted : Option (KeptGrant × State) := if bz then none else u.keptAbort e t d.collId
    (idle → exec start s = .next s) ∧
    (¬ idle →
      (∀ k v w m, aborted = some (k, v) → v.collMaps t d = (w, m) →
        (u.startHeld e t d m = true → exec start s = .next u) ∧
        (u.startHeld e t d m = false →
          exec start s = .next (((w.touchLists d m).ceCancel e t).startAbort (w.newRun e t q.cons d m) k))) ∧
      (aborted = none →
        (waits = true → q.waitSent = true → exec start s = .next u) ∧
        (waits = true → q.waitSent = false → exec start s =
          .next ((u.modCeq e t fun q => { q with waitSent := true, waitObj := d.waitObj }).sendSync
            { src := .waiter (.coll e t q.cons), ten := t, op := 3, obj := d.waitObj, x := d.waitValue })) ∧
        (waits = false → exec start s = .next (u.collBegin e t q.cons d bz)) ∧
        (∀ v m, waits = false → u.collMaps t d = (v, m) → u.startHeld e t d m = true → exec start s = .next u) ∧
        (∀ v m k code peer, waits = false → u.collMaps t d = (v, m) → u.startHeld e t d m = false →
          v.collCase e t d bz m = some (k, code, peer) →
          ∃ w, exec start s = .next w ∧ (w.ceq e t).faulted = true ∧ (w.ceq e t).faultCode = code ∧
            (w.ceq e t).faultSlot = q.cons ∧ (w.ceq e t).faultPeer = peer ∧ w.fab.runs = s.fab.runs))) ∧
    (s.runAt e t slot = none → exec (.collectiveComplete e t slot) s = .next s ∧ exec member s = .next s) ∧
    (∀ r, s.runAt e t slot = some r →
      let p := s.pump r
      (p.runAt e t slot = none → exec (.collectiveComplete e t slot) s = .next p ∧ exec member s = .next p) ∧
      (∀ r', p.runAt e t slot = some r' →
        let js := r'.moves.foldl (fun m v => NSet.add m v.srcShard) r'.shards
        let held := js.any fun x => p.engHeld e (p.shard x.1).pa
        (r'.desc.op ≠ 5 → p.runDone r' = true → exec (.collectiveComplete e t slot) s = .next (p.collEnd r') ∧
          (p.collEnd r').runAt r'.eng r'.ten r'.slot = none) ∧
        ((r'.desc.op = 5 ∨ p.runDone r' = false) → exec (.collectiveComplete e t slot) s = .next p) ∧
        (r'.desc.op = 5 → p.runDone r' = true → held = false → exec member s =
          .next ((js.foldl (fun (s : State) (x : Nat × Unit) => s.advanceVersion (s.shard x.1)) p).collEnd r')) ∧
        ((r'.desc.op ≠ 5 ∨ p.runDone r' = false ∨ held = true) → exec member s = .next p))) ∧
    (exec (.ceQprodWrite e t value) s = .next (s.writeReg (ceReg e t 1) value.toNat) ∧
      (s.writeReg (ceReg e t 1) value.toNat).ceProd e t = bits 5 0 value.toNat) ∧
    (q.faulted = false → exec (.ceQueueSkip e t) s = .next s) ∧
    (q.faulted = true → exec (.ceQueueSkip e t) s =
      .next (s.modCeq e t fun _ => { cons := if q.atStart then (q.cons + 1) % 64 else q.cons })) ∧
    ∃ w, exec (.ceQueueClear e t) s = .next w ∧ w.ceq e t = { cons := s.ceProd e t } ∧
      w.fab.aborts = (s.fab.aborts.filter fun k => !(k.eng == e && k.ten == t)) ∧
      w = { s with sync := w.sync, fab := { s.fab with queues := w.fab.queues, aborts := w.fab.aborts }, noc := w.noc } ∧
      (q.waitSent = true → q.waitMet = false → w.sync = (s.sendSync
        { src := .waiter (.coll e t q.cons), ten := t, op := 3, obj := q.waitObj, x := 0, cancel := true }).sync)

/-! ### Hosts (R302–R323) -/

/-- R302–R310, R317, R323, R379: the codewords of a datagram that comes to a port that is up are counted. One that the port
does not accept is ignored, a malformed one and one of an unknown session are
counted and discarded, and one of another EPOCH is counted and answered without effect. An acceptable one makes its
session OPEN; a COMMAND's record is accepted in its turn or answered with the first case of Table 12.5; READ answers;
CLOSE closes a session that is not busy; OPEN gives the lowest CLOSED session to an admitted source. ARP and neighbour
solicitations for the port's own address are answered. OUTCOME and the header fields of the answer to another EPOCH and of
RESULT are the model's choice (log entry 64, DESIGN CHOICE), the route that such a datagram leaves alone entry 65 (DEDUCED),
the answers' UDP checksum and source entry 126 (PRESUMED). -/
def Obligations.DatagramsAreJudgedAndAnswered : Prop :=
  ∀ (d : Datagram) (port ip mac src : Nat) (s : State),
    let bs := d.bytes
    let n := pltSession bs
    let kinds : List (Instr × Nat) := [(.open d, 0), (.command d, 2), (.ack d, 5), (.read d, 6), (.close d, 8)]
    let w := if d.port < 2 ∧ (s.port (12 + d.port)).up = true then s.countFec (12 + d.port) d.fecCorr d.fecUncorr else s
    let v := w.valid d
    let whole : Prop := w.accepts d = true ∧ pltOk bs = true
    let good (k : Nat) : Prop := whole ∧ pltKind bs = k ∧ w.known bs = true ∧ pltEpoch bs = w.host.epoch
    let c := recordOf bs 0
    let payload := pltPayload bs
    let up : Bool := decide (port < 2) && (s.port (12 + port)).up
    let discards := hostBase + 0x1400
    (∀ p ∈ kinds, (w.accepts d = false → exec p.1 s = .next w) ∧
      (w.accepts d = true → pltOk bs = false → exec p.1 s = .next (w.count discards 15 0 1)) ∧
      (whole → pltKind bs ≠ p.2 → exec p.1 s = .next w) ∧
      (whole → pltKind bs = p.2 → p.2 ≠ 0 → w.known bs = false → exec p.1 s = .next (w.count discards 31 16 1)) ∧
      (whole → pltKind bs = p.2 → p.2 ≠ 0 → w.known bs = true → pltEpoch bs ≠ w.host.epoch →
        let t := (w.count discards 47 32 1).answer n d 3 1 (pltSeq bs) 0 (respEntry 1 0 5 0 (pltSeq bs))
        exec p.1 s = .next t ∧ t = { w with regs := t.regs, host := { w.host with tx := t.host.tx } } ∧
          t.field discards 47 32 = min (w.field discards 47 32 + 1) 65535)) ∧
    ((v.session n).state = 1 ∧ (v.session n).port = d.port ∧ v.host.cmds.length ≤ s.host.cmds.length ∧
      ∀ m, m ≠ n → v.session m = s.session m) ∧
    (good 5 → exec (.ack d) s = .next v) ∧
    (good 8 → (v.sessionBusy n = true → exec (.close d) s = .next v) ∧
      (v.sessionBusy n = false → SMap.wf v.host.sessions = true → ∃ t, exec (.close d) s = .next t ∧
        (t.session n).state = 0 ∧ t.host.lease ≠ some n ∧ ∀ m, m ≠ n → t.session m = s.session m)) ∧
    (good 6 → ∃ t out, exec (.read d) s = .next t ∧ t = { v with host := { v.host with tx := v.host.tx ++ [out] } } ∧
      let r := (SMap.get {} (v.session n).handles (leAt bs 32 1) : Handle).result (leAt bs 32 1) (leAt bs 36 4)
      let ip := if d.v4 then v.ip4 d.port else v.ip6 d.port
      let answer := pltOut 7 1 n w.host.epoch 0 ((v.session n).next - 1) (v.session n).token r.2.length (r.1 ++ r.2)
      out = .plt (v.hostVia d.port ip) v.udpPort (udpChecksum d.v4 ip d.srcIp v.udpPort d.srcUdp answer)
        ⟨d.srcMac, d.srcIp, d.v4, d.srcUdp⟩ answer) ∧
    (good 2 → pltRecords bs = 1 →
      (c.seq = (v.session n).next → c.wellFormed payload = true → v.journalDown = false → v.journalFull c = false →
        ∃ t, exec (.command d) s = .next t ∧ t.host.cmds = v.host.cmds ++ [{ c with inA := v.copyUp false, inB := v.copyUp true }] ∧
          (t.session n).next = (v.session n).next + 1) ∧
      ((c.seq ≠ (v.session n).next ∨ c.wellFormed payload = false ∨ v.journalDown = true ∨ v.journalFull c = true) →
        ∃ t, exec (.command d) s = .next t ∧ t.host.cmds = v.host.cmds ∧
          (t.session n).next = (v.session n).next)) ∧
    (whole → pltKind bs = 0 →
      let ten := leAt bs 32 1
      let held : Bool := w.hostHeld w.admitPa || w.hostHeld (w.admitPa + 2047)
      let u := w.touch w.admitPa 2048
      (w.recovery = false → held = true → exec (.open d) s = .next w) ∧
      (∀ m k, w.recovery = false → held = false → u.admission (sourceIp d) ten = some m → u.freeSession = some k →
        ∃ t, exec (.open d) s = .next t ∧ t.session k =
          { state := 1, ten := ten, manager := m, token := (t.session k).token, port := d.port } ∧
          (∀ j, j ≠ k → t.session j = s.session j) ∧ t.cores = s.cores ∧ t.host.cmds = s.host.cmds) ∧
      (w.recovery = false → held = false → (u.admission (sourceIp d) ten = none ∨ u.freeSession = none) →
        exec (.open d) s = .next (u.count discards 63 48 1)) ∧
      (∀ k, w.recovery = true → w.freeSession = some k → ∃ t, exec (.open d) s = .next t ∧ t.session k =
          { state := 1, ten := 0, manager := true, token := (t.session k).token, port := d.port } ∧
          (∀ j, j ≠ k → t.session j = s.session j) ∧ t.cores = s.cores) ∧
      (w.recovery = true → w.freeSession = none → exec (.open d) s = .next (w.count discards 63 48 1))) ∧
    (((up && s.v4On port && ip == s.ip4 port) = true → exec (.arpRequest port ip mac src) s =
        .next (s.sendHost (.arpReply (s.hostVia port (s.ip4 port)) mac src))) ∧
      ((up && s.v4On port && ip == s.ip4 port) = false → exec (.arpRequest port ip mac src) s = .next s) ∧
      ((up && s.v6On port && ip == s.ip6 port) = true → exec (.neighbourSolicitation port ip mac src) s =
        .next (s.sendHost (.neighbourAdvert (s.hostVia port (s.ip6 port)) mac src))) ∧
      ((up && s.v6On port && ip == s.ip6 port) = false → exec (.neighbourSolicitation port ip mac src) s = .next s))

/-- R311–R316, R318, R319, R402, R403: a command is dispatched one at a time, after what it depends on; its handle is
PENDING and its session's port semaphore is that of this moment. Its row REJECTs it with STATE where R312 forbids it; else
it does what its row of Table 12.4 says and has its result. A configuration access that passes its checks at dispatch sets
out for the block of its register and acts once it has come there, from where its answer travels back (R314); a command
waits where a stack holds what it accesses. A command that has its result completes: its handle is READY with a new
generation, and one event reports it. That a RUN of an invalid or foreign group is denied with ACCESS, after the state
check, is log entry 46 (DEDUCED). -/
def Obligations.CommandsDispatchActAndComplete : Prop :=
  ∀ (n q : Nat) (c : HostCmd) (s : State), s.cmdAt n q = some c →
    let b := s.begin c
    let ten := (s.session n).ten
    let rows : List (Instr × Nat) := [(.nop n q, 0), (.cfgRead n q, 1), (.cfgWrite n q, 2), (.memWrite n q, 3),
      (.memRead n q, 4), (.run n q, 5), (.hrelease n q, 6), (.faultBind n q, 7), (.semAcquire n q, 8),
      (.semRenew n q, 9), (.semRelease n q, 10)]
    let ends (i : Instr) (status code detail : Nat) (out : List Byte) (t : State) : Prop := exec i s = .next t ∧
      t.cmdAt n q = some { c with phase := .done, status := status, code := code, detail := detail, out := out } ∧
      t.host.dispatching = none ∧ t.mem = s.mem ∧ t.cores = s.cores
    let starts (op : Nat) : Prop := c.opcode = op ∧ c.phase = .atDispatch ∧ s.forbidden c = false
    let walkHeld (write : Bool) : Bool := decide (c.space ≠ 1) && b.rangeHeld b.hostHeld ten c.addr c.len write
    let mine (u : State) (write : Bool) (l : Nat) : Bool := u.memOk (masterSession n) (64 * l) 64 write
    let waits (u : State) (p : RowPlace) : Bool := u.placeHeld p || u.dataWaits c p
    let h := s.handleOf n c.handle
    let lateEnd := if (s.session n).state = 2 then some (s.session n).lostEnd else none
    (∀ p ∈ rows, (c.opcode ≠ p.2 → exec p.1 s = .next s) ∧
      (c.opcode = p.2 → c.phase = .waiting → exec p.1 s = .next s) ∧
      (c.opcode = p.2 → c.phase = .atDispatch → s.forbidden c = true → ∃ t, ends p.1 2 codeState 0 [] t)) ∧
    (starts 0 → ∃ t, ends (.nop n q) 0 0 0 [] t ∧ t.regs = s.regs) ∧
    (∀ i w, (starts 1 ∧ i = Instr.cfgRead n q ∧ w = false) ∨ (starts 2 ∧ i = .cfgWrite n q ∧ w = true) →
      (c.cfgOff = none → ∃ t, ends i 1 codeAccess 0 [] t) ∧
      ∀ off, c.cfgOff = some off →
        let refused : Bool := w &&
          ((deviceGlobal off (leAt c.bytes 24 8) && b.regThere off && !b.authority c) || b.cfgAway c off)
        (refused = true → ∃ t, ends i 2 codeState 0 [] t) ∧
        (refused = false → (b.cfgReach c off && b.cfgOpen c off w) = false → ∃ t, ends i 1 codeAccess 0 [] t) ∧
        (refused = false → (b.cfgReach c off && b.cfgOpen c off w) = true → exec i s = .next (b.sendConfig c))) ∧
    (∀ i w, (c.opcode = 1 ∧ i = Instr.cfgRead n q ∧ w = false) ∨ (c.opcode = 2 ∧ i = .cfgWrite n q ∧ w = true) →
      c.phase = .started →
      ((c.msg = 0 ∨ s.msgWaits c = true ∨ c.cfgOff = none) → exec i s = .next s) ∧
      ∀ off, c.msg ≠ 0 → s.msgWaits c = false → c.cfgOff = some off →
        let answers (t : State) : Prop := exec i s = .next (t.sendConfig c)
        (c.bz = true → answers (s.faulty c codeAccess)) ∧
        (c.bz = false → w = false →
          (objectOf off = none → answers (s.result c 0 0 (s.cfgView ten off) (leBytes 8 (s.cfgView ten off)))) ∧
          (∀ j word x v, objectOf off = some (j, word) → s.readObject n ten j word = (x, 0, v) →
            answers (x.result c 0 0 v (leBytes 8 v))) ∧
          (∀ j word x code v, objectOf off = some (j, word) → s.readObject n ten j word = (x, code, v) → code ≠ 0 →
            answers (x.faulty c code))) ∧
        (c.bz = false → w = true →
          (s.cfgAway c off = true → answers (s.reject c)) ∧
          (s.cfgAway c off = false → answers (s.cfgPerform c off (leAt c.bytes 24 8))))) ∧
    (∀ i w, (starts 3 ∧ i = Instr.memWrite n q ∧ w = true) ∨ (starts 4 ∧ i = .memRead n q ∧ w = false) →
      (walkHeld w = true → exec i s = .next b) ∧
      (∀ u code, walkHeld w = false → b.hostPlace c c.len w = (u, .error code) → exec i s = .next (u.faulty c code)) ∧
      (∀ u p, walkHeld w = false → b.hostPlace c c.len w = (u, .ok p) →
        (∀ l, (p.lineList.find? fun l => !mine u w l) = some l → exec i s =
          .next ((u.memDenied (masterSession n) (64 * l) w).faulty c codeAccess)) ∧
        (p.lineList.all (mine u w) = true → waits u p = true → exec i s = .next u) ∧
        (p.lineList.all (mine u w) = true → waits u p = false →
          (w = true → exec i s = .next ((u.rowStore ten c.data (fun o _ => c.badAt p o) p).okay c)) ∧
          (w = false →
            let r := u.rowRead ten c.len p
            let marks := (r.2.zip p.lineList).map fun x => x.1 || NSet.has c.bad (x.2 / 4)
            exec i s = .next (match firstMarked c.addr marks with
              | some o => (u.rowTouch p).result c 1 codeBlazeBite o []
              | none => (u.rowTouch p).result c 0 0 0 r.1))))) ∧
    (∀ v, (starts 5 ∧ v = b) ∨ (c.opcode = 5 ∧ c.phase = .started ∧ v = s) →
      let g := v.mcast (leAt c.bytes 16 2)
      let u := v.touch g.pa 128
      let is := if g.valid then runStreams g.mask c.streams else []
      let running : Bool := is.any fun i => (u.tenStream ten i).ran != .idle
      let allowed : Bool := g.valid && g.ten == ten && (maskCores g.mask).all (u.allocated ten)
      ((c.run ≠ [] ∨ v.hostHeld g.pa = true) → exec (.run n q) s = .next v) ∧
      (c.run = [] → v.hostHeld g.pa = false → running = true → exec (.run n q) s = .next (u.reject c)) ∧
      (c.run = [] → v.hostHeld g.pa = false → running = false → allowed = false →
        exec (.run n q) s = .next (u.faulty c codeAccess)) ∧
      (c.run = [] → v.hostHeld g.pa = false → running = false → allowed = true →
        exec (.run n q) s = .next ((is.foldl (fun s i => s.modTenStream ten i fun x => x.runAt (c.pcOf i.stream)) u).modCmd
          n q fun c => { c with run := is }))) ∧
    (starts 6 → (h.state = .ready → ∃ t, ends (.hrelease n q) 0 0 0 [] t ∧
        t.handleOf n c.handle = { h with state := .released, data := [] }) ∧
      (h.state ≠ .ready → ∃ t, ends (.hrelease n q) 2 codeState 0 [] t ∧ t.handleOf n c.handle = h)) ∧
    (starts 7 → ∃ t, ends (.faultBind n q) 0 0 0 [] t ∧ SMap.get? t.host.bind ten = some n) ∧
    (starts 8 →
      ((s.host.lease.isSome && !s.holds c) = true → ∃ t, ends (.semAcquire n q) 2 codeState 0 [] t ∧
        t.host.lease = s.host.lease) ∧
      ((s.host.lease.isSome && !s.holds c) = false → s.managed c = false →
        ∃ t, ends (.semAcquire n q) 1 codeAccess 0 [] t ∧ t.host.lease = s.host.lease) ∧
      ((s.host.lease.isSome && !s.holds c) = false → s.managed c = true →
        ∃ t, ends (.semAcquire n q) 0 0 0 [] t ∧ t.host.lease = some n ∧ t.host.lostEnd = lateEnd ∧
          t.host.leaseEnd = s.reg 0x700 + msCounts * max 1 (s.field (hostBase + 0x28) 15 0))) ∧
    (starts 9 → (s.holds c = false → ∃ t, ends (.semRenew n q) 2 codeState 0 [] t ∧ t.host.lease = s.host.lease) ∧
      (s.holds c = true → ∃ t, ends (.semRenew n q) 0 0 0 [] t ∧ t.host.lease = some n ∧ t.host.lostEnd = lateEnd ∧
        t.host.leaseEnd = s.reg 0x700 + msCounts * max 1 (s.field (hostBase + 0x28) 15 0))) ∧
    (starts 10 → (s.holds c = false → ∃ t, ends (.semRelease n q) 2 codeState 0 [] t ∧ t.host.lease = s.host.lease) ∧
      (s.holds c = true → ∃ t, ends (.semRelease n q) 0 0 0 [] t ∧ t.host.lease = none)) ∧
    (s.nextCmd n = some c →
      ((s.host.dispatching.isSome || !s.mayDispatch n) = true → exec (.commandDispatch n) s = .next s) ∧
      ((s.host.dispatching.isSome || !s.mayDispatch n) = false → s.depsDone c = false →
        exec (.commandDispatch n) s = .next (s.markPending c)) ∧
      ((s.host.dispatching.isSome || !s.mayDispatch n) = false → s.depsDone c = true →
        ∃ t, exec (.commandDispatch n) s = .next t ∧ t.host.dispatching = some (n, q) ∧
          t.cmdAt n q = some { c with phase := .atDispatch, held := s.holds c } ∧
          (∀ k, c.handles = [k] → (t.handleOf n k).state = .pending) ∧ t.mem = s.mem ∧ t.cores = s.cores)) ∧
    ((s.msgWaits c = true ∨ s.ending c = none) → exec (.commandCompletion n q) s = .next s) ∧
    (∀ status code detail, s.msgWaits c = false → s.ending c = some (status, code, detail) →
      ∃ t, exec (.commandCompletion n q) s = .next t ∧ (t.cmdAt n q).map HostCmd.phase = some .completed ∧
        (t.session n).nextEvent = (s.session n).nextEvent + 1 ∧
        (t.session n).events.length = (s.session n).events.length + 1 ∧
        (status = 0 → (t.session n).failed = (s.session n).failed) ∧
        (status ≠ 0 → NSet.has (t.session n).failed q = true) ∧
        (∀ k, c.handles = [k] → s.handleOf n k = { s.handleOf n k with state := .pending, seq := q } →
          t.handleOf n k = { state := .ready, gen := (s.handleOf n k).gen + 1, data := c.out, seq := q }))

/-- R271, R307, R315, R318, R319, R322, Table 12.10: a session's events leave on its route and leave again after their RTO; a
silent OPEN session is LOST and its lease ends soon; fault records that have come to the host block are there before events
leave (log entry 158, DEDUCED); a lapsed lease is free; the dispatch hold ends; a journal copy is
taken again from the other; a session's write of an object word acts at its bank. The event datagram's checksum, source port
and address are the model's (log entry 126, PRESUMED), its ACK_VALID a choice (entry 64, DESIGN CHOICE). -/
def Obligations.HostTimersAndEvents : Prop :=
  ∀ (n obj : Nat) (copyB word1 : Bool) (value : Word) (s : State),
    let x := s.session n
    let k := s.stack (s.jrnStack copyB)
    let come := s.takeFaults
    (x.state = 0 → ∀ c ∈ [Instr.eventRtoExpiry n, .sessionSilenceExpiry n], exec c s = .next s) ∧
    (x.state = 0 → exec (.eventTransmit n) s = .next come) ∧
    (x.state ≠ 0 → x.events = [] → exec (.eventRtoExpiry n) s = .next s) ∧
    (x.state ≠ 0 → x.events ≠ [] → ∃ t, exec (.eventRtoExpiry n) s = .next t ∧
      (t.session n).resends = min (x.resends + 1) s.eventMisses ∧
      (t.session n).other = (x.other || decide (s.eventMisses ≤ x.resends)) ∧
      (t.session n).events.map HostEvent.num = x.events.map HostEvent.num ∧ t.cores = s.cores ∧ t.mem = s.mem) ∧
    (x.state ≠ 0 → SMap.get? s.host.bind x.ten ≠ some n → ∃ t, exec (.eventTransmit n) s = .next t ∧
      (t.session n).events.map HostEvent.num = x.events.map HostEvent.num ∧ t.faultQ = come.faultQ ∧ t.mem = s.mem ∧
      (∀ p a, x.route = some (p, a) → (s.port (12 + p)).up = true → ∀ e es, x.unsent = e :: es →
        let ip := if a.v4 then s.ip4 p else s.ip6 p
        let bs := pltOut 4 (es.length + 1) n s.host.epoch e.num (x.next - 1) x.token 0
          ((e :: es).map HostEvent.record).flatten
        t.host.tx = s.host.tx ++
          [.plt (s.hostVia p ip) s.udpPort (udpChecksum a.v4 ip a.ip s.udpPort a.udp bs) a bs])) ∧
    (x.state ≠ 0 → SMap.get? s.host.bind x.ten = some n → ∃ t, exec (.eventTransmit n) s = .next t ∧ t.mem = s.mem ∧
      t.cores = s.cores) ∧
    (x.state = 2 → exec (.sessionSilenceExpiry n) s = .next s) ∧
    (x.state = 1 → ∃ t, exec (.sessionSilenceExpiry n) s = .next t ∧
      t.session n = { x with state := 2, lostEnd := s.reg 0x700 + 100 * msCounts } ∧
      t.host.lease = s.host.lease ∧
      (s.host.lease = some n → t.host.lostEnd = some (s.reg 0x700 + 100 * msCounts))) ∧
    (s.host.lease = none → exec .leaseLapse s = .next s) ∧
    (s.host.lease.isSome = true → ∃ t, exec .leaseLapse s = .next t ∧ t = { s with regs := t.regs, host := t.host } ∧
      t.host = { s.host with lease := none, lostEnd := none } ∧
      t.field (hostBase + 0x30) 47 32 = min (s.field (hostBase + 0x30) 47 32 + 1) 65535) ∧
    exec .dispatchRelease s = .next { s with host := { s.host with hold := false } } ∧
    (k.state = stReady → k.jrn = 1 → s.jrnState (!copyB) = 0 → exec (.journalResync copyB) s =
      .next (s.latchPeak.modStack (s.jrnStack copyB) fun k => { k with jrn := 2 })) ∧
    ((k.state ≠ stReady ∨ k.jrn ≠ 1 ∨ s.jrnState (!copyB) ≠ 0) → exec (.journalResync copyB) s = .next s) ∧
    (k.state = stReady → k.jrn = 2 → exec (.journalResyncDone copyB) s =
      .next (State.writeArea (s.modStack (s.jrnStack copyB) fun k => { k with jrn := 0 }) (s.journalPa copyB / 64) (2 ^ 24)).spread) ∧
    ((k.state ≠ stReady ∨ k.jrn ≠ 2) → exec (.journalResyncDone copyB) s = .next s) ∧
    ((64 ≤ n ∨ x.state = 0 ∨ 262144 ≤ obj) → exec (.syncObjectWordWrite n obj word1 value) s = .next s) ∧
    (n < 64 → x.state ≠ 0 → obj < 262144 →
      (∀ o, s.wordOp n x.ten obj word1 value = some o →
        (s.refusal o false = 0 → exec (.syncObjectWordWrite n obj word1 value) s = .next (s.perform o).numberWakes) ∧
        (s.refusal o false ≠ 0 → exec (.syncObjectWordWrite n obj word1 value) s =
          .next (s.countRefusal o (s.refusal o false)))) ∧
      (s.wordOp n x.ten obj word1 value = none → ∃ t, exec (.syncObjectWordWrite n obj word1 value) s = .next t ∧
        t.sync = s.sync))

/-! ### Tenancies (R324–R330, R386) -/

/-- R324, R326–R330, R386: VALID is cleared only where nothing names the tenancy; a tenancy reset clears the tenancy's part
of every core and no other core, and its registrations, and waits for a switch; a phase's end gives each core whose tenancy
changes a switch message, but with one phase nothing is switched; the switch slices the streams, and once the core has
drained and its save area answers it saves the image and restores the next one. With one phase a core with no tenancy takes
the one that its ALLOC names, and another keeps its own (the model's choice, log entry 100). That the image restored is the
one saved is log entry 27 (DESIGN CHOICE), and that a tenancy without one gets an empty part, with an empty store, is entry
3 (DESIGN CHOICE). -/
def Obligations.TenanciesResetAndSwitch : Prop :=
  ∀ (t core : Nat) (v : Bool) (s : State),
    let p := (s.phase + 1) % s.phases
    let k := s.core core
    let inUse : Bool := s.namedBy t || s.hasSession t || NSet.has s.tenReset t
    let part := k.img
    (4 ≤ t → exec (.tenValidWrite t v) s = .next s ∧ exec (.tenancyReset t) s = .next s) ∧
    (t < 4 → v = false → inUse = true → exec (.tenValidWrite t v) s = .next s) ∧
    (t < 4 → (v = true ∨ inUse = false) → ∃ u, exec (.tenValidWrite t v) s = .next u ∧ u = { s with regs := u.regs } ∧
      u.field (tenCtrl t) 0 0 = b2n v ∧ ∀ off, off ≠ tenCtrl t → u.reg off = s.reg off) ∧
    (t < 4 → NSet.has s.tenReset t = true → exec (.tenancyReset t) s = .next s) ∧
    (t < 4 → NSet.has s.tenReset t = false → s.switchBusy = true → exec (.tenancyReset t) s =
      .next { s with tenReset := NSet.add s.tenReset t, tenWait := NSet.add s.tenWait t, pins := { s.pins with ready := false } }) ∧
    (t < 4 → NSet.has s.tenReset t = false → s.switchBusy = false → ∃ u, exec (.tenancyReset t) s = .next u ∧
      NSet.has u.tenReset t = true ∧ u.mem = s.mem ∧ u.pins.ready = false ∧ (∀ r ∈ u.sync.regs, r.ten ≠ t) ∧
      (∀ c, (s.core c).res = some t → u.core c = { s.core c with
        img := { store := (s.core c).img.store, storeBlz := (s.core c).img.storeBlz }
        latches := [], nc := [], ncOp := none, runs := [], inflight := [] }) ∧
      (∀ c, (s.core c).res ≠ some t → u.core c = s.core c)) ∧
    ((NSet.has s.tenReset t = false ∨ s.switchBusy = true) → exec (.tenancyResetDone t) s = .next s) ∧
    (NSet.has s.tenReset t = true → s.switchBusy = false → SMap.wf s.tenReset = true →
      ∃ u, exec (.tenancyResetDone t) s = .next u ∧ NSet.has u.tenReset t = false ∧ u.mem = s.mem) ∧
    (s.switchBusy = true → exec .phaseEnd s = .next s) ∧
    (s.switchBusy = false → s.phases ≠ 1 → ∃ u, exec .phaseEnd s = .next u ∧ u.mem = s.mem ∧ u.phase = p ∧
      (∀ c, (u.core c).res = (s.core c).res ∧ (u.core c).img = (s.core c).img) ∧
      ∀ c, c < s.coreCount → (NSet.has u.switchPhase c = true ↔
        (s.core c).res ≠ s.allocIn (s.reg (coreBase c + 0xA00) % 2 ^ 16) p)) ∧
    (s.switchBusy = false → s.phases = 1 → ∃ u, exec .phaseEnd s = .next u ∧ u.switchPhase = [] ∧
      ∀ c, c < s.coreCount → (u.core c).res = ((s.core c).res).or (s.allocIn (s.reg (coreBase c + 0xA00) % 2 ^ 16) p)) ∧
    let away : Bool := s.cut (some (entryFor (.stop configStop) 7 1 (.site (s.siteOf core))))
    ((NSet.has s.switchPhase core = false ∨ k.resetBusy = true ∨ away = true) → exec (.coreSwitch core) s = .next s) ∧
    (NSet.has s.switchPhase core = true → k.resetBusy = false → away = false → ∃ u, exec (.coreSwitch core) s = .next u ∧
      (u.core core).switching = true ∧ (u.core core).img.store = part.store ∧ (u.core core).img.tiles = part.tiles ∧
      (k.res.isSome = true → ∀ x, (u.stream ⟨core, x⟩).state = .sliced ∧
        (u.stream ⟨core, x⟩).beforeSlice = some (s.stream ⟨core, x⟩).state ∧
        (u.stream ⟨core, x⟩).pc = (s.stream ⟨core, x⟩).pc ∧
        (u.stream ⟨core, x⟩).sregs = (s.stream ⟨core, x⟩).sregs)) ∧
    ((k.switching = false ∨ k.resetBusy = true ∨ s.drained core = false ∨ s.imageHeld core = true) → exec (.coreSwitchDone core) s = .next s) ∧
    (k.switching = true → k.resetBusy = false → s.drained core = true → s.imageHeld core = false →
      ∃ u, exec (.coreSwitchDone core) s = .next u ∧
      (u.core core).switching = false ∧ (u.core core).next = none ∧ (u.core core).tlb = [] ∧ (u.core core).nc = [] ∧
      (∀ d, d ≠ core → u.core d = s.core d) ∧
      ((k.next = none ∨ k.next = some none) → (u.core core).res = none ∧
        ∀ n, k.res = some n → ∃ b, SMap.get? u.images (4 * core + n) = some { part with storeBlz := b } ∧
          ((∀ p ∈ k.imageBz, p.1 % 2 = 1) → b = part.storeBlz)) ∧
      (∀ n, k.next = some (some n) → k.res ≠ some n → (u.core core).res = some n ∧
        (u.core core).img.tiles = (SMap.get {} s.images (4 * core + n) : CoreImage).tiles ∧
        (u.core core).img.store = (SMap.get {} s.images (4 * core + n) : CoreImage).store))

/-! ### Lookout (R347–R355) and two further registers -/

/-- R347–R349, R351–R355, R396: a notice of a source with none open, or with one that is still on its way, does nothing; an
open one is counted, and acknowledged at once, or with NF_EN once the add to NF_OBJ that it sends is performed; a loss
sample is non-finite, a spike, or folded in, by the first case that holds; CLEAR zeroes the estimates; the risk estimate is
recomputed from its terms, and its crossing of SECURE_AT while ARMED disarms and counts; each score decays. A write of
UTIL_SEL zeroes its two counters, and one of COUNT_CLR the mismatch count. That a notice is acknowledged at once where NF_EN
is 0, and that a source has one notice out whatever the tenancies, is log entry 48 (DESIGN CHOICE). -/
def Obligations.LookoutEstimatesAndCounts : Prop :=
  ∀ (src : NfSource) (i : At) (st e t : Nat) (x : W32) (value : Word) (s : State),
    let v := f32 x.toNat
    let d := sub32 v (f32 (s.field (lossEst t) 31 0))
    let est := if s.pinned then 65535 else min 65535 (s.scores + s.levelSum)
    let k := max 1 (s.field (lookBase + 0x10) 11 8)
    let score (n : Nat) : Nat := s.field (lookBase + 0x100 + 8 * n) 31 16
    let counted (u : State) (n : Nat) : Prop :=
      u.field (lookBase + 0x2C0 + 8 * n) 31 0 = min (s.field (lookBase + 0x2C0 + 8 * n) 31 0 + 1) (2 ^ 32 - 1)
    let onWay : Bool := s.sync.ops.any fun o => o.ack == some src
    let added (n : Nat) : SyncOp := { src := .engine 5 0
                                      ten := n
                                      op := 1
                                      obj := bits 49 32 (s.reg (lookBase + 0x200 + 8 * n))
                                      x := 1
                                      ack := some src
                                      id := s.noc.nextId }
    let nfEn (n : Nat) : Bool := bit 12 (s.reg (lookBase + 0x200 + 8 * n))
    (s.openNotice src = none ↔ onWay = true ∨ match src with
      | .stream j => (s.core j.core).res = none ∨ s.notice j = false
      | .accEngine m => SMap.get? s.accNotices.out m = none
      | .collEngine f m => SMap.get? s.fab.notices f ≠ some m) ∧
    ((s.openNotice src = none ∨ s.noticeWaits src = true) → exec (.nfNotice src) s = .next s) ∧
    (∀ n, s.openNotice src = some n → s.noticeWaits src = false → n < 4 → nfEn n = true → ∃ u, exec (.nfNotice src) s = .next u ∧ counted u n ∧
      u = { s with regs := u.regs, sync := u.sync, noc := u.noc } ∧
      u.sync.ops = s.sync.ops ++ [added n]) ∧
    (src = .stream i → s.openNotice src = some t → s.noticeWaits src = false → t < 4 → nfEn t = false →
      ∃ u, exec (.nfNotice src) s = .next u ∧ u.notice i = false ∧ counted u t ∧ u.mem = s.mem) ∧
    (src = .accEngine st → s.openNotice src = some t → s.noticeWaits src = false → t < 4 → nfEn t = false → SMap.wf s.accNotices.out = true →
      ∃ u, exec (.nfNotice src) s = .next u ∧ SMap.get? u.accNotices.out st = none ∧ counted u t ∧ u.mem = s.mem ∧
        u.accNotices.held = s.accNotices.held.filter (fun y => y.1 != st)) ∧
    (src = .collEngine e t → s.openNotice src = some t → s.noticeWaits src = false → t < 4 → nfEn t = false → SMap.wf s.fab.notices = true →
      ∃ u, exec (.nfNotice src) s = .next u ∧ SMap.get? u.fab.notices e = none ∧ counted u t ∧ u.mem = s.mem) ∧
    (4 ≤ t → exec (.lossSample t x) s = .next s ∧ exec (.lossClear t) s = .next s ∧
      exec (.shardPolicyCountClr t) s = .next s) ∧
    (t < 4 →
      ((v.isNan || v.isInf) = true → exec (.lossSample t x) s = .next ((s.spike t).count (lossStat t) 63 48 1)) ∧
      ((v.isNan || v.isInf) = false → s.isSpike t d = true → exec (.lossSample t x) s = .next (s.spike t)) ∧
      ((v.isNan || v.isInf) = false → s.isSpike t d = false → ∃ u, exec (.lossSample t x) s = .next u ∧
        u = { s with regs := u.regs } ∧ (s.field (lossStat t) 31 0 = 0 → u.field (lossEst t) 63 32 = 0 ∧
          u.field (lossEst t) 31 0 = f32Bits v) ∧
        u.field (lossStat t) 31 0 = min (s.field (lossStat t) 31 0 + 1) (2 ^ 32 - 1)) ∧
      (∃ u, exec (.lossClear t) s = .next u ∧ u = { s with regs := u.regs } ∧ u.reg (lossEst t) = 0 ∧
        u.field (lossStat t) 31 0 = 0 ∧ ∀ off, off ≠ lossEst t → off ≠ lossStat t → u.reg off = s.reg off) ∧
      (∃ u, exec (.shardPolicyCountClr t) s = .next u ∧ u = { s with regs := u.regs } ∧
        u.field (0x400 + 8 * t) 47 16 = 0 ∧ u.field (0x400 + 8 * t) 1 0 = s.field (0x400 + 8 * t) 1 0)) ∧
    (∃ u, exec .lookoutRecompute s = .next u ∧ u.mem = s.mem ∧ u.field lookBase 15 0 = est ∧
      (s.secureAt ≤ est → s.field lookBase 16 16 = 1 → u.field lookBase 16 16 = 0 ∧
        u.field lookBase 63 48 = min (s.field lookBase 63 48 + 1) 65535) ∧
      ((est < s.secureAt ∨ s.field lookBase 16 16 ≠ 1) → est < s.rearmAt → u.field lookBase 16 16 = 1) ∧
      ((est < s.secureAt ∨ s.field lookBase 16 16 ≠ 1) → s.rearmAt ≤ est →
        u.field lookBase 16 16 = s.field lookBase 16 16)) ∧
    (∃ u, exec .lookoutDecay s = .next u ∧ u = { s with regs := u.regs } ∧
      ∀ n, n < 9 → u.field (lookBase + 0x100 + 8 * n) 31 16 = score n - score n / 2 ^ k) ∧
    (∃ u, exec (.utilSelWrite value) s = .next u ∧ u = { s with regs := u.regs } ∧ u.reg (nocBase + 0x208) = 0 ∧
      u.reg (nocBase + 0x210) = 0 ∧ u.field (nocBase + 0x200) 15 0 = bits 15 0 value.toNat)

/-! ### Resets, boot, flash and keys (R364–R387, R427, R428) -/

/-- R374–R379, R385, R387, R427, R428: what starts a reset, what holds it off, and how its boot ends. A cold boot without a
flash that answers, or without an image that is accepted, ends in RECOVERY; a ring that fails its test ends it HALTED; else
it ends RUNNING, or DEGRADED where a REASON stands, with the RWL fields locked. A warm reset needs an image too. A core
reset clears one core. FAULT with ACCESS for an absent core is log entry 93, which requests override and which are ignored
entry 85, the queue of commands that outlives a reset entry 83 (all DEDUCED). That emptied memory and an emptied core store
hold nothing is entry 3, a boot in one action entry 84 (both DESIGN CHOICE), and the flash tried after a lost retained image
entry 88 (DEDUCED). -/
def Obligations.ResetsAndBootsEnd : Prop :=
  ∀ (w : BootWorld) (rail : Rail) (n q core : Nat) (pass : Bool) (s : State),
    let b := (s.coldBase).boot
    let heldOff : Bool := s.pins.coldLow || s.pins.thermtrip || decide (s.boot.wantReset = 2)
    let chosen := s.fuses.choose s.boot.flash
    let boots (u : State) : Prop :=
      (w.flashOk = false → u.boot.result = 3 ∧ u.boot.step = 2 ∧ u.boot.reason = 1 ∧ u.fuses = s.fuses ∧
        u.boot.flash = s.boot.flash ∧ u.mem.bytes = [] ∧ u.regs = [] ∧ u.cores = []) ∧
      (∀ fb r, w.flashOk = true → chosen = (none, fb, r) → u.boot.result = 3 ∧ u.boot.step = 3 ∧ u.boot.reason = r ∧
        u.fuses = s.fuses ∧ u.boot.fallback = fb) ∧
      (∀ im fb r, w.flashOk = true → chosen = (some im, fb, r) → w.ringFail = true → u.boot.result = 4 ∧ u.boot.step = 6) ∧
      (∀ im fb r, w.flashOk = true → chosen = (some im, fb, r) → w.ringFail = false →
        u.boot.result = (if u.boot.reason = 0 then 1 else 2) ∧ u.boot.step = 8 ∧ u.pins.ready = true ∧
          u.power.i3cIbi = some (BitVec.ofNat 8 u.boot.result)) ∧
      u.locked = true
    let warms (u : State) : Prop :=
      (s.retainedOk = none → w.flashOk = false → u.boot.result = 3 ∧ u.boot.step = 2 ∧ u.boot.reason = 0x15 ∧
        u.mem.bytes = s.mem.bytes ∧ u.mem.blz = s.mem.blz ∧ u.fuses = s.fuses) ∧
      (∀ fb r, s.retainedOk = none → w.flashOk = true → chosen = (none, fb, r) → u.boot.result = 3 ∧ u.boot.step = 3 ∧
        u.boot.reason = 0x15 ∧ u.mem.bytes = s.mem.bytes ∧ u.mem.blz = s.mem.blz ∧ u.fuses = s.fuses) ∧
      (((s.retainedOk.isSome = true) ∨ (w.flashOk = true ∧ chosen.1.isSome = true)) → w.ringFail = false →
        u.boot.result = (if u.boot.reason = 0 then 1 else 2) ∧ u.boot.step = 8 ∧ u.pins.ready = true ∧
          u.power.i3cIbi = some (BitVec.ofNat 8 u.boot.result)) ∧
      (((s.retainedOk.isSome = true) ∨ (w.flashOk = true ∧ chosen.1.isSome = true)) → w.ringFail = true → u.boot.result = 4 ∧ u.boot.step = 6) ∧ u.locked = true
    let asked (u : State) : Prop :=
      (heldOff = true → u = s) ∧ (heldOff = false → s.boot.result = 0 → boots u) ∧
      (heldOff = false → s.boot.result ≠ 0 → warms u)
    let free : Bool := s.boot.coreReset.isNone && decide (core < s.coreCount)
    (∃ u, exec .coldRstNAssert s = .next u ∧ u = { State.reset with
      pending := s.pending, fuses := s.fuses, free := s.free, boot := { flash := s.boot.flash } } ∧ b.flash = s.boot.flash) ∧
    (s.pins.coldLow = false → exec (.coldRstNRise w) s = .next s) ∧
    (s.pins.coldLow = true → exec (.supplyOutOfWindow rail w) s = .next s) ∧
    (s.boot.wantReset ≠ 2 → exec (.resetCtrlCold w) s = .next s) ∧
    (s.boot.wantReset ≠ 1 → exec (.resetCtrlWarm w) s = .next s) ∧
    (s.pins.coldLow = true → ∃ u, exec (.coldRstNRise w) s = .next u ∧ boots u) ∧
    (s.pins.coldLow = false → ∃ u, exec (.supplyOutOfWindow rail w) s = .next u ∧ boots u) ∧
    (s.boot.wantReset = 2 → ∃ u, exec (.resetCtrlCold w) s = .next u ∧ boots u) ∧
    (∃ u, exec (.warmRstNRise w) s = .next u ∧ asked u) ∧
    (s.boot.wantReset = 1 → ∃ u, exec (.resetCtrlWarm w) s = .next u ∧ asked u) ∧
    (∀ c, s.cmdAt n q = some c → c.phase = .atDispatch → s.forbidden c = false →
      (s.authority c = false →
        (c.opcode = 0x45 → ∃ u, exec (.warmReset n q w) s = .next u ∧ (u.cmdAt n q).map HostCmd.status = some 2) ∧
        (c.opcode = 0x46 → ∃ u, exec (.coreReset n q) s = .next u ∧ (u.cmdAt n q).map HostCmd.status = some 2) ∧
        (c.opcode = 0x47 → ∃ u, exec (.coldReset n q w) s = .next u ∧ (u.cmdAt n q).map HostCmd.status = some 2)) ∧
      (s.authority c = true →
        (c.opcode = 0x45 → exec (.warmReset n q w) s = .next (((s.begin c).okay c).warmAsk w (some (n, q)))) ∧
        (c.opcode = 0x47 → ∃ u, exec (.coldReset n q w) s = .next u ∧ boots u ∧ (w.flashOk = false → u.host.cmds = [])) ∧
        (c.opcode = 0x46 → s.coreCount ≤ leAt c.bytes 16 2 →
          ∃ u, exec (.coreReset n q) s = .next u ∧ (u.cmdAt n q).map HostCmd.code = some codeAccess) ∧
        (c.opcode = 0x46 → leAt c.bytes 16 2 = core → c.run = [] → free = true → (s.core core).switching = false →
          ∃ u, exec (.coreReset n q) s = .next u ∧ u.boot.coreReset = some core ∧ (u.core core).resetBusy = true ∧
            (u.core core).img = {}))) ∧
    (free = false → exec (.coreResetGo core) s = .next (s.setField (bootBase + 0x18) 9 0 core)) ∧
    (free = true → ∃ u, exec (.coreResetGo core) s = .next u ∧ u.boot.coreReset = some core ∧
      u.pins.ready = false ∧ (u.core core).resetBusy = true ∧ (u.core core).img = {} ∧ (u.core core).nc = [] ∧ (u.core core).tlb = [] ∧
      (u.core core).ncOp = none ∧ (u.core core).runs = [] ∧ (u.core core).inflight = [] ∧ (u.core core).arr = {} ∧
      (u.core core).alloc = (s.core core).alloc ∧ u.mem = s.mem ∧ ∀ d, d ≠ core → (u.core d).img = (s.core d).img) ∧
    (s.boot.coreReset ≠ some core → exec (.coreResetDone core pass) s = .next s) ∧
    (s.boot.coreReset = some core → SMap.wf s.boot.selftest = true → ∃ u, exec (.coreResetDone core pass) s = .next u ∧
      u.boot.coreReset = none ∧ u.core core = { s.core core with resetBusy := false } ∧
      NSet.has u.boot.selftest core = !pass ∧ u.mem = s.mem)

/-- R380–R384, R372: the flash and security commands at dispatch, each with its result and its effect on flash and fuses.
Those that change either are REJECTED without the port semaphore of their dispatch or of now; ranges past the flash are
denied; programming leaves no byte that was not erased changed; the least version rises to the running one; a key is
enrolled in the lowest free slot and never in use revoked; a report that is placed or answered is signed and counted, one
that is denied or waits, also for the admission table that CONFIG covers, is not. The signature is that of FIPS 205
(PRESUMED, log entry 129), and a revocation of a revoked slot is OK (DEDUCED, log entry 93). -/
def Obligations.FlashAndSecurityCommands : Prop :=
  ∀ (n q : Nat) (c : HostCmd) (s : State), s.cmdAt n q = some c → c.phase = .atDispatch →
    let rows : List (Instr × Nat) := [(.flashRead n q, 0x40), (.flashErase n q, 0x41), (.flashWrite n q, 0x42),
      (.secAttest n q, 0x43), (.svnAdvance n q, 0x44), (.keyEnrol n q, 0x48), (.keyRevoke n q, 0x49)]
    let ends (i : Instr) (status code : Nat) (out : List Byte) (t : State) : Prop := exec i s = .next t ∧
      t.cmdAt n q = some { c with phase := .done, status := status, code := code, detail := 0, out := out }
    let same (t : State) : Prop := t.fuses = s.fuses ∧ t.boot.flash = s.boot.flash
    let starts (op : Nat) : Prop := c.opcode = op ∧ s.forbidden c = false
    let a := c.flashOff
    let f := s.boot.flash
    let len := 65536 * leAt c.bytes 20 2
    let slot := leAt c.bytes 16 1
    (∀ p ∈ rows, (c.opcode ≠ p.2 → exec p.1 s = .next s) ∧
      (c.opcode = p.2 → s.forbidden c = true → ∃ t, ends p.1 2 codeState [] t ∧ same t)) ∧
    (∀ p ∈ rows, p.2 ≠ 0x40 → p.2 ≠ 0x43 → starts p.2 → s.authority c = false → ∃ t, ends p.1 2 codeState [] t ∧ same t) ∧
    (starts 0x40 →
      (flashSize < a + c.len → ∃ t, ends (.flashRead n q) 1 codeAccess [] t ∧ same t) ∧
      (a + c.len ≤ flashSize → ∃ t, ends (.flashRead n q) 0 0 (flashBytes f a c.len) t ∧ same t)) ∧
    (starts 0x41 → s.authority c = true →
      (flashSize < a + len → ∃ t, ends (.flashErase n q) 1 codeAccess [] t ∧ same t) ∧
      (a + len ≤ flashSize → Memory.wf f = true → ∃ t, ends (.flashErase n q) 0 0 [] t ∧ t.fuses = s.fuses ∧
        ∀ x, flashBytes t.boot.flash x 1 = if a ≤ x ∧ x < a + len then [0xFF] else flashBytes f x 1)) ∧
    (starts 0x42 → s.authority c = true →
      (flashSize < a + c.data.length → ∃ t, ends (.flashWrite n q) 1 codeAccess [] t ∧ same t) ∧
      (a + c.data.length ≤ flashSize → Memory.wf f = true →
        ((f.read a c.data.length).all (fun b => b == 0) = true → ∃ t, ends (.flashWrite n q) 0 0 [] t ∧
          flashBytes t.boot.flash a c.data.length = c.data) ∧
        ((f.read a c.data.length).all (fun b => b == 0) = false → ∃ t, ends (.flashWrite n q) 1 codeAccess [] t) ∧
        ∃ t, exec (.flashWrite n q) s = .next t ∧ t.fuses = s.fuses ∧ ∀ x,
          (x < a ∨ a + c.data.length ≤ x ∨ flashBytes f x 1 ≠ [0xFF]) → flashBytes t.boot.flash x 1 = flashBytes f x 1)) ∧
    (starts 0x44 → s.authority c = true → ∃ t, ends (.svnAdvance n q) 0 0 [] t ∧ t.boot.flash = f ∧
      t.fuses = { s.fuses with svnMin := max s.fuses.svnMin s.boot.svn }) ∧
    (starts 0x48 → s.authority c = true →
      ((s.fuses.freeOwner = none ∨ s.mayEnrol = false) → ∃ t, ends (.keyEnrol n q) 2 codeState [] t ∧ same t) ∧
      (∀ k, s.fuses.freeOwner = some k → s.mayEnrol = true → ∃ t, ends (.keyEnrol n q) 0 0 [] t ∧
        t.fuses = { s.fuses with ownerHash := SMap.put s.fuses.ownerHash k (leNat (c.data.take 32)) } ∧
        t.boot.flash = f ∧ t.boot.fuseOps = s.boot.fuseOps + 1)) ∧
    (starts 0x49 → s.authority c = true →
      ((4 ≤ slot ∨ SMap.get? s.fuses.ownerHash slot = none ∨ slot = s.boot.okey) →
        ∃ t, ends (.keyRevoke n q) 2 codeState [] t ∧ same t) ∧
      (slot < 4 → (SMap.get? s.fuses.ownerHash slot).isSome = true → slot ≠ s.boot.okey →
        ∃ t, ends (.keyRevoke n q) 0 0 [] t ∧ NSet.has t.fuses.ownerRev slot = true ∧
          t.fuses = { s.fuses with ownerRev := t.fuses.ownerRev } ∧ t.boot.flash = f)) ∧
    (starts 0x43 → c.out = [] → (s.begin c).admitHeld = true → exec (.secAttest n q) s = .next (s.begin c)) ∧
    (starts 0x43 → c.out = [] → (s.begin c).admitHeld = false →
      let r := (s.begin c).report ((c.bytes.drop 32).take 32)
      let v := (s.begin c).touch (s.begin c).admitPa 2048
      (c.space = 2 → ∃ t, exec (.secAttest n q) s = .next t ∧ same t ∧ t.boot.attests = s.boot.attests + 1 ∧
        ∃ d k, t.cmdAt n q = some d ∧ d.phase = .done ∧ d.status = 0 ∧ d.out.length ≤ 16384 ∧
          d.out ++ d.out2 = r ++ slhSign slh128f s.fuses.identityKey (leBytes 16 (Config.number k)) r) ∧
      (c.space ≠ 2 →
        let ten := (s.session n).ten
        let b := v.modCmd n q fun c => { c with out := r }
        let held : Bool := decide (c.space ≠ 1) && b.rangeHeld b.hostHeld ten c.addr 17600 true
        let mine (u : State) (l : Nat) : Bool := u.memOk (masterSession n) (64 * l) 64 true
        (held = true → exec (.secAttest n q) s = .next b) ∧
        (∀ u code, held = false → b.hostPlace c 17600 true = (u, .error code) →
          exec (.secAttest n q) s = .next (u.faulty c code) ∧ u.boot.attests = s.boot.attests) ∧
        ∀ u p, held = false → b.hostPlace c 17600 true = (u, .ok p) → u.boot.attests = s.boot.attests ∧
          (∀ l, (p.lineList.find? fun l => !mine u l) = some l → exec (.secAttest n q) s =
            .next ((u.memDenied (masterSession n) (64 * l) true).faulty c codeAccess)) ∧
          (p.lineList.all (mine u) = true → (u.placeHeld p || u.dataWaits c p) = true → exec (.secAttest n q) s = .next u) ∧
          (p.lineList.all (mine u) = true → (u.placeHeld p || u.dataWaits c p) = false →
            exec (.secAttest n q) s =
              .next (((u.signReport r).1.rowStore ten (u.signReport r).2 (fun _ _ => false) p).okay c) ∧
            (u.signReport r).1.boot.attests = s.boot.attests + 1)))

/-! ### Power, telemetry and the sideband (R397–R400, R407, R416–R424) -/

/-- R397–R400, R407, R417–R424: a sampling that shows a trip loses everything but fuses and flash; another keeps its
readings and judges Table 19.8. A millisecond counts its energy, and above the cap takes 50 MHz from the tenancy to lower;
ENVELOPE stands for at most ten on end. A clock that needs a higher setpoint waits for the regulator; one that does not
acknowledge in time leaves the clocks. A device that has stopped does nothing of this (DEDUCED, log entry 86); that memory is
empty and unmarked after a trip is the model's (DESIGN CHOICE, log entry 3: R424 says only that it is not preserved). Which
tenancy is lowered among equals is log entry 35 (DESIGN CHOICE). An emergency takes every core to 800 MHz. Caps outside
400 to 1,100 W are ignored. I3C answers from boot step 1 on; it reads the fields of Table 17.9, writes POWER_CAP and
CONTROL, and takes its address by ENTDAA, showing SERIAL[31:0], or from the static address of the lands. -/
def Obligations.PowerTelemetryAndSideband : Prop :=
  ∀ (v : Samples) (a : PowerAverages) (limit e : Bool) (value : Word) (cap : BitVec 16) (n : Nat) (bs : List Byte)
    (addr : BitVec 7) (st : Option (BitVec 7)) (s : State),
    let taken := v.stackTemps.foldl State.stackTemp (s.modPower fun p =>
      { p with sampled := true, sites := v.sites.foldl (fun m x => SMap.put m x.1 x.2) p.sites,
               stops := v.stops.foldl (fun m x => SMap.put m x.1 x.2) p.stops, supplyMin := v.supplyMv, power8 := v.power8 })
    let t0 := taken.hottest.1
    let more := s.powerOver a
    let lower := s.toLower
    (s.stopped = true → exec (.sensorSample v) s = .next s ∧ exec (.powerLimitStep a) s = .next s) ∧
    (s.stopped = false → taken.mustTrip = true → ∃ t, exec (.sensorSample v) s = .next t ∧ t.fuses = s.fuses ∧
      t.boot.flash = s.boot.flash ∧ t.pins.thermtrip = true ∧ t.mem = {} ∧ t.cores = [] ∧ t.regs = []) ∧
    (s.stopped = false → taken.mustTrip = false → ∃ t, exec (.sensorSample v) s = .next t ∧ t.power = taken.power.judge t0 ∧
      t.mem = taken.mem ∧ t.cores = s.cores ∧ t.power.supplyMin = v.supplyMv ∧
      t.power.cooling = (decide (88 ≤ t0) || (s.power.cooling && decide (85 < t0)))) ∧
    (s.stopped = false → ∃ t, exec (.powerLimitStep a) s = .next t ∧ t.mem = s.mem ∧
      t.field (pwrBase + 0x828) 63 0 = min (s.field (pwrBase + 0x828) 63 0 + 1000 * a.ms1) (2 ^ 64 - 1) ∧
      (∀ k, more = true → lower = some k → t.cutOf k = s.cutOf k + 50) ∧
      (more = true → lower = none → t.power.powerGate = true ∧ t.power.cut = s.power.cut) ∧
      (s.powerCap < a.ms1 → t.power.excess = s.power.excess + 1 ∧ (t.power.envelope = true ↔
        s.power.recovering = false ∧ s.power.excess < 10 ∧ a.us100 ≤ 12 * s.powerCap / 11)) ∧
      (a.ms1 ≤ s.powerCap → t.power.excess = 0 ∧ t.power.envelope = false)) ∧
    ((s.power.wanted = none ∨ s.stopped = true) →
      exec .regulatorAck s = .next s ∧ exec .regulatorAckTimeout s = .next s) ∧
    (∀ w, s.power.wanted = some w → s.stopped = false → exec .regulatorAck s =
        .next (s.power.raises.foldl (fun t p => t.raiseClock p.1 p.2)
          (s.modPower fun p => { p with setpoint := max p.setpoint w, wanted := none, raises := [] })).applyClocks ∧
      ∃ t, exec .regulatorAckTimeout s = .next t ∧ t.power = { s.power with
          wanted := none, raises := [], gaveUp := some s.targets, setpoint := vSet s.maxFreq } ∧ t.cores = s.cores ∧
        t.field (pwrBase + 0x10) 47 16 = min (s.field (pwrBase + 0x10) 47 16 + 1) (2 ^ 32 - 1)) ∧
    ((s.stopped = true ∨ bits 10 0 value.toNat < 400 ∨ 1100 < bits 10 0 value.toNat) →
      exec (.pwrCtrlWrite true value) s = .next s) ∧
    (s.stopped = false → 400 ≤ bits 10 0 value.toNat → bits 10 0 value.toNat ≤ 1100 → ∃ t, exec (.pwrCtrlWrite true value) s = .next t ∧
      t.field (pwrBase + 8) 10 0 = bits 10 0 value.toNat ∧ t.cores = s.cores) ∧
    (s.stopped = true → exec (.pwrCtrlWrite false value) s = .next s) ∧
    (s.stopped = false → exec (.pwrCtrlWrite false value) s = .next (s.writeReg pwrBase value.toNat).applyClocks) ∧
    (∃ t, exec (.pwrCtrlWrite limit value) s = .next t ∧ t.mem = s.mem ∧ ∀ c, (t.core c).img = (s.core c).img) ∧
    (0 < s.boot.step → ∃ t, exec (.powerCapWrite cap) s = .next t ∧ t = { s with power := { s.power with
      cap := if 400 ≤ cap.toNat ∧ cap.toNat ≤ 1100 then cap.toNat else s.power.cap } }) ∧
    (0 < s.boot.step → ∃ t, exec (.emergencyWrite e) s = .next t ∧ t.power.emergency = e ∧ t.mem = s.mem ∧
      (e = true → ∀ c, c < s.coreCount → (t.core c).freq = 800)) ∧
    (0 < s.boot.step → ∃ t, exec (.i3cPrivateRead n) s = .next t ∧ t = { s with power := t.power } ∧ t.power.i3cOut.length = n ∧
      t.power.i3cIndex = s.power.i3cIndex + BitVec.ofNat 8 n) ∧
    (exec (.i3cPrivateWrite []) s = .next s ∧
      ∀ b, 0 < s.boot.step → exec (.i3cPrivateWrite [b]) s = .next (s.modPower fun p => { p with i3cIndex := b })) ∧
    (∃ t, exec (.i3cPrivateWrite bs) s = .next t ∧ t.mem = s.mem ∧ t.fuses = s.fuses) ∧
    (0 < s.boot.step → ∃ t, exec (.i3cPrivateWrite [0x16, value.setWidth 8, (value >>> 8).setWidth 8]) s = .next t ∧
      t.power.cap = if 400 ≤ bits 15 0 value.toNat ∧ bits 15 0 value.toNat ≤ 1100 then bits 15 0 value.toNat else s.power.cap) ∧
    (0 < s.boot.step → (∃ t, exec (.i3cAddressAssign addr none) s = .next t ∧
        t = { s with power := { s.power with i3cAddr := some addr, i3cPid := t.power.i3cPid } } ∧
        ∃ p, t.power.i3cPid = some p ∧ p.toNat % 2 ^ 32 = s.fuses.serial % 2 ^ 32) ∧
      ∀ x, exec (.i3cAddressAssign addr (some x)) s =
        if x.toNat = 0x48 + s.power.i3cLands.toNat then .next { s with power := { s.power with i3cAddr := some addr } }
        else .next s) ∧
    (s.boot.step = 0 → exec (.powerCapWrite cap) s = .next s ∧ exec (.emergencyWrite e) s = .next s ∧
      exec (.i3cPrivateRead n) s = .next s ∧ exec (.i3cPrivateWrite bs) s = .next s ∧
      exec (.i3cAddressAssign addr st) s = .next s)

/-! ### Reset values and fuses -/

/-- R19, R66, R374: what reset leaves: no command waits, every stored register holds its Reset column (those that a unit
computes are not among them), every stream is IDLE, nothing is stored, blazed or in flight, the RWL fields are open, every
session is CLOSED and the boot has not begun. That memory holds nothing, no mark and no error is the model's choice (log
entry 3, DESIGN CHOICE; R204 leaves it undefined). -/
def Obligations.ResetLeavesDeviceUnstarted : Prop :=
  let s := State.reset
  s.pending = [] ∧ (∀ off, s.reg off = regReset off) ∧ s.locked = false ∧
  (∀ i, (s.stream i).state = .idle ∧ (s.stream i).faultCode = 0 ∧ (s.stream i).pauseReq = false) ∧
  (∀ c, (s.core c).res = none ∧ (s.core c).nc = [] ∧ (s.core c).tlb = [] ∧ (s.core c).img.dma.descs = []) ∧
  s.mem.bytes = [] ∧ s.mem.blz = [] ∧ s.mem.errs = [] ∧ (∀ st, (s.stack st).state = stTraining ∧ (s.stack st).scarf = []) ∧
  (∀ n, (s.session n).state = 0) ∧ s.host.cmds = [] ∧ s.host.lease = none ∧ s.host.accepting = false ∧
  s.boot.step = 0 ∧ s.boot.result = 0 ∧ s.fab.paths = [] ∧ (∀ p, (s.port p).up = false) ∧
  s.sync.regs = [] ∧ s.sync.ops = [] ∧ s.flume.runs = [] ∧ s.accMsgs = [] ∧ s.power.cap = 1100

/-- R372, R383, R384: no step but that of an SVN_ADVANCE, KEY_ENROL or KEY_REVOKE changes a fuse; and whatever the step,
with a command at the front or on an empty queue, the least version never falls, no programmed owner key changes, and no
revocation is undone. -/
def Obligations.FusesOnlyBlow : Prop :=
  ∀ (s t : State), step s = .next t →
    ((∀ n q, s.pending.head? ≠ some (.svnAdvance n q) ∧ s.pending.head? ≠ some (.keyEnrol n q) ∧
      s.pending.head? ≠ some (.keyRevoke n q)) → t.fuses = s.fuses) ∧
    s.fuses.svnMin ≤ t.fuses.svnMin ∧
    (∀ k h, SMap.get? s.fuses.ownerHash k = some h → SMap.get? t.fuses.ownerHash k = some h) ∧
    (∀ k, NSet.has s.fuses.ownerRev k = true → NSet.has t.fuses.ownerRev k = true)
end

