-- ==== Sys2Proof/Laws/State.lean ====
section
/-! SUPPORT. What each named update of the state leaves as it is: one lemma per field per update, so that no later proof
unfolds a record update. -/

namespace Sys2Proof.Machine

variable (s : State)

/-! ### `setReg`: only `regs` may differ -/

@[simp] theorem State.setReg_pending (off v : Nat) : (s.setReg off v).pending = s.pending := rfl
@[simp] theorem State.setReg_locked (off v : Nat) : (s.setReg off v).locked = s.locked := rfl
@[simp] theorem State.setReg_cores (off v : Nat) : (s.setReg off v).cores = s.cores := rfl
@[simp] theorem State.setReg_images (off v : Nat) : (s.setReg off v).images = s.images := rfl
@[simp] theorem State.setReg_mem (off v : Nat) : (s.setReg off v).mem = s.mem := rfl
@[simp] theorem State.setReg_accMsgs (off v : Nat) : (s.setReg off v).accMsgs = s.accMsgs := rfl
@[simp] theorem State.setReg_accAcks (off v : Nat) : (s.setReg off v).accAcks = s.accAcks := rfl
@[simp] theorem State.setReg_accNotices (off v : Nat) : (s.setReg off v).accNotices = s.accNotices := rfl
@[simp] theorem State.setReg_flume (off v : Nat) : (s.setReg off v).flume = s.flume := rfl
@[simp] theorem State.setReg_tally (off v : Nat) : (s.setReg off v).tally = s.tally := rfl
@[simp] theorem State.setReg_sync (off v : Nat) : (s.setReg off v).sync = s.sync := rfl
@[simp] theorem State.setReg_faultQ (off v : Nat) : (s.setReg off v).faultQ = s.faultQ := rfl
@[simp] theorem State.setReg_tenReset (off v : Nat) : (s.setReg off v).tenReset = s.tenReset := rfl
@[simp] theorem State.setReg_tenWait (off v : Nat) : (s.setReg off v).tenWait = s.tenWait := rfl
@[simp] theorem State.setReg_switchPhase (off v : Nat) : (s.setReg off v).switchPhase = s.switchPhase := rfl
@[simp] theorem State.setReg_fuses (off v : Nat) : (s.setReg off v).fuses = s.fuses := rfl
@[simp] theorem State.setReg_noc (off v : Nat) : (s.setReg off v).noc = s.noc := rfl
@[simp] theorem State.setReg_fab (off v : Nat) : (s.setReg off v).fab = s.fab := rfl
@[simp] theorem State.setReg_host (off v : Nat) : (s.setReg off v).host = s.host := rfl
@[simp] theorem State.setReg_boot (off v : Nat) : (s.setReg off v).boot = s.boot := rfl
@[simp] theorem State.setReg_power (off v : Nat) : (s.setReg off v).power = s.power := rfl
@[simp] theorem State.setReg_pins (off v : Nat) : (s.setReg off v).pins = s.pins := rfl
@[simp] theorem State.setReg_parked (off v : Nat) : (s.setReg off v).parked = s.parked := rfl
@[simp] theorem State.setReg_free (off v : Nat) : (s.setReg off v).free = s.free := rfl

/-! ### `setField`: only `regs` may differ -/

@[simp] theorem State.setField_pending (off hi lo v : Nat) : (s.setField off hi lo v).pending = s.pending := rfl
@[simp] theorem State.setField_locked (off hi lo v : Nat) : (s.setField off hi lo v).locked = s.locked := rfl
@[simp] theorem State.setField_cores (off hi lo v : Nat) : (s.setField off hi lo v).cores = s.cores := rfl
@[simp] theorem State.setField_images (off hi lo v : Nat) : (s.setField off hi lo v).images = s.images := rfl
@[simp] theorem State.setField_mem (off hi lo v : Nat) : (s.setField off hi lo v).mem = s.mem := rfl
@[simp] theorem State.setField_accMsgs (off hi lo v : Nat) : (s.setField off hi lo v).accMsgs = s.accMsgs := rfl
@[simp] theorem State.setField_accAcks (off hi lo v : Nat) : (s.setField off hi lo v).accAcks = s.accAcks := rfl
@[simp] theorem State.setField_accNotices (off hi lo v : Nat) : (s.setField off hi lo v).accNotices = s.accNotices := rfl
@[simp] theorem State.setField_flume (off hi lo v : Nat) : (s.setField off hi lo v).flume = s.flume := rfl
@[simp] theorem State.setField_tally (off hi lo v : Nat) : (s.setField off hi lo v).tally = s.tally := rfl
@[simp] theorem State.setField_sync (off hi lo v : Nat) : (s.setField off hi lo v).sync = s.sync := rfl
@[simp] theorem State.setField_faultQ (off hi lo v : Nat) : (s.setField off hi lo v).faultQ = s.faultQ := rfl
@[simp] theorem State.setField_tenReset (off hi lo v : Nat) : (s.setField off hi lo v).tenReset = s.tenReset := rfl
@[simp] theorem State.setField_tenWait (off hi lo v : Nat) : (s.setField off hi lo v).tenWait = s.tenWait := rfl
@[simp] theorem State.setField_switchPhase (off hi lo v : Nat) : (s.setField off hi lo v).switchPhase = s.switchPhase := rfl
@[simp] theorem State.setField_fuses (off hi lo v : Nat) : (s.setField off hi lo v).fuses = s.fuses := rfl
@[simp] theorem State.setField_noc (off hi lo v : Nat) : (s.setField off hi lo v).noc = s.noc := rfl
@[simp] theorem State.setField_fab (off hi lo v : Nat) : (s.setField off hi lo v).fab = s.fab := rfl
@[simp] theorem State.setField_host (off hi lo v : Nat) : (s.setField off hi lo v).host = s.host := rfl
@[simp] theorem State.setField_boot (off hi lo v : Nat) : (s.setField off hi lo v).boot = s.boot := rfl
@[simp] theorem State.setField_power (off hi lo v : Nat) : (s.setField off hi lo v).power = s.power := rfl
@[simp] theorem State.setField_pins (off hi lo v : Nat) : (s.setField off hi lo v).pins = s.pins := rfl
@[simp] theorem State.setField_parked (off hi lo v : Nat) : (s.setField off hi lo v).parked = s.parked := rfl
@[simp] theorem State.setField_free (off hi lo v : Nat) : (s.setField off hi lo v).free = s.free := rfl

/-! ### `count`: only `regs` may differ -/

@[simp] theorem State.count_pending (off hi lo n : Nat) : (s.count off hi lo n).pending = s.pending := rfl
@[simp] theorem State.count_locked (off hi lo n : Nat) : (s.count off hi lo n).locked = s.locked := rfl
@[simp] theorem State.count_cores (off hi lo n : Nat) : (s.count off hi lo n).cores = s.cores := rfl
@[simp] theorem State.count_images (off hi lo n : Nat) : (s.count off hi lo n).images = s.images := rfl
@[simp] theorem State.count_mem (off hi lo n : Nat) : (s.count off hi lo n).mem = s.mem := rfl
@[simp] theorem State.count_accMsgs (off hi lo n : Nat) : (s.count off hi lo n).accMsgs = s.accMsgs := rfl
@[simp] theorem State.count_accAcks (off hi lo n : Nat) : (s.count off hi lo n).accAcks = s.accAcks := rfl
@[simp] theorem State.count_accNotices (off hi lo n : Nat) : (s.count off hi lo n).accNotices = s.accNotices := rfl
@[simp] theorem State.count_flume (off hi lo n : Nat) : (s.count off hi lo n).flume = s.flume := rfl
@[simp] theorem State.count_tally (off hi lo n : Nat) : (s.count off hi lo n).tally = s.tally := rfl
@[simp] theorem State.count_sync (off hi lo n : Nat) : (s.count off hi lo n).sync = s.sync := rfl
@[simp] theorem State.count_faultQ (off hi lo n : Nat) : (s.count off hi lo n).faultQ = s.faultQ := rfl
@[simp] theorem State.count_tenReset (off hi lo n : Nat) : (s.count off hi lo n).tenReset = s.tenReset := rfl
@[simp] theorem State.count_tenWait (off hi lo n : Nat) : (s.count off hi lo n).tenWait = s.tenWait := rfl
@[simp] theorem State.count_switchPhase (off hi lo n : Nat) : (s.count off hi lo n).switchPhase = s.switchPhase := rfl
@[simp] theorem State.count_fuses (off hi lo n : Nat) : (s.count off hi lo n).fuses = s.fuses := rfl
@[simp] theorem State.count_noc (off hi lo n : Nat) : (s.count off hi lo n).noc = s.noc := rfl
@[simp] theorem State.count_fab (off hi lo n : Nat) : (s.count off hi lo n).fab = s.fab := rfl
@[simp] theorem State.count_host (off hi lo n : Nat) : (s.count off hi lo n).host = s.host := rfl
@[simp] theorem State.count_boot (off hi lo n : Nat) : (s.count off hi lo n).boot = s.boot := rfl
@[simp] theorem State.count_power (off hi lo n : Nat) : (s.count off hi lo n).power = s.power := rfl
@[simp] theorem State.count_pins (off hi lo n : Nat) : (s.count off hi lo n).pins = s.pins := rfl
@[simp] theorem State.count_parked (off hi lo n : Nat) : (s.count off hi lo n).parked = s.parked := rfl
@[simp] theorem State.count_free (off hi lo n : Nat) : (s.count off hi lo n).free = s.free := rfl

/-! ### `setCore`: only `cores` may differ -/

@[simp] theorem State.setCore_pending (c : Nat) (k : CoreState) : (s.setCore c k).pending = s.pending := rfl
@[simp] theorem State.setCore_regs (c : Nat) (k : CoreState) : (s.setCore c k).regs = s.regs := rfl
@[simp] theorem State.setCore_locked (c : Nat) (k : CoreState) : (s.setCore c k).locked = s.locked := rfl
@[simp] theorem State.setCore_images (c : Nat) (k : CoreState) : (s.setCore c k).images = s.images := rfl
@[simp] theorem State.setCore_mem (c : Nat) (k : CoreState) : (s.setCore c k).mem = s.mem := rfl
@[simp] theorem State.setCore_accMsgs (c : Nat) (k : CoreState) : (s.setCore c k).accMsgs = s.accMsgs := rfl
@[simp] theorem State.setCore_accAcks (c : Nat) (k : CoreState) : (s.setCore c k).accAcks = s.accAcks := rfl
@[simp] theorem State.setCore_accNotices (c : Nat) (k : CoreState) : (s.setCore c k).accNotices = s.accNotices := rfl
@[simp] theorem State.setCore_flume (c : Nat) (k : CoreState) : (s.setCore c k).flume = s.flume := rfl
@[simp] theorem State.setCore_tally (c : Nat) (k : CoreState) : (s.setCore c k).tally = s.tally := rfl
@[simp] theorem State.setCore_sync (c : Nat) (k : CoreState) : (s.setCore c k).sync = s.sync := rfl
@[simp] theorem State.setCore_faultQ (c : Nat) (k : CoreState) : (s.setCore c k).faultQ = s.faultQ := rfl
@[simp] theorem State.setCore_tenReset (c : Nat) (k : CoreState) : (s.setCore c k).tenReset = s.tenReset := rfl
@[simp] theorem State.setCore_tenWait (c : Nat) (k : CoreState) : (s.setCore c k).tenWait = s.tenWait := rfl
@[simp] theorem State.setCore_switchPhase (c : Nat) (k : CoreState) : (s.setCore c k).switchPhase = s.switchPhase := rfl
@[simp] theorem State.setCore_fuses (c : Nat) (k : CoreState) : (s.setCore c k).fuses = s.fuses := rfl
@[simp] theorem State.setCore_noc (c : Nat) (k : CoreState) : (s.setCore c k).noc = s.noc := rfl
@[simp] theorem State.setCore_fab (c : Nat) (k : CoreState) : (s.setCore c k).fab = s.fab := rfl
@[simp] theorem State.setCore_host (c : Nat) (k : CoreState) : (s.setCore c k).host = s.host := rfl
@[simp] theorem State.setCore_boot (c : Nat) (k : CoreState) : (s.setCore c k).boot = s.boot := rfl
@[simp] theorem State.setCore_power (c : Nat) (k : CoreState) : (s.setCore c k).power = s.power := rfl
@[simp] theorem State.setCore_pins (c : Nat) (k : CoreState) : (s.setCore c k).pins = s.pins := rfl
@[simp] theorem State.setCore_parked (c : Nat) (k : CoreState) : (s.setCore c k).parked = s.parked := rfl
@[simp] theorem State.setCore_free (c : Nat) (k : CoreState) : (s.setCore c k).free = s.free := rfl

/-! ### `modCore`: only `cores` may differ -/

@[simp] theorem State.modCore_pending (c : Nat) (g : CoreState → CoreState) : (s.modCore c g).pending = s.pending := rfl
@[simp] theorem State.modCore_regs (c : Nat) (g : CoreState → CoreState) : (s.modCore c g).regs = s.regs := rfl
@[simp] theorem State.modCore_locked (c : Nat) (g : CoreState → CoreState) : (s.modCore c g).locked = s.locked := rfl
@[simp] theorem State.modCore_images (c : Nat) (g : CoreState → CoreState) : (s.modCore c g).images = s.images := rfl
@[simp] theorem State.modCore_mem (c : Nat) (g : CoreState → CoreState) : (s.modCore c g).mem = s.mem := rfl
@[simp] theorem State.modCore_accMsgs (c : Nat) (g : CoreState → CoreState) : (s.modCore c g).accMsgs = s.accMsgs := rfl
@[simp] theorem State.modCore_accAcks (c : Nat) (g : CoreState → CoreState) : (s.modCore c g).accAcks = s.accAcks := rfl
@[simp] theorem State.modCore_accNotices (c : Nat) (g : CoreState → CoreState) : (s.modCore c g).accNotices = s.accNotices := rfl
@[simp] theorem State.modCore_flume (c : Nat) (g : CoreState → CoreState) : (s.modCore c g).flume = s.flume := rfl
@[simp] theorem State.modCore_tally (c : Nat) (g : CoreState → CoreState) : (s.modCore c g).tally = s.tally := rfl
@[simp] theorem State.modCore_sync (c : Nat) (g : CoreState → CoreState) : (s.modCore c g).sync = s.sync := rfl
@[simp] theorem State.modCore_faultQ (c : Nat) (g : CoreState → CoreState) : (s.modCore c g).faultQ = s.faultQ := rfl
@[simp] theorem State.modCore_tenReset (c : Nat) (g : CoreState → CoreState) : (s.modCore c g).tenReset = s.tenReset := rfl
@[simp] theorem State.modCore_tenWait (c : Nat) (g : CoreState → CoreState) : (s.modCore c g).tenWait = s.tenWait := rfl
@[simp] theorem State.modCore_switchPhase (c : Nat) (g : CoreState → CoreState) : (s.modCore c g).switchPhase = s.switchPhase := rfl
@[simp] theorem State.modCore_fuses (c : Nat) (g : CoreState → CoreState) : (s.modCore c g).fuses = s.fuses := rfl
@[simp] theorem State.modCore_noc (c : Nat) (g : CoreState → CoreState) : (s.modCore c g).noc = s.noc := rfl
@[simp] theorem State.modCore_fab (c : Nat) (g : CoreState → CoreState) : (s.modCore c g).fab = s.fab := rfl
@[simp] theorem State.modCore_host (c : Nat) (g : CoreState → CoreState) : (s.modCore c g).host = s.host := rfl
@[simp] theorem State.modCore_boot (c : Nat) (g : CoreState → CoreState) : (s.modCore c g).boot = s.boot := rfl
@[simp] theorem State.modCore_power (c : Nat) (g : CoreState → CoreState) : (s.modCore c g).power = s.power := rfl
@[simp] theorem State.modCore_pins (c : Nat) (g : CoreState → CoreState) : (s.modCore c g).pins = s.pins := rfl
@[simp] theorem State.modCore_parked (c : Nat) (g : CoreState → CoreState) : (s.modCore c g).parked = s.parked := rfl
@[simp] theorem State.modCore_free (c : Nat) (g : CoreState → CoreState) : (s.modCore c g).free = s.free := rfl

/-! ### `modImg`: only `cores` may differ -/

@[simp] theorem State.modImg_pending (c : Nat) (g : CoreImage → CoreImage) : (s.modImg c g).pending = s.pending := rfl
@[simp] theorem State.modImg_regs (c : Nat) (g : CoreImage → CoreImage) : (s.modImg c g).regs = s.regs := rfl
@[simp] theorem State.modImg_locked (c : Nat) (g : CoreImage → CoreImage) : (s.modImg c g).locked = s.locked := rfl
@[simp] theorem State.modImg_images (c : Nat) (g : CoreImage → CoreImage) : (s.modImg c g).images = s.images := rfl
@[simp] theorem State.modImg_mem (c : Nat) (g : CoreImage → CoreImage) : (s.modImg c g).mem = s.mem := rfl
@[simp] theorem State.modImg_accMsgs (c : Nat) (g : CoreImage → CoreImage) : (s.modImg c g).accMsgs = s.accMsgs := rfl
@[simp] theorem State.modImg_accAcks (c : Nat) (g : CoreImage → CoreImage) : (s.modImg c g).accAcks = s.accAcks := rfl
@[simp] theorem State.modImg_accNotices (c : Nat) (g : CoreImage → CoreImage) : (s.modImg c g).accNotices = s.accNotices := rfl
@[simp] theorem State.modImg_flume (c : Nat) (g : CoreImage → CoreImage) : (s.modImg c g).flume = s.flume := rfl
@[simp] theorem State.modImg_tally (c : Nat) (g : CoreImage → CoreImage) : (s.modImg c g).tally = s.tally := rfl
@[simp] theorem State.modImg_sync (c : Nat) (g : CoreImage → CoreImage) : (s.modImg c g).sync = s.sync := rfl
@[simp] theorem State.modImg_faultQ (c : Nat) (g : CoreImage → CoreImage) : (s.modImg c g).faultQ = s.faultQ := rfl
@[simp] theorem State.modImg_tenReset (c : Nat) (g : CoreImage → CoreImage) : (s.modImg c g).tenReset = s.tenReset := rfl
@[simp] theorem State.modImg_tenWait (c : Nat) (g : CoreImage → CoreImage) : (s.modImg c g).tenWait = s.tenWait := rfl
@[simp] theorem State.modImg_switchPhase (c : Nat) (g : CoreImage → CoreImage) : (s.modImg c g).switchPhase = s.switchPhase := rfl
@[simp] theorem State.modImg_fuses (c : Nat) (g : CoreImage → CoreImage) : (s.modImg c g).fuses = s.fuses := rfl
@[simp] theorem State.modImg_noc (c : Nat) (g : CoreImage → CoreImage) : (s.modImg c g).noc = s.noc := rfl
@[simp] theorem State.modImg_fab (c : Nat) (g : CoreImage → CoreImage) : (s.modImg c g).fab = s.fab := rfl
@[simp] theorem State.modImg_host (c : Nat) (g : CoreImage → CoreImage) : (s.modImg c g).host = s.host := rfl
@[simp] theorem State.modImg_boot (c : Nat) (g : CoreImage → CoreImage) : (s.modImg c g).boot = s.boot := rfl
@[simp] theorem State.modImg_power (c : Nat) (g : CoreImage → CoreImage) : (s.modImg c g).power = s.power := rfl
@[simp] theorem State.modImg_pins (c : Nat) (g : CoreImage → CoreImage) : (s.modImg c g).pins = s.pins := rfl
@[simp] theorem State.modImg_parked (c : Nat) (g : CoreImage → CoreImage) : (s.modImg c g).parked = s.parked := rfl
@[simp] theorem State.modImg_free (c : Nat) (g : CoreImage → CoreImage) : (s.modImg c g).free = s.free := rfl

/-! ### `setStream`: only `cores` may differ -/

@[simp] theorem State.setStream_pending (i : At) (x : Stream) : (s.setStream i x).pending = s.pending := rfl
@[simp] theorem State.setStream_regs (i : At) (x : Stream) : (s.setStream i x).regs = s.regs := rfl
@[simp] theorem State.setStream_locked (i : At) (x : Stream) : (s.setStream i x).locked = s.locked := rfl
@[simp] theorem State.setStream_images (i : At) (x : Stream) : (s.setStream i x).images = s.images := rfl
@[simp] theorem State.setStream_mem (i : At) (x : Stream) : (s.setStream i x).mem = s.mem := rfl
@[simp] theorem State.setStream_accMsgs (i : At) (x : Stream) : (s.setStream i x).accMsgs = s.accMsgs := rfl
@[simp] theorem State.setStream_accAcks (i : At) (x : Stream) : (s.setStream i x).accAcks = s.accAcks := rfl
@[simp] theorem State.setStream_accNotices (i : At) (x : Stream) : (s.setStream i x).accNotices = s.accNotices := rfl
@[simp] theorem State.setStream_flume (i : At) (x : Stream) : (s.setStream i x).flume = s.flume := rfl
@[simp] theorem State.setStream_tally (i : At) (x : Stream) : (s.setStream i x).tally = s.tally := rfl
@[simp] theorem State.setStream_sync (i : At) (x : Stream) : (s.setStream i x).sync = s.sync := rfl
@[simp] theorem State.setStream_faultQ (i : At) (x : Stream) : (s.setStream i x).faultQ = s.faultQ := rfl
@[simp] theorem State.setStream_tenReset (i : At) (x : Stream) : (s.setStream i x).tenReset = s.tenReset := rfl
@[simp] theorem State.setStream_tenWait (i : At) (x : Stream) : (s.setStream i x).tenWait = s.tenWait := rfl
@[simp] theorem State.setStream_switchPhase (i : At) (x : Stream) : (s.setStream i x).switchPhase = s.switchPhase := rfl
@[simp] theorem State.setStream_fuses (i : At) (x : Stream) : (s.setStream i x).fuses = s.fuses := rfl
@[simp] theorem State.setStream_noc (i : At) (x : Stream) : (s.setStream i x).noc = s.noc := rfl
@[simp] theorem State.setStream_fab (i : At) (x : Stream) : (s.setStream i x).fab = s.fab := rfl
@[simp] theorem State.setStream_host (i : At) (x : Stream) : (s.setStream i x).host = s.host := rfl
@[simp] theorem State.setStream_boot (i : At) (x : Stream) : (s.setStream i x).boot = s.boot := rfl
@[simp] theorem State.setStream_power (i : At) (x : Stream) : (s.setStream i x).power = s.power := rfl
@[simp] theorem State.setStream_pins (i : At) (x : Stream) : (s.setStream i x).pins = s.pins := rfl
@[simp] theorem State.setStream_parked (i : At) (x : Stream) : (s.setStream i x).parked = s.parked := rfl
@[simp] theorem State.setStream_free (i : At) (x : Stream) : (s.setStream i x).free = s.free := rfl

/-! ### `modStream`: only `cores` may differ -/

@[simp] theorem State.modStream_pending (i : At) (g : Stream → Stream) : (s.modStream i g).pending = s.pending := rfl
@[simp] theorem State.modStream_regs (i : At) (g : Stream → Stream) : (s.modStream i g).regs = s.regs := rfl
@[simp] theorem State.modStream_locked (i : At) (g : Stream → Stream) : (s.modStream i g).locked = s.locked := rfl
@[simp] theorem State.modStream_images (i : At) (g : Stream → Stream) : (s.modStream i g).images = s.images := rfl
@[simp] theorem State.modStream_mem (i : At) (g : Stream → Stream) : (s.modStream i g).mem = s.mem := rfl
@[simp] theorem State.modStream_accMsgs (i : At) (g : Stream → Stream) : (s.modStream i g).accMsgs = s.accMsgs := rfl
@[simp] theorem State.modStream_accAcks (i : At) (g : Stream → Stream) : (s.modStream i g).accAcks = s.accAcks := rfl
@[simp] theorem State.modStream_accNotices (i : At) (g : Stream → Stream) : (s.modStream i g).accNotices = s.accNotices := rfl
@[simp] theorem State.modStream_flume (i : At) (g : Stream → Stream) : (s.modStream i g).flume = s.flume := rfl
@[simp] theorem State.modStream_tally (i : At) (g : Stream → Stream) : (s.modStream i g).tally = s.tally := rfl
@[simp] theorem State.modStream_sync (i : At) (g : Stream → Stream) : (s.modStream i g).sync = s.sync := rfl
@[simp] theorem State.modStream_faultQ (i : At) (g : Stream → Stream) : (s.modStream i g).faultQ = s.faultQ := rfl
@[simp] theorem State.modStream_tenReset (i : At) (g : Stream → Stream) : (s.modStream i g).tenReset = s.tenReset := rfl
@[simp] theorem State.modStream_tenWait (i : At) (g : Stream → Stream) : (s.modStream i g).tenWait = s.tenWait := rfl
@[simp] theorem State.modStream_switchPhase (i : At) (g : Stream → Stream) : (s.modStream i g).switchPhase = s.switchPhase := rfl
@[simp] theorem State.modStream_fuses (i : At) (g : Stream → Stream) : (s.modStream i g).fuses = s.fuses := rfl
@[simp] theorem State.modStream_noc (i : At) (g : Stream → Stream) : (s.modStream i g).noc = s.noc := rfl
@[simp] theorem State.modStream_fab (i : At) (g : Stream → Stream) : (s.modStream i g).fab = s.fab := rfl
@[simp] theorem State.modStream_host (i : At) (g : Stream → Stream) : (s.modStream i g).host = s.host := rfl
@[simp] theorem State.modStream_boot (i : At) (g : Stream → Stream) : (s.modStream i g).boot = s.boot := rfl
@[simp] theorem State.modStream_power (i : At) (g : Stream → Stream) : (s.modStream i g).power = s.power := rfl
@[simp] theorem State.modStream_pins (i : At) (g : Stream → Stream) : (s.modStream i g).pins = s.pins := rfl
@[simp] theorem State.modStream_parked (i : At) (g : Stream → Stream) : (s.modStream i g).parked = s.parked := rfl
@[simp] theorem State.modStream_free (i : At) (g : Stream → Stream) : (s.modStream i g).free = s.free := rfl

/-! ### `setNotice`: only `cores` may differ -/

@[simp] theorem State.setNotice_pending (i : At) (v : Bool) : (s.setNotice i v).pending = s.pending := rfl
@[simp] theorem State.setNotice_regs (i : At) (v : Bool) : (s.setNotice i v).regs = s.regs := rfl
@[simp] theorem State.setNotice_locked (i : At) (v : Bool) : (s.setNotice i v).locked = s.locked := rfl
@[simp] theorem State.setNotice_images (i : At) (v : Bool) : (s.setNotice i v).images = s.images := rfl
@[simp] theorem State.setNotice_mem (i : At) (v : Bool) : (s.setNotice i v).mem = s.mem := rfl
@[simp] theorem State.setNotice_accMsgs (i : At) (v : Bool) : (s.setNotice i v).accMsgs = s.accMsgs := rfl
@[simp] theorem State.setNotice_accAcks (i : At) (v : Bool) : (s.setNotice i v).accAcks = s.accAcks := rfl
@[simp] theorem State.setNotice_accNotices (i : At) (v : Bool) : (s.setNotice i v).accNotices = s.accNotices := rfl
@[simp] theorem State.setNotice_flume (i : At) (v : Bool) : (s.setNotice i v).flume = s.flume := rfl
@[simp] theorem State.setNotice_tally (i : At) (v : Bool) : (s.setNotice i v).tally = s.tally := rfl
@[simp] theorem State.setNotice_sync (i : At) (v : Bool) : (s.setNotice i v).sync = s.sync := rfl
@[simp] theorem State.setNotice_faultQ (i : At) (v : Bool) : (s.setNotice i v).faultQ = s.faultQ := rfl
@[simp] theorem State.setNotice_tenReset (i : At) (v : Bool) : (s.setNotice i v).tenReset = s.tenReset := rfl
@[simp] theorem State.setNotice_tenWait (i : At) (v : Bool) : (s.setNotice i v).tenWait = s.tenWait := rfl
@[simp] theorem State.setNotice_switchPhase (i : At) (v : Bool) : (s.setNotice i v).switchPhase = s.switchPhase := rfl
@[simp] theorem State.setNotice_fuses (i : At) (v : Bool) : (s.setNotice i v).fuses = s.fuses := rfl
@[simp] theorem State.setNotice_noc (i : At) (v : Bool) : (s.setNotice i v).noc = s.noc := rfl
@[simp] theorem State.setNotice_fab (i : At) (v : Bool) : (s.setNotice i v).fab = s.fab := rfl
@[simp] theorem State.setNotice_host (i : At) (v : Bool) : (s.setNotice i v).host = s.host := rfl
@[simp] theorem State.setNotice_boot (i : At) (v : Bool) : (s.setNotice i v).boot = s.boot := rfl
@[simp] theorem State.setNotice_power (i : At) (v : Bool) : (s.setNotice i v).power = s.power := rfl
@[simp] theorem State.setNotice_pins (i : At) (v : Bool) : (s.setNotice i v).pins = s.pins := rfl
@[simp] theorem State.setNotice_parked (i : At) (v : Bool) : (s.setNotice i v).parked = s.parked := rfl
@[simp] theorem State.setNotice_free (i : At) (v : Bool) : (s.setNotice i v).free = s.free := rfl

/-! ### `setTile`: only `cores` may differ -/

@[simp] theorem State.setTile_pending (c n : Nat) (v : Tile) : (s.setTile c n v).pending = s.pending := rfl
@[simp] theorem State.setTile_regs (c n : Nat) (v : Tile) : (s.setTile c n v).regs = s.regs := rfl
@[simp] theorem State.setTile_locked (c n : Nat) (v : Tile) : (s.setTile c n v).locked = s.locked := rfl
@[simp] theorem State.setTile_images (c n : Nat) (v : Tile) : (s.setTile c n v).images = s.images := rfl
@[simp] theorem State.setTile_mem (c n : Nat) (v : Tile) : (s.setTile c n v).mem = s.mem := rfl
@[simp] theorem State.setTile_accMsgs (c n : Nat) (v : Tile) : (s.setTile c n v).accMsgs = s.accMsgs := rfl
@[simp] theorem State.setTile_accAcks (c n : Nat) (v : Tile) : (s.setTile c n v).accAcks = s.accAcks := rfl
@[simp] theorem State.setTile_accNotices (c n : Nat) (v : Tile) : (s.setTile c n v).accNotices = s.accNotices := rfl
@[simp] theorem State.setTile_flume (c n : Nat) (v : Tile) : (s.setTile c n v).flume = s.flume := rfl
@[simp] theorem State.setTile_tally (c n : Nat) (v : Tile) : (s.setTile c n v).tally = s.tally := rfl
@[simp] theorem State.setTile_sync (c n : Nat) (v : Tile) : (s.setTile c n v).sync = s.sync := rfl
@[simp] theorem State.setTile_faultQ (c n : Nat) (v : Tile) : (s.setTile c n v).faultQ = s.faultQ := rfl
@[simp] theorem State.setTile_tenReset (c n : Nat) (v : Tile) : (s.setTile c n v).tenReset = s.tenReset := rfl
@[simp] theorem State.setTile_tenWait (c n : Nat) (v : Tile) : (s.setTile c n v).tenWait = s.tenWait := rfl
@[simp] theorem State.setTile_switchPhase (c n : Nat) (v : Tile) : (s.setTile c n v).switchPhase = s.switchPhase := rfl
@[simp] theorem State.setTile_fuses (c n : Nat) (v : Tile) : (s.setTile c n v).fuses = s.fuses := rfl
@[simp] theorem State.setTile_noc (c n : Nat) (v : Tile) : (s.setTile c n v).noc = s.noc := rfl
@[simp] theorem State.setTile_fab (c n : Nat) (v : Tile) : (s.setTile c n v).fab = s.fab := rfl
@[simp] theorem State.setTile_host (c n : Nat) (v : Tile) : (s.setTile c n v).host = s.host := rfl
@[simp] theorem State.setTile_boot (c n : Nat) (v : Tile) : (s.setTile c n v).boot = s.boot := rfl
@[simp] theorem State.setTile_power (c n : Nat) (v : Tile) : (s.setTile c n v).power = s.power := rfl
@[simp] theorem State.setTile_pins (c n : Nat) (v : Tile) : (s.setTile c n v).pins = s.pins := rfl
@[simp] theorem State.setTile_parked (c n : Nat) (v : Tile) : (s.setTile c n v).parked = s.parked := rfl
@[simp] theorem State.setTile_free (c n : Nat) (v : Tile) : (s.setTile c n v).free = s.free := rfl

/-! ### `setAcc`: only `cores` may differ -/

@[simp] theorem State.setAcc_pending (c a : Nat) (v : Acc) : (s.setAcc c a v).pending = s.pending := rfl
@[simp] theorem State.setAcc_regs (c a : Nat) (v : Acc) : (s.setAcc c a v).regs = s.regs := rfl
@[simp] theorem State.setAcc_locked (c a : Nat) (v : Acc) : (s.setAcc c a v).locked = s.locked := rfl
@[simp] theorem State.setAcc_images (c a : Nat) (v : Acc) : (s.setAcc c a v).images = s.images := rfl
@[simp] theorem State.setAcc_mem (c a : Nat) (v : Acc) : (s.setAcc c a v).mem = s.mem := rfl
@[simp] theorem State.setAcc_accMsgs (c a : Nat) (v : Acc) : (s.setAcc c a v).accMsgs = s.accMsgs := rfl
@[simp] theorem State.setAcc_accAcks (c a : Nat) (v : Acc) : (s.setAcc c a v).accAcks = s.accAcks := rfl
@[simp] theorem State.setAcc_accNotices (c a : Nat) (v : Acc) : (s.setAcc c a v).accNotices = s.accNotices := rfl
@[simp] theorem State.setAcc_flume (c a : Nat) (v : Acc) : (s.setAcc c a v).flume = s.flume := rfl
@[simp] theorem State.setAcc_tally (c a : Nat) (v : Acc) : (s.setAcc c a v).tally = s.tally := rfl
@[simp] theorem State.setAcc_sync (c a : Nat) (v : Acc) : (s.setAcc c a v).sync = s.sync := rfl
@[simp] theorem State.setAcc_faultQ (c a : Nat) (v : Acc) : (s.setAcc c a v).faultQ = s.faultQ := rfl
@[simp] theorem State.setAcc_tenReset (c a : Nat) (v : Acc) : (s.setAcc c a v).tenReset = s.tenReset := rfl
@[simp] theorem State.setAcc_tenWait (c a : Nat) (v : Acc) : (s.setAcc c a v).tenWait = s.tenWait := rfl
@[simp] theorem State.setAcc_switchPhase (c a : Nat) (v : Acc) : (s.setAcc c a v).switchPhase = s.switchPhase := rfl
@[simp] theorem State.setAcc_fuses (c a : Nat) (v : Acc) : (s.setAcc c a v).fuses = s.fuses := rfl
@[simp] theorem State.setAcc_noc (c a : Nat) (v : Acc) : (s.setAcc c a v).noc = s.noc := rfl
@[simp] theorem State.setAcc_fab (c a : Nat) (v : Acc) : (s.setAcc c a v).fab = s.fab := rfl
@[simp] theorem State.setAcc_host (c a : Nat) (v : Acc) : (s.setAcc c a v).host = s.host := rfl
@[simp] theorem State.setAcc_boot (c a : Nat) (v : Acc) : (s.setAcc c a v).boot = s.boot := rfl
@[simp] theorem State.setAcc_power (c a : Nat) (v : Acc) : (s.setAcc c a v).power = s.power := rfl
@[simp] theorem State.setAcc_pins (c a : Nat) (v : Acc) : (s.setAcc c a v).pins = s.pins := rfl
@[simp] theorem State.setAcc_parked (c a : Nat) (v : Acc) : (s.setAcc c a v).parked = s.parked := rfl
@[simp] theorem State.setAcc_free (c a : Nat) (v : Acc) : (s.setAcc c a v).free = s.free := rfl

/-! ### `faultStream`: only `cores` may differ -/

@[simp] theorem State.faultStream_pending (i : At) (code addr : Nat) : (s.faultStream i code addr).pending = s.pending := rfl
@[simp] theorem State.faultStream_regs (i : At) (code addr : Nat) : (s.faultStream i code addr).regs = s.regs := rfl
@[simp] theorem State.faultStream_locked (i : At) (code addr : Nat) : (s.faultStream i code addr).locked = s.locked := rfl
@[simp] theorem State.faultStream_images (i : At) (code addr : Nat) : (s.faultStream i code addr).images = s.images := rfl
@[simp] theorem State.faultStream_mem (i : At) (code addr : Nat) : (s.faultStream i code addr).mem = s.mem := rfl
@[simp] theorem State.faultStream_accMsgs (i : At) (code addr : Nat) : (s.faultStream i code addr).accMsgs = s.accMsgs := rfl
@[simp] theorem State.faultStream_accAcks (i : At) (code addr : Nat) : (s.faultStream i code addr).accAcks = s.accAcks := rfl
@[simp] theorem State.faultStream_accNotices (i : At) (code addr : Nat) : (s.faultStream i code addr).accNotices = s.accNotices := rfl
@[simp] theorem State.faultStream_flume (i : At) (code addr : Nat) : (s.faultStream i code addr).flume = s.flume := rfl
@[simp] theorem State.faultStream_tally (i : At) (code addr : Nat) : (s.faultStream i code addr).tally = s.tally := rfl
@[simp] theorem State.faultStream_sync (i : At) (code addr : Nat) : (s.faultStream i code addr).sync = s.sync := rfl
@[simp] theorem State.faultStream_faultQ (i : At) (code addr : Nat) : (s.faultStream i code addr).faultQ = s.faultQ := rfl
@[simp] theorem State.faultStream_tenReset (i : At) (code addr : Nat) : (s.faultStream i code addr).tenReset = s.tenReset := rfl
@[simp] theorem State.faultStream_tenWait (i : At) (code addr : Nat) : (s.faultStream i code addr).tenWait = s.tenWait := rfl
@[simp] theorem State.faultStream_switchPhase (i : At) (code addr : Nat) : (s.faultStream i code addr).switchPhase = s.switchPhase := rfl
@[simp] theorem State.faultStream_fuses (i : At) (code addr : Nat) : (s.faultStream i code addr).fuses = s.fuses := rfl
@[simp] theorem State.faultStream_noc (i : At) (code addr : Nat) : (s.faultStream i code addr).noc = s.noc := rfl
@[simp] theorem State.faultStream_fab (i : At) (code addr : Nat) : (s.faultStream i code addr).fab = s.fab := rfl
@[simp] theorem State.faultStream_host (i : At) (code addr : Nat) : (s.faultStream i code addr).host = s.host := rfl
@[simp] theorem State.faultStream_boot (i : At) (code addr : Nat) : (s.faultStream i code addr).boot = s.boot := rfl
@[simp] theorem State.faultStream_power (i : At) (code addr : Nat) : (s.faultStream i code addr).power = s.power := rfl
@[simp] theorem State.faultStream_pins (i : At) (code addr : Nat) : (s.faultStream i code addr).pins = s.pins := rfl
@[simp] theorem State.faultStream_parked (i : At) (code addr : Nat) : (s.faultStream i code addr).parked = s.parked := rfl
@[simp] theorem State.faultStream_free (i : At) (code addr : Nat) : (s.faultStream i code addr).free = s.free := rfl

/-! ### `denied`: only `regs` may differ -/

@[simp] theorem State.denied_pending (x master pos : Nat) (write : Bool) : (s.denied x master pos write).pending = s.pending := rfl
@[simp] theorem State.denied_locked (x master pos : Nat) (write : Bool) : (s.denied x master pos write).locked = s.locked := rfl
@[simp] theorem State.denied_cores (x master pos : Nat) (write : Bool) : (s.denied x master pos write).cores = s.cores := rfl
@[simp] theorem State.denied_images (x master pos : Nat) (write : Bool) : (s.denied x master pos write).images = s.images := rfl
@[simp] theorem State.denied_mem (x master pos : Nat) (write : Bool) : (s.denied x master pos write).mem = s.mem := rfl
@[simp] theorem State.denied_accMsgs (x master pos : Nat) (write : Bool) : (s.denied x master pos write).accMsgs = s.accMsgs := rfl
@[simp] theorem State.denied_accAcks (x master pos : Nat) (write : Bool) : (s.denied x master pos write).accAcks = s.accAcks := rfl
@[simp] theorem State.denied_accNotices (x master pos : Nat) (write : Bool) : (s.denied x master pos write).accNotices = s.accNotices := rfl
@[simp] theorem State.denied_flume (x master pos : Nat) (write : Bool) : (s.denied x master pos write).flume = s.flume := rfl
@[simp] theorem State.denied_tally (x master pos : Nat) (write : Bool) : (s.denied x master pos write).tally = s.tally := rfl
@[simp] theorem State.denied_sync (x master pos : Nat) (write : Bool) : (s.denied x master pos write).sync = s.sync := rfl
@[simp] theorem State.denied_faultQ (x master pos : Nat) (write : Bool) : (s.denied x master pos write).faultQ = s.faultQ := rfl
@[simp] theorem State.denied_tenReset (x master pos : Nat) (write : Bool) : (s.denied x master pos write).tenReset = s.tenReset := rfl
@[simp] theorem State.denied_tenWait (x master pos : Nat) (write : Bool) : (s.denied x master pos write).tenWait = s.tenWait := rfl
@[simp] theorem State.denied_switchPhase (x master pos : Nat) (write : Bool) : (s.denied x master pos write).switchPhase = s.switchPhase := rfl
@[simp] theorem State.denied_fuses (x master pos : Nat) (write : Bool) : (s.denied x master pos write).fuses = s.fuses := rfl
@[simp] theorem State.denied_noc (x master pos : Nat) (write : Bool) : (s.denied x master pos write).noc = s.noc := rfl
@[simp] theorem State.denied_fab (x master pos : Nat) (write : Bool) : (s.denied x master pos write).fab = s.fab := rfl
@[simp] theorem State.denied_host (x master pos : Nat) (write : Bool) : (s.denied x master pos write).host = s.host := rfl
@[simp] theorem State.denied_boot (x master pos : Nat) (write : Bool) : (s.denied x master pos write).boot = s.boot := rfl
@[simp] theorem State.denied_power (x master pos : Nat) (write : Bool) : (s.denied x master pos write).power = s.power := rfl
@[simp] theorem State.denied_pins (x master pos : Nat) (write : Bool) : (s.denied x master pos write).pins = s.pins := rfl
@[simp] theorem State.denied_parked (x master pos : Nat) (write : Bool) : (s.denied x master pos write).parked = s.parked := rfl
@[simp] theorem State.denied_free (x master pos : Nat) (write : Bool) : (s.denied x master pos write).free = s.free := rfl

/-! ### `lookout`: only `regs` may differ -/

@[simp] theorem State.lookout_pending (n k : Nat) : (s.lookout n k).pending = s.pending := rfl
@[simp] theorem State.lookout_locked (n k : Nat) : (s.lookout n k).locked = s.locked := rfl
@[simp] theorem State.lookout_cores (n k : Nat) : (s.lookout n k).cores = s.cores := rfl
@[simp] theorem State.lookout_images (n k : Nat) : (s.lookout n k).images = s.images := rfl
@[simp] theorem State.lookout_mem (n k : Nat) : (s.lookout n k).mem = s.mem := rfl
@[simp] theorem State.lookout_accMsgs (n k : Nat) : (s.lookout n k).accMsgs = s.accMsgs := rfl
@[simp] theorem State.lookout_accAcks (n k : Nat) : (s.lookout n k).accAcks = s.accAcks := rfl
@[simp] theorem State.lookout_accNotices (n k : Nat) : (s.lookout n k).accNotices = s.accNotices := rfl
@[simp] theorem State.lookout_flume (n k : Nat) : (s.lookout n k).flume = s.flume := rfl
@[simp] theorem State.lookout_tally (n k : Nat) : (s.lookout n k).tally = s.tally := rfl
@[simp] theorem State.lookout_sync (n k : Nat) : (s.lookout n k).sync = s.sync := rfl
@[simp] theorem State.lookout_faultQ (n k : Nat) : (s.lookout n k).faultQ = s.faultQ := rfl
@[simp] theorem State.lookout_tenReset (n k : Nat) : (s.lookout n k).tenReset = s.tenReset := rfl
@[simp] theorem State.lookout_tenWait (n k : Nat) : (s.lookout n k).tenWait = s.tenWait := rfl
@[simp] theorem State.lookout_switchPhase (n k : Nat) : (s.lookout n k).switchPhase = s.switchPhase := rfl
@[simp] theorem State.lookout_fuses (n k : Nat) : (s.lookout n k).fuses = s.fuses := rfl
@[simp] theorem State.lookout_noc (n k : Nat) : (s.lookout n k).noc = s.noc := rfl
@[simp] theorem State.lookout_fab (n k : Nat) : (s.lookout n k).fab = s.fab := rfl
@[simp] theorem State.lookout_host (n k : Nat) : (s.lookout n k).host = s.host := rfl
@[simp] theorem State.lookout_boot (n k : Nat) : (s.lookout n k).boot = s.boot := rfl
@[simp] theorem State.lookout_power (n k : Nat) : (s.lookout n k).power = s.power := rfl
@[simp] theorem State.lookout_pins (n k : Nat) : (s.lookout n k).pins = s.pins := rfl
@[simp] theorem State.lookout_parked (n k : Nat) : (s.lookout n k).parked = s.parked := rfl
@[simp] theorem State.lookout_free (n k : Nat) : (s.lookout n k).free = s.free := rfl

/-! ### `draw`: only `free` may differ -/

@[simp] theorem State.draw_pending (n : Nat) : (s.draw n).pending = s.pending := rfl
@[simp] theorem State.draw_regs (n : Nat) : (s.draw n).regs = s.regs := rfl
@[simp] theorem State.draw_locked (n : Nat) : (s.draw n).locked = s.locked := rfl
@[simp] theorem State.draw_cores (n : Nat) : (s.draw n).cores = s.cores := rfl
@[simp] theorem State.draw_images (n : Nat) : (s.draw n).images = s.images := rfl
@[simp] theorem State.draw_mem (n : Nat) : (s.draw n).mem = s.mem := rfl
@[simp] theorem State.draw_accMsgs (n : Nat) : (s.draw n).accMsgs = s.accMsgs := rfl
@[simp] theorem State.draw_accAcks (n : Nat) : (s.draw n).accAcks = s.accAcks := rfl
@[simp] theorem State.draw_accNotices (n : Nat) : (s.draw n).accNotices = s.accNotices := rfl
@[simp] theorem State.draw_flume (n : Nat) : (s.draw n).flume = s.flume := rfl
@[simp] theorem State.draw_tally (n : Nat) : (s.draw n).tally = s.tally := rfl
@[simp] theorem State.draw_sync (n : Nat) : (s.draw n).sync = s.sync := rfl
@[simp] theorem State.draw_faultQ (n : Nat) : (s.draw n).faultQ = s.faultQ := rfl
@[simp] theorem State.draw_tenReset (n : Nat) : (s.draw n).tenReset = s.tenReset := rfl
@[simp] theorem State.draw_tenWait (n : Nat) : (s.draw n).tenWait = s.tenWait := rfl
@[simp] theorem State.draw_switchPhase (n : Nat) : (s.draw n).switchPhase = s.switchPhase := rfl
@[simp] theorem State.draw_fuses (n : Nat) : (s.draw n).fuses = s.fuses := rfl
@[simp] theorem State.draw_noc (n : Nat) : (s.draw n).noc = s.noc := rfl
@[simp] theorem State.draw_fab (n : Nat) : (s.draw n).fab = s.fab := rfl
@[simp] theorem State.draw_host (n : Nat) : (s.draw n).host = s.host := rfl
@[simp] theorem State.draw_boot (n : Nat) : (s.draw n).boot = s.boot := rfl
@[simp] theorem State.draw_power (n : Nat) : (s.draw n).power = s.power := rfl
@[simp] theorem State.draw_pins (n : Nat) : (s.draw n).pins = s.pins := rfl
@[simp] theorem State.draw_parked (n : Nat) : (s.draw n).parked = s.parked := rfl

/-! ### `advance`: only `cores` may differ -/

@[simp] theorem State.advance_pending (i : At) : (s.advance i).pending = s.pending := rfl
@[simp] theorem State.advance_regs (i : At) : (s.advance i).regs = s.regs := rfl
@[simp] theorem State.advance_locked (i : At) : (s.advance i).locked = s.locked := rfl
@[simp] theorem State.advance_images (i : At) : (s.advance i).images = s.images := rfl
@[simp] theorem State.advance_mem (i : At) : (s.advance i).mem = s.mem := rfl
@[simp] theorem State.advance_accMsgs (i : At) : (s.advance i).accMsgs = s.accMsgs := rfl
@[simp] theorem State.advance_accAcks (i : At) : (s.advance i).accAcks = s.accAcks := rfl
@[simp] theorem State.advance_accNotices (i : At) : (s.advance i).accNotices = s.accNotices := rfl
@[simp] theorem State.advance_flume (i : At) : (s.advance i).flume = s.flume := rfl
@[simp] theorem State.advance_tally (i : At) : (s.advance i).tally = s.tally := rfl
@[simp] theorem State.advance_sync (i : At) : (s.advance i).sync = s.sync := rfl
@[simp] theorem State.advance_faultQ (i : At) : (s.advance i).faultQ = s.faultQ := rfl
@[simp] theorem State.advance_tenReset (i : At) : (s.advance i).tenReset = s.tenReset := rfl
@[simp] theorem State.advance_tenWait (i : At) : (s.advance i).tenWait = s.tenWait := rfl
@[simp] theorem State.advance_switchPhase (i : At) : (s.advance i).switchPhase = s.switchPhase := rfl
@[simp] theorem State.advance_fuses (i : At) : (s.advance i).fuses = s.fuses := rfl
@[simp] theorem State.advance_noc (i : At) : (s.advance i).noc = s.noc := rfl
@[simp] theorem State.advance_fab (i : At) : (s.advance i).fab = s.fab := rfl
@[simp] theorem State.advance_host (i : At) : (s.advance i).host = s.host := rfl
@[simp] theorem State.advance_boot (i : At) : (s.advance i).boot = s.boot := rfl
@[simp] theorem State.advance_power (i : At) : (s.advance i).power = s.power := rfl
@[simp] theorem State.advance_pins (i : At) : (s.advance i).pins = s.pins := rfl
@[simp] theorem State.advance_parked (i : At) : (s.advance i).parked = s.parked := rfl
@[simp] theorem State.advance_free (i : At) : (s.advance i).free = s.free := rfl

/-! ### `sendSync`: only `sync` and `noc` may differ -/

@[simp] theorem State.sendSync_pending (o : SyncOp) : (s.sendSync o).pending = s.pending := rfl
@[simp] theorem State.sendSync_regs (o : SyncOp) : (s.sendSync o).regs = s.regs := rfl
@[simp] theorem State.sendSync_locked (o : SyncOp) : (s.sendSync o).locked = s.locked := rfl
@[simp] theorem State.sendSync_cores (o : SyncOp) : (s.sendSync o).cores = s.cores := rfl
@[simp] theorem State.sendSync_images (o : SyncOp) : (s.sendSync o).images = s.images := rfl
@[simp] theorem State.sendSync_mem (o : SyncOp) : (s.sendSync o).mem = s.mem := rfl
@[simp] theorem State.sendSync_accMsgs (o : SyncOp) : (s.sendSync o).accMsgs = s.accMsgs := rfl
@[simp] theorem State.sendSync_accAcks (o : SyncOp) : (s.sendSync o).accAcks = s.accAcks := rfl
@[simp] theorem State.sendSync_accNotices (o : SyncOp) : (s.sendSync o).accNotices = s.accNotices := rfl
@[simp] theorem State.sendSync_flume (o : SyncOp) : (s.sendSync o).flume = s.flume := rfl
@[simp] theorem State.sendSync_tally (o : SyncOp) : (s.sendSync o).tally = s.tally := rfl
@[simp] theorem State.sendSync_faultQ (o : SyncOp) : (s.sendSync o).faultQ = s.faultQ := rfl
@[simp] theorem State.sendSync_tenReset (o : SyncOp) : (s.sendSync o).tenReset = s.tenReset := rfl
@[simp] theorem State.sendSync_tenWait (o : SyncOp) : (s.sendSync o).tenWait = s.tenWait := rfl
@[simp] theorem State.sendSync_switchPhase (o : SyncOp) : (s.sendSync o).switchPhase = s.switchPhase := rfl
@[simp] theorem State.sendSync_fuses (o : SyncOp) : (s.sendSync o).fuses = s.fuses := rfl
@[simp] theorem State.sendSync_fab (o : SyncOp) : (s.sendSync o).fab = s.fab := rfl
@[simp] theorem State.sendSync_host (o : SyncOp) : (s.sendSync o).host = s.host := rfl
@[simp] theorem State.sendSync_boot (o : SyncOp) : (s.sendSync o).boot = s.boot := rfl
@[simp] theorem State.sendSync_power (o : SyncOp) : (s.sendSync o).power = s.power := rfl
@[simp] theorem State.sendSync_pins (o : SyncOp) : (s.sendSync o).pins = s.pins := rfl
@[simp] theorem State.sendSync_parked (o : SyncOp) : (s.sendSync o).parked = s.parked := rfl
@[simp] theorem State.sendSync_free (o : SyncOp) : (s.sendSync o).free = s.free := rfl

/-! ### `setObj`: only `sync` may differ -/

@[simp] theorem State.setObj_pending (j : Nat) (o : SyncObj) : (s.setObj j o).pending = s.pending := rfl
@[simp] theorem State.setObj_regs (j : Nat) (o : SyncObj) : (s.setObj j o).regs = s.regs := rfl
@[simp] theorem State.setObj_locked (j : Nat) (o : SyncObj) : (s.setObj j o).locked = s.locked := rfl
@[simp] theorem State.setObj_cores (j : Nat) (o : SyncObj) : (s.setObj j o).cores = s.cores := rfl
@[simp] theorem State.setObj_images (j : Nat) (o : SyncObj) : (s.setObj j o).images = s.images := rfl
@[simp] theorem State.setObj_mem (j : Nat) (o : SyncObj) : (s.setObj j o).mem = s.mem := rfl
@[simp] theorem State.setObj_accMsgs (j : Nat) (o : SyncObj) : (s.setObj j o).accMsgs = s.accMsgs := rfl
@[simp] theorem State.setObj_accAcks (j : Nat) (o : SyncObj) : (s.setObj j o).accAcks = s.accAcks := rfl
@[simp] theorem State.setObj_accNotices (j : Nat) (o : SyncObj) : (s.setObj j o).accNotices = s.accNotices := rfl
@[simp] theorem State.setObj_flume (j : Nat) (o : SyncObj) : (s.setObj j o).flume = s.flume := rfl
@[simp] theorem State.setObj_tally (j : Nat) (o : SyncObj) : (s.setObj j o).tally = s.tally := rfl
@[simp] theorem State.setObj_faultQ (j : Nat) (o : SyncObj) : (s.setObj j o).faultQ = s.faultQ := rfl
@[simp] theorem State.setObj_tenReset (j : Nat) (o : SyncObj) : (s.setObj j o).tenReset = s.tenReset := rfl
@[simp] theorem State.setObj_tenWait (j : Nat) (o : SyncObj) : (s.setObj j o).tenWait = s.tenWait := rfl
@[simp] theorem State.setObj_switchPhase (j : Nat) (o : SyncObj) : (s.setObj j o).switchPhase = s.switchPhase := rfl
@[simp] theorem State.setObj_fuses (j : Nat) (o : SyncObj) : (s.setObj j o).fuses = s.fuses := rfl
@[simp] theorem State.setObj_noc (j : Nat) (o : SyncObj) : (s.setObj j o).noc = s.noc := rfl
@[simp] theorem State.setObj_fab (j : Nat) (o : SyncObj) : (s.setObj j o).fab = s.fab := rfl
@[simp] theorem State.setObj_host (j : Nat) (o : SyncObj) : (s.setObj j o).host = s.host := rfl
@[simp] theorem State.setObj_boot (j : Nat) (o : SyncObj) : (s.setObj j o).boot = s.boot := rfl
@[simp] theorem State.setObj_power (j : Nat) (o : SyncObj) : (s.setObj j o).power = s.power := rfl
@[simp] theorem State.setObj_pins (j : Nat) (o : SyncObj) : (s.setObj j o).pins = s.pins := rfl
@[simp] theorem State.setObj_parked (j : Nat) (o : SyncObj) : (s.setObj j o).parked = s.parked := rfl
@[simp] theorem State.setObj_free (j : Nat) (o : SyncObj) : (s.setObj j o).free = s.free := rfl

/-! ### `modStack`: only `mem` may differ -/

@[simp] theorem State.modStack_pending (n : Nat) (g : Stack → Stack) : (s.modStack n g).pending = s.pending := rfl
@[simp] theorem State.modStack_regs (n : Nat) (g : Stack → Stack) : (s.modStack n g).regs = s.regs := rfl
@[simp] theorem State.modStack_locked (n : Nat) (g : Stack → Stack) : (s.modStack n g).locked = s.locked := rfl
@[simp] theorem State.modStack_cores (n : Nat) (g : Stack → Stack) : (s.modStack n g).cores = s.cores := rfl
@[simp] theorem State.modStack_images (n : Nat) (g : Stack → Stack) : (s.modStack n g).images = s.images := rfl
@[simp] theorem State.modStack_accMsgs (n : Nat) (g : Stack → Stack) : (s.modStack n g).accMsgs = s.accMsgs := rfl
@[simp] theorem State.modStack_accAcks (n : Nat) (g : Stack → Stack) : (s.modStack n g).accAcks = s.accAcks := rfl
@[simp] theorem State.modStack_accNotices (n : Nat) (g : Stack → Stack) : (s.modStack n g).accNotices = s.accNotices := rfl
@[simp] theorem State.modStack_flume (n : Nat) (g : Stack → Stack) : (s.modStack n g).flume = s.flume := rfl
@[simp] theorem State.modStack_tally (n : Nat) (g : Stack → Stack) : (s.modStack n g).tally = s.tally := rfl
@[simp] theorem State.modStack_sync (n : Nat) (g : Stack → Stack) : (s.modStack n g).sync = s.sync := rfl
@[simp] theorem State.modStack_faultQ (n : Nat) (g : Stack → Stack) : (s.modStack n g).faultQ = s.faultQ := rfl
@[simp] theorem State.modStack_tenReset (n : Nat) (g : Stack → Stack) : (s.modStack n g).tenReset = s.tenReset := rfl
@[simp] theorem State.modStack_tenWait (n : Nat) (g : Stack → Stack) : (s.modStack n g).tenWait = s.tenWait := rfl
@[simp] theorem State.modStack_switchPhase (n : Nat) (g : Stack → Stack) : (s.modStack n g).switchPhase = s.switchPhase := rfl
@[simp] theorem State.modStack_fuses (n : Nat) (g : Stack → Stack) : (s.modStack n g).fuses = s.fuses := rfl
@[simp] theorem State.modStack_noc (n : Nat) (g : Stack → Stack) : (s.modStack n g).noc = s.noc := rfl
@[simp] theorem State.modStack_fab (n : Nat) (g : Stack → Stack) : (s.modStack n g).fab = s.fab := rfl
@[simp] theorem State.modStack_host (n : Nat) (g : Stack → Stack) : (s.modStack n g).host = s.host := rfl
@[simp] theorem State.modStack_boot (n : Nat) (g : Stack → Stack) : (s.modStack n g).boot = s.boot := rfl
@[simp] theorem State.modStack_power (n : Nat) (g : Stack → Stack) : (s.modStack n g).power = s.power := rfl
@[simp] theorem State.modStack_pins (n : Nat) (g : Stack → Stack) : (s.modStack n g).pins = s.pins := rfl
@[simp] theorem State.modStack_parked (n : Nat) (g : Stack → Stack) : (s.modStack n g).parked = s.parked := rfl
@[simp] theorem State.modStack_free (n : Nat) (g : Stack → Stack) : (s.modStack n g).free = s.free := rfl

/-! ### `setCount`: only `mem` may differ -/

@[simp] theorem State.setCount_pending (blk n : Nat) : (s.setCount blk n).pending = s.pending := rfl
@[simp] theorem State.setCount_regs (blk n : Nat) : (s.setCount blk n).regs = s.regs := rfl
@[simp] theorem State.setCount_locked (blk n : Nat) : (s.setCount blk n).locked = s.locked := rfl
@[simp] theorem State.setCount_cores (blk n : Nat) : (s.setCount blk n).cores = s.cores := rfl
@[simp] theorem State.setCount_images (blk n : Nat) : (s.setCount blk n).images = s.images := rfl
@[simp] theorem State.setCount_accMsgs (blk n : Nat) : (s.setCount blk n).accMsgs = s.accMsgs := rfl
@[simp] theorem State.setCount_accAcks (blk n : Nat) : (s.setCount blk n).accAcks = s.accAcks := rfl
@[simp] theorem State.setCount_accNotices (blk n : Nat) : (s.setCount blk n).accNotices = s.accNotices := rfl
@[simp] theorem State.setCount_flume (blk n : Nat) : (s.setCount blk n).flume = s.flume := rfl
@[simp] theorem State.setCount_tally (blk n : Nat) : (s.setCount blk n).tally = s.tally := rfl
@[simp] theorem State.setCount_sync (blk n : Nat) : (s.setCount blk n).sync = s.sync := rfl
@[simp] theorem State.setCount_faultQ (blk n : Nat) : (s.setCount blk n).faultQ = s.faultQ := rfl
@[simp] theorem State.setCount_tenReset (blk n : Nat) : (s.setCount blk n).tenReset = s.tenReset := rfl
@[simp] theorem State.setCount_tenWait (blk n : Nat) : (s.setCount blk n).tenWait = s.tenWait := rfl
@[simp] theorem State.setCount_switchPhase (blk n : Nat) : (s.setCount blk n).switchPhase = s.switchPhase := rfl
@[simp] theorem State.setCount_fuses (blk n : Nat) : (s.setCount blk n).fuses = s.fuses := rfl
@[simp] theorem State.setCount_noc (blk n : Nat) : (s.setCount blk n).noc = s.noc := rfl
@[simp] theorem State.setCount_fab (blk n : Nat) : (s.setCount blk n).fab = s.fab := rfl
@[simp] theorem State.setCount_host (blk n : Nat) : (s.setCount blk n).host = s.host := rfl
@[simp] theorem State.setCount_boot (blk n : Nat) : (s.setCount blk n).boot = s.boot := rfl
@[simp] theorem State.setCount_power (blk n : Nat) : (s.setCount blk n).power = s.power := rfl
@[simp] theorem State.setCount_pins (blk n : Nat) : (s.setCount blk n).pins = s.pins := rfl
@[simp] theorem State.setCount_parked (blk n : Nat) : (s.setCount blk n).parked = s.parked := rfl
@[simp] theorem State.setCount_free (blk n : Nat) : (s.setCount blk n).free = s.free := rfl

/-! ### `setErrs`: only `mem` may differ -/

@[simp] theorem State.setErrs_pending (l : Nat) (es : SymErrs) : (s.setErrs l es).pending = s.pending := rfl
@[simp] theorem State.setErrs_regs (l : Nat) (es : SymErrs) : (s.setErrs l es).regs = s.regs := rfl
@[simp] theorem State.setErrs_locked (l : Nat) (es : SymErrs) : (s.setErrs l es).locked = s.locked := rfl
@[simp] theorem State.setErrs_cores (l : Nat) (es : SymErrs) : (s.setErrs l es).cores = s.cores := rfl
@[simp] theorem State.setErrs_images (l : Nat) (es : SymErrs) : (s.setErrs l es).images = s.images := rfl
@[simp] theorem State.setErrs_accMsgs (l : Nat) (es : SymErrs) : (s.setErrs l es).accMsgs = s.accMsgs := rfl
@[simp] theorem State.setErrs_accAcks (l : Nat) (es : SymErrs) : (s.setErrs l es).accAcks = s.accAcks := rfl
@[simp] theorem State.setErrs_accNotices (l : Nat) (es : SymErrs) : (s.setErrs l es).accNotices = s.accNotices := rfl
@[simp] theorem State.setErrs_flume (l : Nat) (es : SymErrs) : (s.setErrs l es).flume = s.flume := rfl
@[simp] theorem State.setErrs_tally (l : Nat) (es : SymErrs) : (s.setErrs l es).tally = s.tally := rfl
@[simp] theorem State.setErrs_sync (l : Nat) (es : SymErrs) : (s.setErrs l es).sync = s.sync := rfl
@[simp] theorem State.setErrs_faultQ (l : Nat) (es : SymErrs) : (s.setErrs l es).faultQ = s.faultQ := rfl
@[simp] theorem State.setErrs_tenReset (l : Nat) (es : SymErrs) : (s.setErrs l es).tenReset = s.tenReset := rfl
@[simp] theorem State.setErrs_tenWait (l : Nat) (es : SymErrs) : (s.setErrs l es).tenWait = s.tenWait := rfl
@[simp] theorem State.setErrs_switchPhase (l : Nat) (es : SymErrs) : (s.setErrs l es).switchPhase = s.switchPhase := rfl
@[simp] theorem State.setErrs_fuses (l : Nat) (es : SymErrs) : (s.setErrs l es).fuses = s.fuses := rfl
@[simp] theorem State.setErrs_noc (l : Nat) (es : SymErrs) : (s.setErrs l es).noc = s.noc := rfl
@[simp] theorem State.setErrs_fab (l : Nat) (es : SymErrs) : (s.setErrs l es).fab = s.fab := rfl
@[simp] theorem State.setErrs_host (l : Nat) (es : SymErrs) : (s.setErrs l es).host = s.host := rfl
@[simp] theorem State.setErrs_boot (l : Nat) (es : SymErrs) : (s.setErrs l es).boot = s.boot := rfl
@[simp] theorem State.setErrs_power (l : Nat) (es : SymErrs) : (s.setErrs l es).power = s.power := rfl
@[simp] theorem State.setErrs_pins (l : Nat) (es : SymErrs) : (s.setErrs l es).pins = s.pins := rfl
@[simp] theorem State.setErrs_parked (l : Nat) (es : SymErrs) : (s.setErrs l es).parked = s.parked := rfl
@[simp] theorem State.setErrs_free (l : Nat) (es : SymErrs) : (s.setErrs l es).free = s.free := rfl

/-! ### `modPort`: only `fab` may differ -/

@[simp] theorem State.modPort_pending (p : Nat) (g : PortState → PortState) : (s.modPort p g).pending = s.pending := rfl
@[simp] theorem State.modPort_regs (p : Nat) (g : PortState → PortState) : (s.modPort p g).regs = s.regs := rfl
@[simp] theorem State.modPort_locked (p : Nat) (g : PortState → PortState) : (s.modPort p g).locked = s.locked := rfl
@[simp] theorem State.modPort_cores (p : Nat) (g : PortState → PortState) : (s.modPort p g).cores = s.cores := rfl
@[simp] theorem State.modPort_images (p : Nat) (g : PortState → PortState) : (s.modPort p g).images = s.images := rfl
@[simp] theorem State.modPort_mem (p : Nat) (g : PortState → PortState) : (s.modPort p g).mem = s.mem := rfl
@[simp] theorem State.modPort_accMsgs (p : Nat) (g : PortState → PortState) : (s.modPort p g).accMsgs = s.accMsgs := rfl
@[simp] theorem State.modPort_accAcks (p : Nat) (g : PortState → PortState) : (s.modPort p g).accAcks = s.accAcks := rfl
@[simp] theorem State.modPort_accNotices (p : Nat) (g : PortState → PortState) : (s.modPort p g).accNotices = s.accNotices := rfl
@[simp] theorem State.modPort_flume (p : Nat) (g : PortState → PortState) : (s.modPort p g).flume = s.flume := rfl
@[simp] theorem State.modPort_tally (p : Nat) (g : PortState → PortState) : (s.modPort p g).tally = s.tally := rfl
@[simp] theorem State.modPort_sync (p : Nat) (g : PortState → PortState) : (s.modPort p g).sync = s.sync := rfl
@[simp] theorem State.modPort_faultQ (p : Nat) (g : PortState → PortState) : (s.modPort p g).faultQ = s.faultQ := rfl
@[simp] theorem State.modPort_tenReset (p : Nat) (g : PortState → PortState) : (s.modPort p g).tenReset = s.tenReset := rfl
@[simp] theorem State.modPort_tenWait (p : Nat) (g : PortState → PortState) : (s.modPort p g).tenWait = s.tenWait := rfl
@[simp] theorem State.modPort_switchPhase (p : Nat) (g : PortState → PortState) : (s.modPort p g).switchPhase = s.switchPhase := rfl
@[simp] theorem State.modPort_fuses (p : Nat) (g : PortState → PortState) : (s.modPort p g).fuses = s.fuses := rfl
@[simp] theorem State.modPort_noc (p : Nat) (g : PortState → PortState) : (s.modPort p g).noc = s.noc := rfl
@[simp] theorem State.modPort_host (p : Nat) (g : PortState → PortState) : (s.modPort p g).host = s.host := rfl
@[simp] theorem State.modPort_boot (p : Nat) (g : PortState → PortState) : (s.modPort p g).boot = s.boot := rfl
@[simp] theorem State.modPort_power (p : Nat) (g : PortState → PortState) : (s.modPort p g).power = s.power := rfl
@[simp] theorem State.modPort_pins (p : Nat) (g : PortState → PortState) : (s.modPort p g).pins = s.pins := rfl
@[simp] theorem State.modPort_parked (p : Nat) (g : PortState → PortState) : (s.modPort p g).parked = s.parked := rfl
@[simp] theorem State.modPort_free (p : Nat) (g : PortState → PortState) : (s.modPort p g).free = s.free := rfl

/-! ### `modPeer`: only `fab` may differ -/

@[simp] theorem State.modPeer_pending (d : Nat) (g : FabPeer → FabPeer) : (s.modPeer d g).pending = s.pending := rfl
@[simp] theorem State.modPeer_regs (d : Nat) (g : FabPeer → FabPeer) : (s.modPeer d g).regs = s.regs := rfl
@[simp] theorem State.modPeer_locked (d : Nat) (g : FabPeer → FabPeer) : (s.modPeer d g).locked = s.locked := rfl
@[simp] theorem State.modPeer_cores (d : Nat) (g : FabPeer → FabPeer) : (s.modPeer d g).cores = s.cores := rfl
@[simp] theorem State.modPeer_images (d : Nat) (g : FabPeer → FabPeer) : (s.modPeer d g).images = s.images := rfl
@[simp] theorem State.modPeer_mem (d : Nat) (g : FabPeer → FabPeer) : (s.modPeer d g).mem = s.mem := rfl
@[simp] theorem State.modPeer_accMsgs (d : Nat) (g : FabPeer → FabPeer) : (s.modPeer d g).accMsgs = s.accMsgs := rfl
@[simp] theorem State.modPeer_accAcks (d : Nat) (g : FabPeer → FabPeer) : (s.modPeer d g).accAcks = s.accAcks := rfl
@[simp] theorem State.modPeer_accNotices (d : Nat) (g : FabPeer → FabPeer) : (s.modPeer d g).accNotices = s.accNotices := rfl
@[simp] theorem State.modPeer_flume (d : Nat) (g : FabPeer → FabPeer) : (s.modPeer d g).flume = s.flume := rfl
@[simp] theorem State.modPeer_tally (d : Nat) (g : FabPeer → FabPeer) : (s.modPeer d g).tally = s.tally := rfl
@[simp] theorem State.modPeer_sync (d : Nat) (g : FabPeer → FabPeer) : (s.modPeer d g).sync = s.sync := rfl
@[simp] theorem State.modPeer_faultQ (d : Nat) (g : FabPeer → FabPeer) : (s.modPeer d g).faultQ = s.faultQ := rfl
@[simp] theorem State.modPeer_tenReset (d : Nat) (g : FabPeer → FabPeer) : (s.modPeer d g).tenReset = s.tenReset := rfl
@[simp] theorem State.modPeer_tenWait (d : Nat) (g : FabPeer → FabPeer) : (s.modPeer d g).tenWait = s.tenWait := rfl
@[simp] theorem State.modPeer_switchPhase (d : Nat) (g : FabPeer → FabPeer) : (s.modPeer d g).switchPhase = s.switchPhase := rfl
@[simp] theorem State.modPeer_fuses (d : Nat) (g : FabPeer → FabPeer) : (s.modPeer d g).fuses = s.fuses := rfl
@[simp] theorem State.modPeer_noc (d : Nat) (g : FabPeer → FabPeer) : (s.modPeer d g).noc = s.noc := rfl
@[simp] theorem State.modPeer_host (d : Nat) (g : FabPeer → FabPeer) : (s.modPeer d g).host = s.host := rfl
@[simp] theorem State.modPeer_boot (d : Nat) (g : FabPeer → FabPeer) : (s.modPeer d g).boot = s.boot := rfl
@[simp] theorem State.modPeer_power (d : Nat) (g : FabPeer → FabPeer) : (s.modPeer d g).power = s.power := rfl
@[simp] theorem State.modPeer_pins (d : Nat) (g : FabPeer → FabPeer) : (s.modPeer d g).pins = s.pins := rfl
@[simp] theorem State.modPeer_parked (d : Nat) (g : FabPeer → FabPeer) : (s.modPeer d g).parked = s.parked := rfl
@[simp] theorem State.modPeer_free (d : Nat) (g : FabPeer → FabPeer) : (s.modPeer d g).free = s.free := rfl

/-! ### `modPath`: only `fab` may differ -/

@[simp] theorem State.modPath_pending (k : Nat) (g : FabPath → FabPath) : (s.modPath k g).pending = s.pending := rfl
@[simp] theorem State.modPath_regs (k : Nat) (g : FabPath → FabPath) : (s.modPath k g).regs = s.regs := rfl
@[simp] theorem State.modPath_locked (k : Nat) (g : FabPath → FabPath) : (s.modPath k g).locked = s.locked := rfl
@[simp] theorem State.modPath_cores (k : Nat) (g : FabPath → FabPath) : (s.modPath k g).cores = s.cores := rfl
@[simp] theorem State.modPath_images (k : Nat) (g : FabPath → FabPath) : (s.modPath k g).images = s.images := rfl
@[simp] theorem State.modPath_mem (k : Nat) (g : FabPath → FabPath) : (s.modPath k g).mem = s.mem := rfl
@[simp] theorem State.modPath_accMsgs (k : Nat) (g : FabPath → FabPath) : (s.modPath k g).accMsgs = s.accMsgs := rfl
@[simp] theorem State.modPath_accAcks (k : Nat) (g : FabPath → FabPath) : (s.modPath k g).accAcks = s.accAcks := rfl
@[simp] theorem State.modPath_accNotices (k : Nat) (g : FabPath → FabPath) : (s.modPath k g).accNotices = s.accNotices := rfl
@[simp] theorem State.modPath_flume (k : Nat) (g : FabPath → FabPath) : (s.modPath k g).flume = s.flume := rfl
@[simp] theorem State.modPath_tally (k : Nat) (g : FabPath → FabPath) : (s.modPath k g).tally = s.tally := rfl
@[simp] theorem State.modPath_sync (k : Nat) (g : FabPath → FabPath) : (s.modPath k g).sync = s.sync := rfl
@[simp] theorem State.modPath_faultQ (k : Nat) (g : FabPath → FabPath) : (s.modPath k g).faultQ = s.faultQ := rfl
@[simp] theorem State.modPath_tenReset (k : Nat) (g : FabPath → FabPath) : (s.modPath k g).tenReset = s.tenReset := rfl
@[simp] theorem State.modPath_tenWait (k : Nat) (g : FabPath → FabPath) : (s.modPath k g).tenWait = s.tenWait := rfl
@[simp] theorem State.modPath_switchPhase (k : Nat) (g : FabPath → FabPath) : (s.modPath k g).switchPhase = s.switchPhase := rfl
@[simp] theorem State.modPath_fuses (k : Nat) (g : FabPath → FabPath) : (s.modPath k g).fuses = s.fuses := rfl
@[simp] theorem State.modPath_noc (k : Nat) (g : FabPath → FabPath) : (s.modPath k g).noc = s.noc := rfl
@[simp] theorem State.modPath_host (k : Nat) (g : FabPath → FabPath) : (s.modPath k g).host = s.host := rfl
@[simp] theorem State.modPath_boot (k : Nat) (g : FabPath → FabPath) : (s.modPath k g).boot = s.boot := rfl
@[simp] theorem State.modPath_power (k : Nat) (g : FabPath → FabPath) : (s.modPath k g).power = s.power := rfl
@[simp] theorem State.modPath_pins (k : Nat) (g : FabPath → FabPath) : (s.modPath k g).pins = s.pins := rfl
@[simp] theorem State.modPath_parked (k : Nat) (g : FabPath → FabPath) : (s.modPath k g).parked = s.parked := rfl
@[simp] theorem State.modPath_free (k : Nat) (g : FabPath → FabPath) : (s.modPath k g).free = s.free := rfl

/-! ### `modCeq`: only `fab` may differ -/

@[simp] theorem State.modCeq_pending (e n : Nat) (g : CollQueue → CollQueue) : (s.modCeq e n g).pending = s.pending := rfl
@[simp] theorem State.modCeq_regs (e n : Nat) (g : CollQueue → CollQueue) : (s.modCeq e n g).regs = s.regs := rfl
@[simp] theorem State.modCeq_locked (e n : Nat) (g : CollQueue → CollQueue) : (s.modCeq e n g).locked = s.locked := rfl
@[simp] theorem State.modCeq_cores (e n : Nat) (g : CollQueue → CollQueue) : (s.modCeq e n g).cores = s.cores := rfl
@[simp] theorem State.modCeq_images (e n : Nat) (g : CollQueue → CollQueue) : (s.modCeq e n g).images = s.images := rfl
@[simp] theorem State.modCeq_mem (e n : Nat) (g : CollQueue → CollQueue) : (s.modCeq e n g).mem = s.mem := rfl
@[simp] theorem State.modCeq_accMsgs (e n : Nat) (g : CollQueue → CollQueue) : (s.modCeq e n g).accMsgs = s.accMsgs := rfl
@[simp] theorem State.modCeq_accAcks (e n : Nat) (g : CollQueue → CollQueue) : (s.modCeq e n g).accAcks = s.accAcks := rfl
@[simp] theorem State.modCeq_accNotices (e n : Nat) (g : CollQueue → CollQueue) : (s.modCeq e n g).accNotices = s.accNotices := rfl
@[simp] theorem State.modCeq_flume (e n : Nat) (g : CollQueue → CollQueue) : (s.modCeq e n g).flume = s.flume := rfl
@[simp] theorem State.modCeq_tally (e n : Nat) (g : CollQueue → CollQueue) : (s.modCeq e n g).tally = s.tally := rfl
@[simp] theorem State.modCeq_sync (e n : Nat) (g : CollQueue → CollQueue) : (s.modCeq e n g).sync = s.sync := rfl
@[simp] theorem State.modCeq_faultQ (e n : Nat) (g : CollQueue → CollQueue) : (s.modCeq e n g).faultQ = s.faultQ := rfl
@[simp] theorem State.modCeq_tenReset (e n : Nat) (g : CollQueue → CollQueue) : (s.modCeq e n g).tenReset = s.tenReset := rfl
@[simp] theorem State.modCeq_tenWait (e n : Nat) (g : CollQueue → CollQueue) : (s.modCeq e n g).tenWait = s.tenWait := rfl
@[simp] theorem State.modCeq_switchPhase (e n : Nat) (g : CollQueue → CollQueue) : (s.modCeq e n g).switchPhase = s.switchPhase := rfl
@[simp] theorem State.modCeq_fuses (e n : Nat) (g : CollQueue → CollQueue) : (s.modCeq e n g).fuses = s.fuses := rfl
@[simp] theorem State.modCeq_noc (e n : Nat) (g : CollQueue → CollQueue) : (s.modCeq e n g).noc = s.noc := rfl
@[simp] theorem State.modCeq_host (e n : Nat) (g : CollQueue → CollQueue) : (s.modCeq e n g).host = s.host := rfl
@[simp] theorem State.modCeq_boot (e n : Nat) (g : CollQueue → CollQueue) : (s.modCeq e n g).boot = s.boot := rfl
@[simp] theorem State.modCeq_power (e n : Nat) (g : CollQueue → CollQueue) : (s.modCeq e n g).power = s.power := rfl
@[simp] theorem State.modCeq_pins (e n : Nat) (g : CollQueue → CollQueue) : (s.modCeq e n g).pins = s.pins := rfl
@[simp] theorem State.modCeq_parked (e n : Nat) (g : CollQueue → CollQueue) : (s.modCeq e n g).parked = s.parked := rfl
@[simp] theorem State.modCeq_free (e n : Nat) (g : CollQueue → CollQueue) : (s.modCeq e n g).free = s.free := rfl

/-! ### `modFlq`: only `flume` may differ -/

@[simp] theorem State.modFlq_pending (e n : Nat) (g : FlumeQueue → FlumeQueue) : (s.modFlq e n g).pending = s.pending := rfl
@[simp] theorem State.modFlq_regs (e n : Nat) (g : FlumeQueue → FlumeQueue) : (s.modFlq e n g).regs = s.regs := rfl
@[simp] theorem State.modFlq_locked (e n : Nat) (g : FlumeQueue → FlumeQueue) : (s.modFlq e n g).locked = s.locked := rfl
@[simp] theorem State.modFlq_cores (e n : Nat) (g : FlumeQueue → FlumeQueue) : (s.modFlq e n g).cores = s.cores := rfl
@[simp] theorem State.modFlq_images (e n : Nat) (g : FlumeQueue → FlumeQueue) : (s.modFlq e n g).images = s.images := rfl
@[simp] theorem State.modFlq_mem (e n : Nat) (g : FlumeQueue → FlumeQueue) : (s.modFlq e n g).mem = s.mem := rfl
@[simp] theorem State.modFlq_accMsgs (e n : Nat) (g : FlumeQueue → FlumeQueue) : (s.modFlq e n g).accMsgs = s.accMsgs := rfl
@[simp] theorem State.modFlq_accAcks (e n : Nat) (g : FlumeQueue → FlumeQueue) : (s.modFlq e n g).accAcks = s.accAcks := rfl
@[simp] theorem State.modFlq_accNotices (e n : Nat) (g : FlumeQueue → FlumeQueue) : (s.modFlq e n g).accNotices = s.accNotices := rfl
@[simp] theorem State.modFlq_tally (e n : Nat) (g : FlumeQueue → FlumeQueue) : (s.modFlq e n g).tally = s.tally := rfl
@[simp] theorem State.modFlq_sync (e n : Nat) (g : FlumeQueue → FlumeQueue) : (s.modFlq e n g).sync = s.sync := rfl
@[simp] theorem State.modFlq_faultQ (e n : Nat) (g : FlumeQueue → FlumeQueue) : (s.modFlq e n g).faultQ = s.faultQ := rfl
@[simp] theorem State.modFlq_tenReset (e n : Nat) (g : FlumeQueue → FlumeQueue) : (s.modFlq e n g).tenReset = s.tenReset := rfl
@[simp] theorem State.modFlq_tenWait (e n : Nat) (g : FlumeQueue → FlumeQueue) : (s.modFlq e n g).tenWait = s.tenWait := rfl
@[simp] theorem State.modFlq_switchPhase (e n : Nat) (g : FlumeQueue → FlumeQueue) : (s.modFlq e n g).switchPhase = s.switchPhase := rfl
@[simp] theorem State.modFlq_fuses (e n : Nat) (g : FlumeQueue → FlumeQueue) : (s.modFlq e n g).fuses = s.fuses := rfl
@[simp] theorem State.modFlq_noc (e n : Nat) (g : FlumeQueue → FlumeQueue) : (s.modFlq e n g).noc = s.noc := rfl
@[simp] theorem State.modFlq_fab (e n : Nat) (g : FlumeQueue → FlumeQueue) : (s.modFlq e n g).fab = s.fab := rfl
@[simp] theorem State.modFlq_host (e n : Nat) (g : FlumeQueue → FlumeQueue) : (s.modFlq e n g).host = s.host := rfl
@[simp] theorem State.modFlq_boot (e n : Nat) (g : FlumeQueue → FlumeQueue) : (s.modFlq e n g).boot = s.boot := rfl
@[simp] theorem State.modFlq_power (e n : Nat) (g : FlumeQueue → FlumeQueue) : (s.modFlq e n g).power = s.power := rfl
@[simp] theorem State.modFlq_pins (e n : Nat) (g : FlumeQueue → FlumeQueue) : (s.modFlq e n g).pins = s.pins := rfl
@[simp] theorem State.modFlq_parked (e n : Nat) (g : FlumeQueue → FlumeQueue) : (s.modFlq e n g).parked = s.parked := rfl
@[simp] theorem State.modFlq_free (e n : Nat) (g : FlumeQueue → FlumeQueue) : (s.modFlq e n g).free = s.free := rfl

/-! ### `modSession`: only `host` may differ -/

@[simp] theorem State.modSession_pending (n : Nat) (g : Session → Session) : (s.modSession n g).pending = s.pending := rfl
@[simp] theorem State.modSession_regs (n : Nat) (g : Session → Session) : (s.modSession n g).regs = s.regs := rfl
@[simp] theorem State.modSession_locked (n : Nat) (g : Session → Session) : (s.modSession n g).locked = s.locked := rfl
@[simp] theorem State.modSession_cores (n : Nat) (g : Session → Session) : (s.modSession n g).cores = s.cores := rfl
@[simp] theorem State.modSession_images (n : Nat) (g : Session → Session) : (s.modSession n g).images = s.images := rfl
@[simp] theorem State.modSession_mem (n : Nat) (g : Session → Session) : (s.modSession n g).mem = s.mem := rfl
@[simp] theorem State.modSession_accMsgs (n : Nat) (g : Session → Session) : (s.modSession n g).accMsgs = s.accMsgs := rfl
@[simp] theorem State.modSession_accAcks (n : Nat) (g : Session → Session) : (s.modSession n g).accAcks = s.accAcks := rfl
@[simp] theorem State.modSession_accNotices (n : Nat) (g : Session → Session) : (s.modSession n g).accNotices = s.accNotices := rfl
@[simp] theorem State.modSession_flume (n : Nat) (g : Session → Session) : (s.modSession n g).flume = s.flume := rfl
@[simp] theorem State.modSession_tally (n : Nat) (g : Session → Session) : (s.modSession n g).tally = s.tally := rfl
@[simp] theorem State.modSession_sync (n : Nat) (g : Session → Session) : (s.modSession n g).sync = s.sync := rfl
@[simp] theorem State.modSession_faultQ (n : Nat) (g : Session → Session) : (s.modSession n g).faultQ = s.faultQ := rfl
@[simp] theorem State.modSession_tenReset (n : Nat) (g : Session → Session) : (s.modSession n g).tenReset = s.tenReset := rfl
@[simp] theorem State.modSession_tenWait (n : Nat) (g : Session → Session) : (s.modSession n g).tenWait = s.tenWait := rfl
@[simp] theorem State.modSession_switchPhase (n : Nat) (g : Session → Session) : (s.modSession n g).switchPhase = s.switchPhase := rfl
@[simp] theorem State.modSession_fuses (n : Nat) (g : Session → Session) : (s.modSession n g).fuses = s.fuses := rfl
@[simp] theorem State.modSession_noc (n : Nat) (g : Session → Session) : (s.modSession n g).noc = s.noc := rfl
@[simp] theorem State.modSession_fab (n : Nat) (g : Session → Session) : (s.modSession n g).fab = s.fab := rfl
@[simp] theorem State.modSession_boot (n : Nat) (g : Session → Session) : (s.modSession n g).boot = s.boot := rfl
@[simp] theorem State.modSession_power (n : Nat) (g : Session → Session) : (s.modSession n g).power = s.power := rfl
@[simp] theorem State.modSession_pins (n : Nat) (g : Session → Session) : (s.modSession n g).pins = s.pins := rfl
@[simp] theorem State.modSession_parked (n : Nat) (g : Session → Session) : (s.modSession n g).parked = s.parked := rfl
@[simp] theorem State.modSession_free (n : Nat) (g : Session → Session) : (s.modSession n g).free = s.free := rfl

/-! ### `modPower`: only `power` may differ -/

@[simp] theorem State.modPower_pending (g : PowerState → PowerState) : (s.modPower g).pending = s.pending := rfl
@[simp] theorem State.modPower_regs (g : PowerState → PowerState) : (s.modPower g).regs = s.regs := rfl
@[simp] theorem State.modPower_locked (g : PowerState → PowerState) : (s.modPower g).locked = s.locked := rfl
@[simp] theorem State.modPower_cores (g : PowerState → PowerState) : (s.modPower g).cores = s.cores := rfl
@[simp] theorem State.modPower_images (g : PowerState → PowerState) : (s.modPower g).images = s.images := rfl
@[simp] theorem State.modPower_mem (g : PowerState → PowerState) : (s.modPower g).mem = s.mem := rfl
@[simp] theorem State.modPower_accMsgs (g : PowerState → PowerState) : (s.modPower g).accMsgs = s.accMsgs := rfl
@[simp] theorem State.modPower_accAcks (g : PowerState → PowerState) : (s.modPower g).accAcks = s.accAcks := rfl
@[simp] theorem State.modPower_accNotices (g : PowerState → PowerState) : (s.modPower g).accNotices = s.accNotices := rfl
@[simp] theorem State.modPower_flume (g : PowerState → PowerState) : (s.modPower g).flume = s.flume := rfl
@[simp] theorem State.modPower_tally (g : PowerState → PowerState) : (s.modPower g).tally = s.tally := rfl
@[simp] theorem State.modPower_sync (g : PowerState → PowerState) : (s.modPower g).sync = s.sync := rfl
@[simp] theorem State.modPower_faultQ (g : PowerState → PowerState) : (s.modPower g).faultQ = s.faultQ := rfl
@[simp] theorem State.modPower_tenReset (g : PowerState → PowerState) : (s.modPower g).tenReset = s.tenReset := rfl
@[simp] theorem State.modPower_tenWait (g : PowerState → PowerState) : (s.modPower g).tenWait = s.tenWait := rfl
@[simp] theorem State.modPower_switchPhase (g : PowerState → PowerState) : (s.modPower g).switchPhase = s.switchPhase := rfl
@[simp] theorem State.modPower_fuses (g : PowerState → PowerState) : (s.modPower g).fuses = s.fuses := rfl
@[simp] theorem State.modPower_noc (g : PowerState → PowerState) : (s.modPower g).noc = s.noc := rfl
@[simp] theorem State.modPower_fab (g : PowerState → PowerState) : (s.modPower g).fab = s.fab := rfl
@[simp] theorem State.modPower_host (g : PowerState → PowerState) : (s.modPower g).host = s.host := rfl
@[simp] theorem State.modPower_boot (g : PowerState → PowerState) : (s.modPower g).boot = s.boot := rfl
@[simp] theorem State.modPower_pins (g : PowerState → PowerState) : (s.modPower g).pins = s.pins := rfl
@[simp] theorem State.modPower_parked (g : PowerState → PowerState) : (s.modPower g).parked = s.parked := rfl
@[simp] theorem State.modPower_free (g : PowerState → PowerState) : (s.modPower g).free = s.free := rfl

/-! ### `setFlash`: only `boot` may differ -/

@[simp] theorem State.setFlash_pending (m : Memory) : (s.setFlash m).pending = s.pending := rfl
@[simp] theorem State.setFlash_regs (m : Memory) : (s.setFlash m).regs = s.regs := rfl
@[simp] theorem State.setFlash_locked (m : Memory) : (s.setFlash m).locked = s.locked := rfl
@[simp] theorem State.setFlash_cores (m : Memory) : (s.setFlash m).cores = s.cores := rfl
@[simp] theorem State.setFlash_images (m : Memory) : (s.setFlash m).images = s.images := rfl
@[simp] theorem State.setFlash_mem (m : Memory) : (s.setFlash m).mem = s.mem := rfl
@[simp] theorem State.setFlash_accMsgs (m : Memory) : (s.setFlash m).accMsgs = s.accMsgs := rfl
@[simp] theorem State.setFlash_accAcks (m : Memory) : (s.setFlash m).accAcks = s.accAcks := rfl
@[simp] theorem State.setFlash_accNotices (m : Memory) : (s.setFlash m).accNotices = s.accNotices := rfl
@[simp] theorem State.setFlash_flume (m : Memory) : (s.setFlash m).flume = s.flume := rfl
@[simp] theorem State.setFlash_tally (m : Memory) : (s.setFlash m).tally = s.tally := rfl
@[simp] theorem State.setFlash_sync (m : Memory) : (s.setFlash m).sync = s.sync := rfl
@[simp] theorem State.setFlash_faultQ (m : Memory) : (s.setFlash m).faultQ = s.faultQ := rfl
@[simp] theorem State.setFlash_tenReset (m : Memory) : (s.setFlash m).tenReset = s.tenReset := rfl
@[simp] theorem State.setFlash_tenWait (m : Memory) : (s.setFlash m).tenWait = s.tenWait := rfl
@[simp] theorem State.setFlash_switchPhase (m : Memory) : (s.setFlash m).switchPhase = s.switchPhase := rfl
@[simp] theorem State.setFlash_fuses (m : Memory) : (s.setFlash m).fuses = s.fuses := rfl
@[simp] theorem State.setFlash_noc (m : Memory) : (s.setFlash m).noc = s.noc := rfl
@[simp] theorem State.setFlash_fab (m : Memory) : (s.setFlash m).fab = s.fab := rfl
@[simp] theorem State.setFlash_host (m : Memory) : (s.setFlash m).host = s.host := rfl
@[simp] theorem State.setFlash_power (m : Memory) : (s.setFlash m).power = s.power := rfl
@[simp] theorem State.setFlash_pins (m : Memory) : (s.setFlash m).pins = s.pins := rfl
@[simp] theorem State.setFlash_parked (m : Memory) : (s.setFlash m).parked = s.parked := rfl
@[simp] theorem State.setFlash_free (m : Memory) : (s.setFlash m).free = s.free := rfl

/-! ### `modArr`: only `cores` may differ -/

@[simp] theorem State.modArr_pending (c : Nat) (g : ArrayState → ArrayState) : (s.modArr c g).pending = s.pending := rfl
@[simp] theorem State.modArr_regs (c : Nat) (g : ArrayState → ArrayState) : (s.modArr c g).regs = s.regs := rfl
@[simp] theorem State.modArr_locked (c : Nat) (g : ArrayState → ArrayState) : (s.modArr c g).locked = s.locked := rfl
@[simp] theorem State.modArr_images (c : Nat) (g : ArrayState → ArrayState) : (s.modArr c g).images = s.images := rfl
@[simp] theorem State.modArr_mem (c : Nat) (g : ArrayState → ArrayState) : (s.modArr c g).mem = s.mem := rfl
@[simp] theorem State.modArr_accMsgs (c : Nat) (g : ArrayState → ArrayState) : (s.modArr c g).accMsgs = s.accMsgs := rfl
@[simp] theorem State.modArr_accAcks (c : Nat) (g : ArrayState → ArrayState) : (s.modArr c g).accAcks = s.accAcks := rfl
@[simp] theorem State.modArr_accNotices (c : Nat) (g : ArrayState → ArrayState) : (s.modArr c g).accNotices = s.accNotices := rfl
@[simp] theorem State.modArr_flume (c : Nat) (g : ArrayState → ArrayState) : (s.modArr c g).flume = s.flume := rfl
@[simp] theorem State.modArr_tally (c : Nat) (g : ArrayState → ArrayState) : (s.modArr c g).tally = s.tally := rfl
@[simp] theorem State.modArr_sync (c : Nat) (g : ArrayState → ArrayState) : (s.modArr c g).sync = s.sync := rfl
@[simp] theorem State.modArr_faultQ (c : Nat) (g : ArrayState → ArrayState) : (s.modArr c g).faultQ = s.faultQ := rfl
@[simp] theorem State.modArr_tenReset (c : Nat) (g : ArrayState → ArrayState) : (s.modArr c g).tenReset = s.tenReset := rfl
@[simp] theorem State.modArr_tenWait (c : Nat) (g : ArrayState → ArrayState) : (s.modArr c g).tenWait = s.tenWait := rfl
@[simp] theorem State.modArr_switchPhase (c : Nat) (g : ArrayState → ArrayState) : (s.modArr c g).switchPhase = s.switchPhase := rfl
@[simp] theorem State.modArr_fuses (c : Nat) (g : ArrayState → ArrayState) : (s.modArr c g).fuses = s.fuses := rfl
@[simp] theorem State.modArr_noc (c : Nat) (g : ArrayState → ArrayState) : (s.modArr c g).noc = s.noc := rfl
@[simp] theorem State.modArr_fab (c : Nat) (g : ArrayState → ArrayState) : (s.modArr c g).fab = s.fab := rfl
@[simp] theorem State.modArr_host (c : Nat) (g : ArrayState → ArrayState) : (s.modArr c g).host = s.host := rfl
@[simp] theorem State.modArr_boot (c : Nat) (g : ArrayState → ArrayState) : (s.modArr c g).boot = s.boot := rfl
@[simp] theorem State.modArr_power (c : Nat) (g : ArrayState → ArrayState) : (s.modArr c g).power = s.power := rfl
@[simp] theorem State.modArr_pins (c : Nat) (g : ArrayState → ArrayState) : (s.modArr c g).pins = s.pins := rfl
@[simp] theorem State.modArr_parked (c : Nat) (g : ArrayState → ArrayState) : (s.modArr c g).parked = s.parked := rfl
@[simp] theorem State.modArr_free (c : Nat) (g : ArrayState → ArrayState) : (s.modArr c g).free = s.free := rfl

end Sys2Proof.Machine
end

