-- ==== Sys2Proof/Laws/Clock.lean ====
section
/-! SUPPORT. What the passing of cycles may change: counters, the time of an array, and the draws of open numbers. -/

namespace Sys2Proof.Machine

/-- Nothing differs but configuration registers. -/
def RegsOnly (s t : State) : Prop := t = { s with regs := t.regs }

/-- Nothing differs but configuration registers, cores and the draw counter. -/
def TimeOnly (s t : State) : Prop := t = { s with regs := t.regs, cores := t.cores, free := t.free }

theorem RegsOnly.refl (s : State) : RegsOnly s s := rfl

theorem RegsOnly.trans {s t u : State} (h : RegsOnly s t) (k : RegsOnly t u) : RegsOnly s u := by
  unfold RegsOnly at *
  rw [h] at k
  exact k

theorem RegsOnly.time {s t : State} (h : RegsOnly s t) : TimeOnly s t := by
  unfold RegsOnly TimeOnly at *
  rw [h]

theorem TimeOnly.refl (s : State) : TimeOnly s s := rfl

theorem TimeOnly.trans {s t u : State} (h : TimeOnly s t) (k : TimeOnly t u) : TimeOnly s u := by
  unfold TimeOnly at *
  rw [h] at k
  exact k

variable (s : State)

theorem State.event_only (c : Nat) (x : Option StreamId) (ev k : Nat) : RegsOnly s (s.event c x ev k) := by
  unfold State.event State.evt1 RegsOnly
  split_ifs <;> rfl

theorem State.event_eq (c : Nat) (x : Option StreamId) (ev k : Nat) :
    s.event c x ev k = { s with regs := (s.event c x ev k).regs } := s.event_only c x ev k

theorem State.stallN_only (i : At) (c : Cause) (n : Nat) : RegsOnly s (s.stallN i c n) := by
  unfold State.stallN RegsOnly
  split_ifs <;> rfl

theorem State.countStalls_only (i : At) (own : Option Cause) (n g p : Nat) : RegsOnly s (s.countStalls i own n g p) := by
  unfold State.countStalls
  dsimp only
  split
  · exact s.stallN_only _ _ _
  · split
    · exact ((s.stallN_only _ _ _).trans (State.stallN_only _ _ _ _)).trans (State.stallN_only _ _ _ _)
    · exact s.stallN_only _ _ _
  · split
    · exact ((s.stallN_only _ _ _).trans (State.stallN_only _ _ _ _)).trans (State.stallN_only _ _ _ _)
    · exact s.stallN_only _ _ _
  · exact RegsOnly.refl s

theorem State.coreStalls_only (c n : Nat) (own : Option (StreamId × Cause)) (x : Option StreamId) (held : Nat) :
    TimeOnly s (s.coreStalls c n own x held) := by
  have h : TimeOnly s (if s.gating then s.draw 1 else s) := by split_ifs <;> rfl
  unfold State.coreStalls
  exact ((h.trans (State.countStalls_only _ _ _ _ _ _).time).trans (State.countStalls_only _ _ _ _ _ _).time).trans
    (State.countStalls_only _ _ _ _ _ _).time

theorem State.coreCycles_only (c n : Nat) : RegsOnly s (s.coreCycles c n) :=
  RegsOnly.trans (t := s.bump (coreBase c + 0xF00) n) rfl (State.event_only _ _ _ _ _)

theorem State.arrayEvents_only (c : Nat) (t : ArrayTime) : RegsOnly s (s.arrayEvents c t) :=
  (((s.event_only _ _ _ _).trans (State.event_only _ _ _ _ _)).trans (State.event_only _ _ _ _ _)).trans
    (State.event_only _ _ _ _ _)

/-- Cycles that pass move counters, the array's time and the draws, and nothing else. -/
theorem State.corePass_only (c n : Nat) (own : Option (StreamId × Cause)) (ready : Bool) :
    TimeOnly s (s.corePass c n own ready) := by
  unfold State.corePass
  dsimp only
  refine (TimeOnly.trans (t := (s.coreCycles c n).setCore c _) ?_ (State.arrayEvents_only _ _ _).time).trans
    (State.coreStalls_only _ _ _ _ _ _)
  exact (s.coreCycles_only c n).time.trans rfl

theorem State.modStream_only (i : At) (g : Stream → Stream) : TimeOnly s (s.modStream i g) := rfl

theorem State.stallCycle_only (i : At) (c : Cause) : TimeOnly s (s.stallCycle i c) := s.corePass_only _ _ _ _

/-- An instruction held back leaves its stream where it stands, with one cycle of its core passed. -/
theorem State.stall_only (i : At) (c : Cause) : TimeOnly s (s.stall i c) :=
  (s.modStream_only i fun t => { t with held := some c }).trans (State.stallCycle_only _ _ _)

theorem State.stall_eq (i : At) (c : Cause) :
    s.stall i c = { s with regs := (s.stall i c).regs, cores := (s.stall i c).cores, free := (s.stall i c).free } :=
  s.stall_only _ _


/-! ### What `event` leaves -/

@[simp] theorem State.event_pending (c : Nat) (x : Option StreamId) (ev k : Nat) : (s.event c x ev k).pending = s.pending := by rw [s.event_eq c x ev k]
@[simp] theorem State.event_locked (c : Nat) (x : Option StreamId) (ev k : Nat) : (s.event c x ev k).locked = s.locked := by rw [s.event_eq c x ev k]
@[simp] theorem State.event_cores (c : Nat) (x : Option StreamId) (ev k : Nat) : (s.event c x ev k).cores = s.cores := by rw [s.event_eq c x ev k]
@[simp] theorem State.event_images (c : Nat) (x : Option StreamId) (ev k : Nat) : (s.event c x ev k).images = s.images := by rw [s.event_eq c x ev k]
@[simp] theorem State.event_mem (c : Nat) (x : Option StreamId) (ev k : Nat) : (s.event c x ev k).mem = s.mem := by rw [s.event_eq c x ev k]
@[simp] theorem State.event_accMsgs (c : Nat) (x : Option StreamId) (ev k : Nat) : (s.event c x ev k).accMsgs = s.accMsgs := by rw [s.event_eq c x ev k]
@[simp] theorem State.event_accAcks (c : Nat) (x : Option StreamId) (ev k : Nat) : (s.event c x ev k).accAcks = s.accAcks := by rw [s.event_eq c x ev k]
@[simp] theorem State.event_accNotices (c : Nat) (x : Option StreamId) (ev k : Nat) : (s.event c x ev k).accNotices = s.accNotices := by rw [s.event_eq c x ev k]
@[simp] theorem State.event_flume (c : Nat) (x : Option StreamId) (ev k : Nat) : (s.event c x ev k).flume = s.flume := by rw [s.event_eq c x ev k]
@[simp] theorem State.event_tally (c : Nat) (x : Option StreamId) (ev k : Nat) : (s.event c x ev k).tally = s.tally := by rw [s.event_eq c x ev k]
@[simp] theorem State.event_sync (c : Nat) (x : Option StreamId) (ev k : Nat) : (s.event c x ev k).sync = s.sync := by rw [s.event_eq c x ev k]
@[simp] theorem State.event_faultQ (c : Nat) (x : Option StreamId) (ev k : Nat) : (s.event c x ev k).faultQ = s.faultQ := by rw [s.event_eq c x ev k]
@[simp] theorem State.event_tenReset (c : Nat) (x : Option StreamId) (ev k : Nat) : (s.event c x ev k).tenReset = s.tenReset := by rw [s.event_eq c x ev k]
@[simp] theorem State.event_tenWait (c : Nat) (x : Option StreamId) (ev k : Nat) : (s.event c x ev k).tenWait = s.tenWait := by rw [s.event_eq c x ev k]
@[simp] theorem State.event_switchPhase (c : Nat) (x : Option StreamId) (ev k : Nat) : (s.event c x ev k).switchPhase = s.switchPhase := by rw [s.event_eq c x ev k]
@[simp] theorem State.event_fuses (c : Nat) (x : Option StreamId) (ev k : Nat) : (s.event c x ev k).fuses = s.fuses := by rw [s.event_eq c x ev k]
@[simp] theorem State.event_noc (c : Nat) (x : Option StreamId) (ev k : Nat) : (s.event c x ev k).noc = s.noc := by rw [s.event_eq c x ev k]
@[simp] theorem State.event_fab (c : Nat) (x : Option StreamId) (ev k : Nat) : (s.event c x ev k).fab = s.fab := by rw [s.event_eq c x ev k]
@[simp] theorem State.event_host (c : Nat) (x : Option StreamId) (ev k : Nat) : (s.event c x ev k).host = s.host := by rw [s.event_eq c x ev k]
@[simp] theorem State.event_boot (c : Nat) (x : Option StreamId) (ev k : Nat) : (s.event c x ev k).boot = s.boot := by rw [s.event_eq c x ev k]
@[simp] theorem State.event_power (c : Nat) (x : Option StreamId) (ev k : Nat) : (s.event c x ev k).power = s.power := by rw [s.event_eq c x ev k]
@[simp] theorem State.event_pins (c : Nat) (x : Option StreamId) (ev k : Nat) : (s.event c x ev k).pins = s.pins := by rw [s.event_eq c x ev k]
@[simp] theorem State.event_parked (c : Nat) (x : Option StreamId) (ev k : Nat) : (s.event c x ev k).parked = s.parked := by rw [s.event_eq c x ev k]
@[simp] theorem State.event_free (c : Nat) (x : Option StreamId) (ev k : Nat) : (s.event c x ev k).free = s.free := by rw [s.event_eq c x ev k]

/-! ### What `stall` leaves -/

@[simp] theorem State.stall_pending (i : At) (c : Cause) : (s.stall i c).pending = s.pending := by rw [s.stall_eq i c]
@[simp] theorem State.stall_locked (i : At) (c : Cause) : (s.stall i c).locked = s.locked := by rw [s.stall_eq i c]
@[simp] theorem State.stall_images (i : At) (c : Cause) : (s.stall i c).images = s.images := by rw [s.stall_eq i c]
@[simp] theorem State.stall_mem (i : At) (c : Cause) : (s.stall i c).mem = s.mem := by rw [s.stall_eq i c]
@[simp] theorem State.stall_accMsgs (i : At) (c : Cause) : (s.stall i c).accMsgs = s.accMsgs := by rw [s.stall_eq i c]
@[simp] theorem State.stall_accAcks (i : At) (c : Cause) : (s.stall i c).accAcks = s.accAcks := by rw [s.stall_eq i c]
@[simp] theorem State.stall_accNotices (i : At) (c : Cause) : (s.stall i c).accNotices = s.accNotices := by rw [s.stall_eq i c]
@[simp] theorem State.stall_flume (i : At) (c : Cause) : (s.stall i c).flume = s.flume := by rw [s.stall_eq i c]
@[simp] theorem State.stall_tally (i : At) (c : Cause) : (s.stall i c).tally = s.tally := by rw [s.stall_eq i c]
@[simp] theorem State.stall_sync (i : At) (c : Cause) : (s.stall i c).sync = s.sync := by rw [s.stall_eq i c]
@[simp] theorem State.stall_faultQ (i : At) (c : Cause) : (s.stall i c).faultQ = s.faultQ := by rw [s.stall_eq i c]
@[simp] theorem State.stall_tenReset (i : At) (c : Cause) : (s.stall i c).tenReset = s.tenReset := by rw [s.stall_eq i c]
@[simp] theorem State.stall_tenWait (i : At) (c : Cause) : (s.stall i c).tenWait = s.tenWait := by rw [s.stall_eq i c]
@[simp] theorem State.stall_switchPhase (i : At) (c : Cause) : (s.stall i c).switchPhase = s.switchPhase := by rw [s.stall_eq i c]
@[simp] theorem State.stall_fuses (i : At) (c : Cause) : (s.stall i c).fuses = s.fuses := by rw [s.stall_eq i c]
@[simp] theorem State.stall_noc (i : At) (c : Cause) : (s.stall i c).noc = s.noc := by rw [s.stall_eq i c]
@[simp] theorem State.stall_fab (i : At) (c : Cause) : (s.stall i c).fab = s.fab := by rw [s.stall_eq i c]
@[simp] theorem State.stall_host (i : At) (c : Cause) : (s.stall i c).host = s.host := by rw [s.stall_eq i c]
@[simp] theorem State.stall_boot (i : At) (c : Cause) : (s.stall i c).boot = s.boot := by rw [s.stall_eq i c]
@[simp] theorem State.stall_power (i : At) (c : Cause) : (s.stall i c).power = s.power := by rw [s.stall_eq i c]
@[simp] theorem State.stall_pins (i : At) (c : Cause) : (s.stall i c).pins = s.pins := by rw [s.stall_eq i c]
@[simp] theorem State.stall_parked (i : At) (c : Cause) : (s.stall i c).parked = s.parked := by rw [s.stall_eq i c]

end Sys2Proof.Machine
end

