-- ==== Sys2Proof/Laws/Sparse.lean ====
section
/-! SUPPORT. Sparse tables and byte stores: what a read gives after a write, and that every write keeps the canonical
form. -/

namespace Sys2Proof

variable {α : Type}

/-! ### Reads after writes -/

@[simp] theorem SMap.get_put_same (d : α) (m : SMap α) (k : Nat) (v : α) : SMap.get d (SMap.put m k v) k = v := by
  induction m with
  | nil => simp [SMap.put, SMap.get]
  | cons p m ih =>
    obtain ⟨j, w⟩ := p
    simp only [SMap.put]
    split_ifs with h1 h2
    · simp [SMap.get]
    · simp [SMap.get]
    · have : j ≠ k := fun h => h2 h.symm
      simp [SMap.get, this, h1, ih]

theorem SMap.get_put_other (d : α) (m : SMap α) {k j : Nat} (v : α) (h : j ≠ k) :
    SMap.get d (SMap.put m k v) j = SMap.get d m j := by
  induction m with
  | nil => simp [SMap.put, SMap.get, Ne.symm h]
  | cons p m ih =>
    obtain ⟨i, w⟩ := p
    simp only [SMap.put]
    split_ifs with h1 h2
    · by_cases hj : j < k
      · have : i ≠ j := by omega
        have : j < i := by omega
        simp [SMap.get, *, Ne.symm h]
      · simp [SMap.get, Ne.symm h, hj]
    · subst h2
      simp only [SMap.get, if_neg (Ne.symm h)]
    · simp only [SMap.get, ih]

@[simp] theorem SMap.get?_put_same (m : SMap α) (k : Nat) (v : α) : SMap.get? (SMap.put m k v) k = some v := by
  induction m with
  | nil => simp [SMap.put, SMap.get?]
  | cons p m ih =>
    obtain ⟨j, w⟩ := p
    simp only [SMap.put]
    split_ifs with h1 h2
    · simp [SMap.get?]
    · simp [SMap.get?]
    · have : j ≠ k := fun h => h2 h.symm
      simp [SMap.get?, this, h1, ih]

theorem SMap.get?_put_other (m : SMap α) {k j : Nat} (v : α) (h : j ≠ k) :
    SMap.get? (SMap.put m k v) j = SMap.get? m j := by
  induction m with
  | nil => simp [SMap.put, SMap.get?, Ne.symm h]
  | cons p m ih =>
    obtain ⟨i, w⟩ := p
    simp only [SMap.put]
    split_ifs with h1 h2
    · by_cases hj : j < k
      · have : i ≠ j := by omega
        have : j < i := by omega
        simp [SMap.get?, *, Ne.symm h]
      · simp [SMap.get?, Ne.symm h, hj]
    · subst h2
      simp only [SMap.get?, if_neg (Ne.symm h)]
    · simp only [SMap.get?, ih]

theorem SMap.get_eq_get? (d : α) (m : SMap α) (k : Nat) : SMap.get d m k = (SMap.get? m k).getD d := by
  induction m with
  | nil => rfl
  | cons p m ih =>
    obtain ⟨j, w⟩ := p
    simp only [SMap.get, SMap.get?]
    split_ifs <;> simp [ih]

/-! ### The canonical form of a table -/

theorem SMap.risingFrom_mono {lo lo' : Nat} {m : SMap α} (h : lo ≤ lo') (hm : SMap.risingFrom lo' m = true) :
    SMap.risingFrom lo m = true := by
  cases m with
  | nil => rfl
  | cons p m =>
    obtain ⟨j, w⟩ := p
    simp only [SMap.risingFrom, Bool.and_eq_true, decide_eq_true_eq] at hm ⊢
    exact ⟨le_trans h hm.1, hm.2⟩

theorem SMap.risingFrom_put {lo : Nat} {m : SMap α} {k : Nat} (v : α) (hk : lo ≤ k)
    (hm : SMap.risingFrom lo m = true) : SMap.risingFrom lo (SMap.put m k v) = true := by
  induction m generalizing lo with
  | nil => simp [SMap.put, SMap.risingFrom, hk]
  | cons p m ih =>
    obtain ⟨j, w⟩ := p
    simp only [SMap.risingFrom, Bool.and_eq_true, decide_eq_true_eq] at hm
    simp only [SMap.put]
    split_ifs with h1 h2
    · simp only [SMap.risingFrom, Bool.and_eq_true, decide_eq_true_eq]
      exact ⟨hk, by omega, hm.2⟩
    · subst h2
      simp only [SMap.risingFrom, Bool.and_eq_true, decide_eq_true_eq]
      exact hm
    · simp only [SMap.risingFrom, Bool.and_eq_true, decide_eq_true_eq]
      exact ⟨hm.1, ih (by omega) hm.2⟩

theorem SMap.risingFrom_del {lo : Nat} {m : SMap α} (k : Nat) (hm : SMap.risingFrom lo m = true) :
    SMap.risingFrom lo (SMap.del m k) = true := by
  induction m generalizing lo with
  | nil => rfl
  | cons p m ih =>
    obtain ⟨j, w⟩ := p
    simp only [SMap.risingFrom, Bool.and_eq_true, decide_eq_true_eq] at hm
    simp only [SMap.del]
    split_ifs
    · exact SMap.risingFrom_mono (by omega) hm.2
    · simp only [SMap.risingFrom, Bool.and_eq_true, decide_eq_true_eq]
      exact hm
    · simp only [SMap.risingFrom, Bool.and_eq_true, decide_eq_true_eq]
      exact ⟨hm.1, ih hm.2⟩

theorem SMap.wf_put {m : SMap α} (k : Nat) (v : α) (h : SMap.wf m = true) : SMap.wf (SMap.put m k v) = true :=
  SMap.risingFrom_put v (Nat.zero_le k) h

theorem SMap.wf_del {m : SMap α} (k : Nat) (h : SMap.wf m = true) : SMap.wf (SMap.del m k) = true :=
  SMap.risingFrom_del k h

theorem SMap.risingFrom_filter {lo : Nat} {m : SMap α} (p : Nat × α → Bool) (hm : SMap.risingFrom lo m = true) :
    SMap.risingFrom lo (m.filter p) = true := by
  induction m generalizing lo with
  | nil => rfl
  | cons x m ih =>
    obtain ⟨j, w⟩ := x
    simp only [SMap.risingFrom, Bool.and_eq_true, decide_eq_true_eq] at hm
    rw [List.filter_cons]
    split_ifs
    · simp only [SMap.risingFrom, Bool.and_eq_true, decide_eq_true_eq]
      exact ⟨hm.1, ih hm.2⟩
    · exact SMap.risingFrom_mono (by omega) (ih hm.2)

/-! ### The canonical form of a byte store -/

theorem Memory.noDefault_put {m : Memory} (a : Nat) {b : Byte} (hb : b ≠ Memory.unlisted)
    (h : Memory.noDefault m = true) : Memory.noDefault (SMap.put m a b) = true := by
  induction m with
  | nil => simp [SMap.put, Memory.noDefault, hb]
  | cons p m ih =>
    obtain ⟨j, w⟩ := p
    simp only [Memory.noDefault, Bool.and_eq_true, decide_eq_true_eq] at h
    simp only [SMap.put]
    split_ifs
    · simp [Memory.noDefault, hb, h.1, h.2]
    · simp [Memory.noDefault, hb, h.2]
    · simp [Memory.noDefault, h.1, ih h.2]

theorem Memory.noDefault_del {m : Memory} (a : Nat) (h : Memory.noDefault m = true) :
    Memory.noDefault (SMap.del m a) = true := by
  induction m with
  | nil => rfl
  | cons p m ih =>
    obtain ⟨j, w⟩ := p
    simp only [Memory.noDefault, Bool.and_eq_true, decide_eq_true_eq] at h
    simp only [SMap.del]
    split_ifs
    · exact h.2
    · simp [Memory.noDefault, h.1, h.2]
    · simp [Memory.noDefault, h.1, ih h.2]

/-- A byte written keeps the canonical form. -/
theorem Memory.wf_set {m : Memory} (a : Nat) (b : Byte) (h : m.wf = true) : (m.set a b).wf = true := by
  simp only [Memory.wf, Bool.and_eq_true] at h ⊢
  unfold Memory.set
  split_ifs with hb
  · exact ⟨SMap.wf_del a h.1, Memory.noDefault_del a h.2⟩
  · exact ⟨SMap.wf_put a b h.1, Memory.noDefault_put a hb h.2⟩

/-- Cells taken out keep the canonical form. -/
theorem Memory.wf_filter {m : Memory} (p : Nat × Byte → Bool) (h : m.wf = true) : Memory.wf (m.filter p) = true := by
  simp only [Memory.wf, Bool.and_eq_true] at h ⊢
  refine ⟨SMap.risingFrom_filter p h.1, ?_⟩
  induction m with
  | nil => rfl
  | cons x m ih =>
    obtain ⟨j, b⟩ := x
    have h2 := h.2
    simp only [Memory.noDefault, Bool.and_eq_true] at h2
    have h1 := h.1
    simp only [SMap.wf, SMap.risingFrom, Bool.and_eq_true] at h1
    have e := ih ⟨SMap.risingFrom_mono (Nat.zero_le _) h1.2, h2.2⟩
    rw [List.filter_cons]
    split_ifs
    · simp only [Memory.noDefault, Bool.and_eq_true]
      exact ⟨h2.1, e⟩
    · exact e

/-- Bytes written keep the canonical form. -/
theorem Memory.wf_write {m : Memory} (a : Nat) (bs : List Byte) (h : m.wf = true) : (m.write a bs).wf = true := by
  induction bs generalizing m a with
  | nil => exact h
  | cons b bs ih => exact ih (a + 1) (Memory.wf_set a b h)

/-! ### Reads after writes of bytes -/

theorem SMap.get_of_lt (d : α) {lo : Nat} {m : SMap α} {k : Nat} (hm : SMap.risingFrom lo m = true) (h : k < lo) :
    SMap.get d m k = d := by
  cases m with
  | nil => rfl
  | cons p m =>
    obtain ⟨j, w⟩ := p
    simp only [SMap.risingFrom, Bool.and_eq_true, decide_eq_true_eq] at hm
    have h1 : j ≠ k := by omega
    have h2 : k < j := by omega
    simp [SMap.get, h1, h2]

theorem SMap.get_del (d : α) {lo : Nat} {m : SMap α} (k j : Nat) (hm : SMap.risingFrom lo m = true) :
    SMap.get d (SMap.del m k) j = if j = k then d else SMap.get d m j := by
  induction m generalizing lo with
  | nil => simp [SMap.del, SMap.get]
  | cons p m ih =>
    obtain ⟨i, w⟩ := p
    simp only [SMap.risingFrom, Bool.and_eq_true, decide_eq_true_eq] at hm
    by_cases hi : i = k
    · subst hi
      simp only [SMap.del, if_true]
      by_cases hj : j = i
      · subst hj; rw [if_pos rfl]; exact SMap.get_of_lt d hm.2 (by omega)
      · rw [if_neg hj]
        by_cases hl : j < i
        · rw [SMap.get_of_lt d hm.2 (by omega)]; simp [SMap.get, Ne.symm hj, hl]
        · simp [SMap.get, Ne.symm hj, hl]
    · by_cases hk : k < i
      · simp only [SMap.del, if_neg hi, if_pos hk]
        by_cases hj : j = k
        · subst hj; simp [SMap.get, hi, hk]
        · rw [if_neg hj]
      · simp only [SMap.del, if_neg hi, if_neg hk, SMap.get, ih hm.2]
        by_cases hj : j = k
        · subst hj; simp [hi]
        · simp [hj]

/-- A byte read after a byte written, in a canonical store. -/
theorem Memory.get_set {m : Memory} (a c : Nat) (b : Byte) (h : m.wf = true) :
    (m.set a b).get c = if c = a then b else m.get c := by
  simp only [Memory.wf, Bool.and_eq_true] at h
  unfold Memory.set Memory.get
  split_ifs with hb hc hc
  · subst hb hc; rw [SMap.get_del _ _ _ h.1]; simp
  · rw [SMap.get_del _ _ _ h.1]; simp [hc]
  · subst hc; simp
  · exact SMap.get_put_other _ _ _ hc

/-- A byte outside the bytes written reads as before. -/
theorem Memory.get_write_outside {m : Memory} (a c : Nat) (bs : List Byte) (h : m.wf = true)
    (hc : c < a ∨ a + bs.length ≤ c) : (m.write a bs).get c = m.get c := by
  induction bs generalizing m a with
  | nil => rfl
  | cons b bs ih =>
    simp only [List.length_cons] at hc
    rw [Memory.write, ih (a + 1) (Memory.wf_set a b h) (by omega), Memory.get_set _ _ _ h, if_neg (by omega)]

/-- A byte written is read. -/
theorem Memory.get_write_inside {m : Memory} (a k : Nat) (bs : List Byte) (h : m.wf = true) (hk : k < bs.length) :
    (m.write a bs).get (a + k) = bs.getD k 0 := by
  induction bs generalizing m a k with
  | nil => simp at hk
  | cons b bs ih =>
    rw [Memory.write]
    cases k with
    | zero => simp [Memory.get_write_outside _ _ _ (Memory.wf_set a b h), Memory.get_set _ _ _ h]
    | succ k =>
      have := ih (m := m.set a b) (a + 1) k (Memory.wf_set a b h) (by simpa using hk)
      rw [show a + (k + 1) = a + 1 + k by omega, this]
      simp

@[simp] theorem Memory.length_read (m : Memory) (a n : Nat) : (m.read a n).length = n := by
  induction n generalizing a with
  | zero => rfl
  | succ n ih => simp [Memory.read, ih]

/-- Each byte of a read. -/
theorem Memory.getElem?_read (m : Memory) (a n k : Nat) (hk : k < n) : (m.read a n)[k]? = some (m.get (a + k)) := by
  induction n generalizing a k with
  | zero => omega
  | succ n ih =>
    cases k with
    | zero => simp [Memory.read]
    | succ k => simp [Memory.read, ih (a + 1) k (by omega), show a + 1 + k = a + (k + 1) by omega]

/-- Reads agree where every byte does. -/
theorem Memory.read_congr {m m' : Memory} (a n : Nat) (h : ∀ k, k < n → m.get (a + k) = m'.get (a + k)) :
    m.read a n = m'.read a n := by
  apply List.ext_getElem?
  intro k
  by_cases hk : k < n
  · rw [Memory.getElem?_read _ _ _ _ hk, Memory.getElem?_read _ _ _ _ hk, h k hk]
  · simp [Nat.le_of_not_lt hk]

/-- What was written is read back. -/
theorem Memory.read_write_same {m : Memory} (a : Nat) (bs : List Byte) (h : m.wf = true) :
    (m.write a bs).read a bs.length = bs := by
  apply List.ext_getElem?
  intro k
  by_cases hk : k < bs.length
  · rw [Memory.getElem?_read _ _ _ _ hk, Memory.get_write_inside _ _ _ h hk]
    simp [List.getD, hk]
  · simp [Nat.le_of_not_lt hk]

/-- A read apart from the bytes written is as before. -/
theorem Memory.read_write_apart {m : Memory} (a c n : Nat) (bs : List Byte) (h : m.wf = true)
    (hc : c + n ≤ a ∨ a + bs.length ≤ c) : (m.write a bs).read c n = m.read c n :=
  Memory.read_congr _ _ fun _ _ => Memory.get_write_outside _ _ _ h (by omega)

end Sys2Proof
end

