-- ==== Sys2Proof/Laws/Issue.lean ====
section
/-! SUPPORT. Cores, streams and registers after the shared updates, and what the issue of an instruction can do. -/

namespace Sys2Proof.Machine

variable (s : State)

/-! ### Registers of the configuration space -/

theorem State.reg_setReg_same (off v : Nat) : (s.setReg off v).reg off = v % 2 ^ 64 := by
  simp [State.reg, State.setReg]

theorem State.reg_setReg_other {off j : Nat} (v : Nat) (h : j ≠ off) : (s.setReg off v).reg j = s.reg j := by
  simp [State.reg, State.setReg, SMap.get?_put_other _ _ h]

theorem State.reg_count_other {off j : Nat} (hi lo n : Nat) (h : j ≠ off) : (s.count off hi lo n).reg j = s.reg j :=
  s.reg_setReg_other _ h

/-- A register reads only what `regs` holds. -/
theorem State.reg_congr {s t : State} (h : t.regs = s.regs) (off : Nat) : t.reg off = s.reg off := by
  simp [State.reg, h]

/-! ### Cores and streams -/

@[simp] theorem State.core_setCore_same (c : Nat) (k : CoreState) : (s.setCore c k).core c = k := by
  simp [State.core, State.setCore]

theorem State.core_setCore_other {c d : Nat} (k : CoreState) (h : d ≠ c) : (s.setCore c k).core d = s.core d := by
  simp [State.core, State.setCore, SMap.get_put_other _ _ _ h]

@[simp] theorem State.core_modCore_same (c : Nat) (g : CoreState → CoreState) : (s.modCore c g).core c = g (s.core c) :=
  s.core_setCore_same c _

theorem State.core_modCore_other {c d : Nat} (g : CoreState → CoreState) (h : d ≠ c) :
    (s.modCore c g).core d = s.core d := s.core_setCore_other _ h

/-- A core reads only what `cores` holds. -/
theorem State.core_congr {s t : State} (h : t.cores = s.cores) (c : Nat) : t.core c = s.core c := by
  simp [State.core, h]

/-- A stream reads only what `cores` holds. -/
theorem State.stream_congr {s t : State} (h : t.cores = s.cores) (i : At) : t.stream i = s.stream i := by
  simp [State.stream, State.core_congr h]

@[simp] theorem CoreImage.stream_setStream_same (m : CoreImage) (x : StreamId) (t : Stream) :
    (m.setStream x t).stream x = t := by cases x <;> rfl

theorem CoreImage.stream_setStream_other (m : CoreImage) {x y : StreamId} (t : Stream) (h : y ≠ x) :
    (m.setStream x t).stream y = m.stream y := by cases x <;> cases y <;> first | rfl | exact absurd rfl h

@[simp] theorem CoreImage.setStream_setStream (m : CoreImage) (x : StreamId) (t t' : Stream) :
    (m.setStream x t).setStream x t' = m.setStream x t' := by cases x <;> rfl

@[simp] theorem State.stream_modStream_same (i : At) (g : Stream → Stream) :
    (s.modStream i g).stream i = g (s.stream i) := by
  simp [State.modStream, State.setStream, State.modImg, State.stream]

theorem State.stream_modStream_other {i j : At} (g : Stream → Stream) (h : j ≠ i) :
    (s.modStream i g).stream j = s.stream j := by
  by_cases hc : j.core = i.core
  · have hx : j.stream ≠ i.stream := fun hx => h (by cases i; cases j; simp_all)
    simp [State.modStream, State.setStream, State.modImg, State.stream, hc, CoreImage.stream_setStream_other _ _ hx]
  · simp [State.modStream, State.setStream, State.modImg, State.stream, State.core_modCore_other _ _ hc]

theorem State.core_modStream_same (i : At) (g : Stream → Stream) :
    (s.modStream i g).core i.core =
      { s.core i.core with img := (s.core i.core).img.setStream i.stream (g (s.stream i)) } := by
  simp [State.modStream, State.setStream, State.modImg]

theorem State.core_modStream_other {i : At} {d : Nat} (g : Stream → Stream) (h : d ≠ i.core) :
    (s.modStream i g).core d = s.core d := s.core_modCore_other _ h

/-! ### Scalar and vector registers -/

/-- Scalar register 0 reads as zero, unmarked, whatever is written to it (R61). -/
@[simp] theorem Stream.sreg_zero (t : Stream) : t.sreg 0 = {} := rfl

theorem Stream.sreg_setSreg_same (t : Stream) {r : SReg} (v : Word) (bz : Bool) (h : r ≠ 0) :
    (t.setSreg r v bz).sreg r = ⟨v, bz⟩ := by
  unfold Stream.setSreg Stream.sreg
  rw [if_neg h, if_neg h]
  exact SMap.get_put_same _ _ _ _

theorem Stream.sreg_setSreg_other (t : Stream) {r q : SReg} (v : Word) (bz : Bool) (h : q ≠ r) :
    (t.setSreg r v bz).sreg q = t.sreg q := by
  unfold Stream.setSreg Stream.sreg
  split_ifs with h1 h2
  · rfl
  · rfl
  · exact SMap.get_put_other _ _ _ fun hn => h (BitVec.eq_of_toNat_eq hn)

/-- A write to a scalar register leaves the rest of the stream. -/
theorem Stream.setSreg_eq (t : Stream) (r : SReg) (v : Word) (bz : Bool) :
    t.setSreg r v bz = { t with sregs := (t.setSreg r v bz).sregs } := by
  unfold Stream.setSreg; split_ifs <;> rfl

@[simp] theorem Stream.vreg_setVreg_same (t : Stream) (r : VReg) (v : VData) (bz : Bool) :
    (t.setVreg r v bz).vreg r = ⟨v, bz⟩ := by simp [Stream.setVreg, Stream.vreg]

theorem Stream.vreg_setVreg_other (t : Stream) {r q : VReg} (v : VData) (bz : Bool) (h : q ≠ r) :
    (t.setVreg r v bz).vreg q = t.vreg q :=
  SMap.get_put_other _ _ _ fun hn => h (BitVec.eq_of_toNat_eq hn)

/-! ### Event counters -/

theorem State.blazeWritten_eq (i : At) (b : Bool) :
    s.blazeWritten i b = { s with regs := (s.blazeWritten i b).regs } := by
  unfold State.blazeWritten; split_ifs
  · exact s.event_eq _ _ _ _
  · rfl

@[simp] theorem State.blazeWritten_cores (i : At) (b : Bool) : (s.blazeWritten i b).cores = s.cores := by
  rw [State.blazeWritten_eq]

@[simp] theorem State.issued_cores (i : At) : (s.issued i).cores = s.cores := s.event_cores _ _ _ _

theorem State.evt1_reg_other (c : Nat) (x : Option StreamId) (ev k n off : Nat) (h : off ≠ coreBase c + 0xE08 + 16 * n) :
    (s.evt1 c x ev k n).reg off = s.reg off := by
  unfold State.evt1; split_ifs
  · exact s.reg_count_other _ _ _ h
  · rfl

/-- Events move the counters of their core only. -/
theorem State.event_reg_other (c : Nat) (x : Option StreamId) (ev k off : Nat) (h : coreCounter c off = false) :
    (s.event c x ev k).reg off = s.reg off := by
  simp only [coreCounter, Bool.or_eq_false_iff, Bool.and_eq_false_iff, decide_eq_false_iff_not, not_le, not_lt,
    beq_eq_false_iff_ne] at h
  unfold State.event
  rw [State.evt1_reg_other _ _ _ _ _ _ _ (by omega), State.evt1_reg_other _ _ _ _ _ _ _ (by omega),
    State.evt1_reg_other _ _ _ _ _ _ _ (by omega), State.evt1_reg_other _ _ _ _ _ _ _ (by omega)]

/-! ### Issue -/

/-- A stream that stands at an instruction is one of its core's resident tenancy. -/
theorem State.res_of_atIssue {i : At} (h : s.atIssue i = true) : (s.core i.core).res = some (s.tenOf i.core) := by
  have hr : (s.core i.core).res.isSome = true := by
    simp only [State.atIssue, Bool.and_eq_true] at h
    exact h.1.1.1.1.1.1.2
  obtain ⟨t, ht⟩ := Option.isSome_iff_exists.mp hr
  simp [State.tenOf, ht]

theorem State.atIssue_of_canIssue {i : At} (h : s.canIssue i = true) : s.atIssue i = true := by
  simp only [State.canIssue, Bool.and_eq_true] at h
  exact h.1

/-- Where no fault from outside waits, the boundary changes nothing (R432). -/
theorem State.settle_none {t : Nat} {i : At} (h : (s.tenStream t i).pendingFault = none) : s.settle t i = s := by
  simp [State.settle, h]

/-- The stream of the resident tenancy. -/
theorem State.tenStream_resident {i : At} {t : Nat} (h : (s.core i.core).res = some t) : s.tenStream t i = s.stream i := by
  simp [State.tenStream, State.imageOf, h, State.stream]

/-- A stream that can issue is one of its core's resident tenancy. -/
theorem State.tenStream_of_canIssue {i : At} (h : s.canIssue i = true) : s.tenStream (s.tenOf i.core) i = s.stream i :=
  s.tenStream_resident (s.res_of_atIssue (s.atIssue_of_canIssue h))

/-- What issue can do: nothing where the stream does not stand at an instruction; the instruction where issue is not
gated; and where it is, a gated cycle or the instruction. -/
theorem issue_cases (i : At) (body : State → Eff) :
    (s.atIssue i = false ∧ issue i s body = .next s) ∨
    (s.canIssue i = true ∧ issue i s body = .next (s.issueNow i body)) ∨
    (s.canIssue i = false ∧ issue i s body = .next ((s.draw 1).stallCycle i s.gateCause)) ∨
    (s.canIssue i = false ∧ issue i s body = .next ((s.draw 1).issueNow i body)) := by
  unfold issue
  cases h1 : s.canIssue i
  · cases h2 : s.atIssue i
    · exact .inl ⟨rfl, by simp⟩
    · cases h3 : Config.coin s.free
      · exact .inr (.inr (.inr ⟨rfl, by simp⟩))
      · exact .inr (.inr (.inl ⟨rfl, by simp⟩))
  · exact .inr (.inl ⟨rfl, by simp⟩)

/-- An instruction that is not marked runs. -/
theorem State.issueNow_clean {i : At} (h : s.fetchBites i = false) (body : State → Eff) :
    s.issueNow i body = s.finish i (body s) := by
  simp [State.issueNow, h]

/-- A ready stream issues. -/
theorem issue_ready {i : At} (h : s.ready i) (body : State → Eff) : issue i s body = .next (s.finish i (body s)) := by
  unfold issue; simp [h.1, s.issueNow_clean h.2.1]

/-- The resident tenancy of a ready stream's core. -/
theorem State.ready_res {i : At} (h : s.ready i) : (s.core i.core).res = some (s.tenOf i.core) :=
  s.res_of_atIssue (s.atIssue_of_canIssue h.1)

/-- An instruction retires where its effect left the stream's tenancy resident and brought no fault. -/
theorem State.finish_done {i : At} {t : State} (h : s.ready i) (hr : (t.core i.core).res = (s.core i.core).res)
    (hf : (t.stream i).pendingFault = none) : s.finish i (.done t) = t.retired i := by
  unfold State.finish State.retired
  apply State.settle_none
  have h2 : (((t.advance i).issued i).core i.core).res = some (s.tenOf i.core) := by
    rw [State.core_congr (State.issued_cores _ _)]
    unfold State.advance
    rw [State.core_modStream_same, hr, s.ready_res h]
  rw [State.tenStream_resident _ h2, State.stream_congr (State.issued_cores _ _)]
  simp [State.advance, hf]

/-- An instruction takes a unit that is not occupied. -/
theorem forUnit_free {i : At} {u : ExecUnit} (h : (s.core i.core).unitBusy u = false) (body : State → Eff) :
    forUnit u i body s = body (s.takeUnit i u) := by simp [forUnit, h]

/-- Issue runs an instruction in the state itself, or in that with one more draw. -/
theorem issue_congr {i : At} {f g : State → Eff} (h : f s = g s) (hd : f (s.draw 1) = g (s.draw 1)) :
    issue i s f = issue i s g := by
  unfold issue State.issueNow
  rw [h, hd]

/-- An instruction whose unit is free issues as any other, and takes the unit. -/
theorem issueOn_free {i : At} {u : ExecUnit} (h : (s.core i.core).takenBy u = none)
    (hb : (s.core i.core).unitBusy u = false) (body : State → Eff) :
    issueOn u i s body = issue i s fun s => body (s.takeUnit i u) := by
  simp only [issueOn, h]
  exact issue_congr s (forUnit_free s hb body) (forUnit_free (s.draw 1) hb body)

/-- What the issue on a unit can do: it issues, and takes the unit or loses a cycle while the unit is occupied; it loses a
cycle to a stream that goes first; or it issues in the next cycle. -/
theorem issueOn_cases (u : ExecUnit) (i : At) (body : State → Eff) :
    issueOn u i s body = issue i s (forUnit u i body) ∨
    issueOn u i s body = issue i s (fun s => (body s).unitTaken s) ∨
    issueOn u i s body = issue i (s.corePass i.core 1 none false) (forUnit u i body) := by
  unfold issueOn
  split
  · exact .inl rfl
  · split_ifs
    · exact .inl rfl
    · exact .inr (.inl rfl)
    · exact .inr (.inr rfl)

/-- A ready stream issues on a free unit. -/
theorem issueOn_ready {i : At} {u : ExecUnit} (h : s.readyOn u i) (body : State → Eff) :
    issueOn u i s body = .next (s.finish i (body (s.takeUnit i u))) := by
  rw [issueOn_free s h.2.1 h.2.2, issue_ready s h.1]

/-- A vector instruction that completes leaves its effect with one cycle of the vector engine counted. -/
theorem issueVector_ready {i : At} (h : s.readyOn .vector i) (body : State → Eff) :
    issueVector i s body = .next (s.finish i ((body (s.takeUnit i .vector)).vectorBusy i 1)) := issueOn_ready s h _

/-- Taking a unit leaves every stream, and every core but one. -/
@[simp] theorem State.stream_takeUnit (i j : At) (u : ExecUnit) : (s.takeUnit i u).stream j = s.stream j := by
  unfold State.takeUnit State.stream
  by_cases h : j.core = i.core
  · rw [h]; cases u <;> simp [CoreState.take]
  · rw [State.core_modCore_other _ _ h]

end Sys2Proof.Machine
end

