-- ==== Sys2Proof/Laws/Slh.lean ====
section
/-! SUPPORT. The lengths of digests, and that a signature verifies under the key that made it. -/

namespace Sys2Proof.Machine

/-! ### Lengths -/

@[simp] theorem length_leBytes (n x : Nat) : (leBytes n x).length = n := by
  induction n generalizing x with
  | zero => rfl
  | succ n ih => simp [leBytes, ih]

@[simp] theorem length_beBytes (n x : Nat) : (beBytes n x).length = n := by simp [beBytes]

@[simp] theorem length_sha256 (bs : List Byte) : (sha256 bs).length = 32 := by simp [sha256]

theorem leNat_lt (bs : List Byte) : leNat bs < 256 ^ bs.length := by
  induction bs with
  | nil => simp [leNat]
  | cons b bs ih =>
    have := b.isLt
    simp only [leNat, List.length_cons, Nat.pow_succ]
    omega

theorem digest_lt (bs : List Byte) : digest bs < 256 ^ 32 := by
  simpa [digest] using leNat_lt (sha256 bs)

@[simp] theorem length_slhHash (seed : List Byte) (a : Adrs) (m : List Byte) : (slhHash seed a m).length = 16 := by
  simp [slhHash]

/-! ### One-time signatures -/

/-- The steps of a chain compose. -/
theorem slhChain_chain (seed : List Byte) (a : Adrs) (x : List Byte) (i n m : Nat) :
    slhChain seed a (slhChain seed a x i n) (i + n) m = slhChain seed a x i (n + m) := by
  induction n generalizing x i with
  | zero => simp [slhChain]
  | succ n ih =>
    have := ih (slhHash seed { a with w3 := i } x) (i + 1)
    simp only [slhChain, Nat.add_right_comm n 1 m]
    rw [← this]; congr 1; omega

@[simp] theorem length_slhChain (seed : List Byte) (a : Adrs) (x : List Byte) (i n : Nat) (h : x.length = 16) :
    (slhChain seed a x i n).length = 16 := by
  induction n generalizing x i with
  | zero => exact h
  | succ n ih => exact ih _ _ (length_slhHash _ _ _)

@[simp] theorem length_wotsDigits (m : List Byte) : (wotsDigits m).length = 35 := by simp [wotsDigits, slhDigits]

theorem wotsDigits_lt (m : List Byte) : ∀ d ∈ wotsDigits m, d ≤ 15 := by
  intro d hd
  simp only [wotsDigits, slhDigits, List.mem_append, List.mem_map] at hd
  obtain ⟨i, _, rfl⟩ | ⟨i, _, rfl⟩ := hd <;> omega

/-- A one-time signature gives the key of its key pair. -/
theorem wotsKeyOf_sign (sk seed : List Byte) (a : Adrs) (m : List Byte) :
    wotsKeyOf seed a m (wotsSign sk seed a m) = wotsKey sk seed a := by
  unfold wotsKeyOf wotsKey
  congr 1
  apply List.ext_getElem
  · simp [wotsSign]
  · intro k h₁ h₂
    have hd := wotsDigits_lt m _ (List.getElem_mem (l := wotsDigits m) (n := k) (by simpa using h₂))
    simp only [wotsSign, List.getElem_map, List.getElem_zipIdx, List.getElem_zip, List.getElem_range, Nat.zero_add]
    have := slhChain_chain seed { a with w2 := k } (wotsSecret sk seed a k) 0 ((wotsDigits m)[k]'(by simpa using h₂))
      (15 - (wotsDigits m)[k]'(by simpa using h₂))
    rw [Nat.zero_add] at this
    rw [this]
    congr 1; omega

/-! ### Trees -/

/-- The path of a leaf leads to the node above it. -/
theorem slhClimb_path (seed : List Byte) (a : Adrs) (node : Nat → Nat → List Byte)
    (hn : ∀ z i, node (z + 1) i = slhJoin seed a (z + 1) i (node z (2 * i)) (node z (2 * i + 1))) (h z i : Nat) :
    slhClimb seed a (slhPath (fun j => node (z + j)) h i) z i (node z i) = node (z + h) (i / 2 ^ h) := by
  induction h generalizing z i with
  | zero => simp [slhPath, slhClimb]
  | succ h ih =>
    have hp : slhPath (fun j => node (z + j)) (h + 1) i =
        node z (Nat.xor i 1) :: slhPath (fun j => node (z + 1 + j)) h (i / 2) := by
      simp only [slhPath, List.range_succ_eq_map, List.map_cons, List.map_map, Function.comp_def, Nat.pow_zero,
        Nat.div_one, Nat.add_zero, Nat.div_div_eq_div_mul, Nat.pow_succ', Nat.add_assoc, Nat.add_comm 1,
        Nat.succ_eq_add_one]
    have hx : (if i % 2 = 0 then slhJoin seed a (z + 1) (i / 2) (node z i) (node z (Nat.xor i 1))
        else slhJoin seed a (z + 1) (i / 2) (node z (Nat.xor i 1)) (node z i)) = node (z + 1) (i / 2) := by
      have hxor : Nat.xor i 1 = if i % 2 = 0 then i + 1 else i - 1 := by
        split
        · exact Nat.xor_one_of_even (Nat.even_iff.2 ‹_›)
        · exact Nat.xor_one_of_odd (Nat.odd_iff.2 (by omega))
      rw [hn, hxor]
      split
      · rw [show 2 * (i / 2) = i by omega]
      · rw [show 2 * (i / 2) = i - 1 by omega, show i - 1 + 1 = i by omega]
    rw [hp, slhClimb, hx, ih, Nat.div_div_eq_div_mul, Nat.pow_succ', Nat.add_right_comm, Nat.add_assoc]

/-- What a layer's part of a signature leads to is the root of its tree. -/
theorem layer_root (p : SlhParams) (sk seed : List Byte) (layer tree leaf : Nat) (m : List Byte) (rest : List (List Byte))
    (hl : leaf < 2 ^ p.height) :
    let a : Adrs := { layer := layer, tree := tree }
    let sig := wotsSign sk seed { a with w1 := leaf } m ++ slhPath (xmssNode sk seed a) p.height leaf ++ rest
    slhClimb seed { a with type := 2 } ((sig.drop 35).take p.height) 0 leaf
        (wotsKeyOf seed { a with w1 := leaf } m (sig.take 35)) = xmssNode sk seed a p.height 0 ∧
      sig.drop (35 + p.height) = rest := by
  intro a sig
  have hs : (wotsSign sk seed { a with w1 := leaf } m).length = 35 := by simp [wotsSign]
  have hq : (slhPath (xmssNode sk seed a) p.height leaf).length = p.height := by simp [slhPath]
  have h35 : sig.take 35 = wotsSign sk seed { a with w1 := leaf } m := by
    simp only [sig, List.append_assoc]; rw [List.take_left' hs]
  have hd : sig.drop 35 = slhPath (xmssNode sk seed a) p.height leaf ++ rest := by
    simp only [sig, List.append_assoc]; rw [List.drop_left' hs]
  refine ⟨?_, by rw [← List.drop_drop, hd, List.drop_left' hq]⟩
  have hc := slhClimb_path seed { a with type := 2 } (xmssNode sk seed a) (fun _ _ => rfl) p.height 0 leaf
  simp only [Nat.zero_add, Nat.div_eq_of_lt hl] at hc
  rw [h35, hd, List.take_left' hq, wotsKeyOf_sign]
  exact hc

/-- What a number of layers sign has the top tree's root, where the tree's number has no more bits than the layers above
take. -/
theorem htRoot_sign (p : SlhParams) (sk seed : List Byte) (n layer tree leaf : Nat) (m : List Byte)
    (hl : leaf < 2 ^ p.height) (ht : tree < 2 ^ (p.height * n)) :
    htRoot p seed (n + 1) layer tree leaf m (htSign p sk seed (n + 1) layer tree leaf m) =
      xmssNode sk seed { layer := layer + n } p.height 0 := by
  induction n generalizing layer tree leaf m with
  | zero =>
    obtain rfl : tree = 0 := by simpa using ht
    have := layer_root p sk seed layer 0 leaf m
      (htSign p sk seed 0 (layer + 1) (0 / 2 ^ p.height) (0 % 2 ^ p.height) (xmssNode sk seed { layer := layer } p.height 0)) hl
    exact this.1
  | succ n ih =>
    have := layer_root p sk seed layer tree leaf m (htSign p sk seed (n + 1) (layer + 1) (tree / 2 ^ p.height)
      (tree % 2 ^ p.height) (xmssNode sk seed { layer := layer, tree := tree } p.height 0)) hl
    rw [htRoot, htSign]
    simp only [this.1, this.2]
    rw [ih _ _ _ _ (Nat.mod_lt _ (Nat.two_pow_pos _)), Nat.add_right_comm, Nat.add_assoc]
    rw [Nat.mul_succ, Nat.add_comm, Nat.pow_add] at ht
    exact Nat.div_lt_of_lt_mul ht

/-! ### The whole -/

/-- The FORS key is made of the secrets and paths alone: what follows them in the signature does not matter. -/
theorem forsKeyOf_append (p : SlhParams) (seed : List Byte) (a : Adrs) (md : List Byte) (sig rest : List (List Byte))
    (h : sig.length = p.forsTrees * (p.forsHeight + 1)) :
    forsKeyOf p seed a md (sig ++ rest) = forsKeyOf p seed a md sig := by
  unfold forsKeyOf
  congr 1
  apply List.map_congr_left
  intro q hq
  have hk : q.2 < p.forsTrees := by
    obtain ⟨i, n⟩ := q
    have := (List.mem_zipIdx hq).2.1
    simpa [forsPlaces, slhDigits] using this
  have : (p.forsHeight + 1) * q.2 + (p.forsHeight + 1) ≤ sig.length := by
    rw [h, ← Nat.mul_succ, Nat.mul_comm]; exact Nat.mul_le_mul_right _ hk
  have e : ((sig ++ rest).drop ((p.forsHeight + 1) * q.2)).take (p.forsHeight + 1) =
      (sig.drop ((p.forsHeight + 1) * q.2)).take (p.forsHeight + 1) := by
    rw [List.drop_append_of_le_length (by omega), List.take_append_of_le_length (by simp; omega)]
  simp only [e]

theorem length_forsSign (p : SlhParams) (sk seed : List Byte) (a : Adrs) (md : List Byte) :
    (forsSign p sk seed a md).length = p.forsTrees * (p.forsHeight + 1) := by
  have : ((forsPlaces p md).map fun i =>
      (forsSecret sk seed a i :: slhPath (forsNode sk seed a) p.forsHeight i).length) =
      List.replicate p.forsTrees (p.forsHeight + 1) := by
    apply List.ext_getElem <;> simp [forsPlaces, slhDigits, slhPath]
  simp only [forsSign, List.length_flatMap, this]
  simp

theorem length_htSign (p : SlhParams) (sk seed : List Byte) (n layer tree leaf : Nat) (m : List Byte) :
    (htSign p sk seed n layer tree leaf m).length = n * (35 + p.height) := by
  induction n generalizing layer tree leaf m with
  | zero => simp [htSign]
  | succ n ih => simp only [htSign, List.length_append, ih, Nat.succ_mul]; simp [wotsSign, slhPath]; omega

/-- Every node of a tree of key pairs, and every FORS node, has 16 bytes. -/
theorem length_xmssNode (sk seed : List Byte) (a : Adrs) (z i : Nat) : (xmssNode sk seed a z i).length = 16 := by
  cases z <;> simp [xmssNode, wotsKey, wotsJoin, slhJoin]

theorem length_forsNode (sk seed : List Byte) (a : Adrs) (z i : Nat) : (forsNode sk seed a z i).length = 16 := by
  cases z <;> simp [forsNode, forsLeaf, slhJoin]

theorem forsSign_parts (p : SlhParams) (sk seed : List Byte) (a : Adrs) (md : List Byte) :
    ∀ x ∈ forsSign p sk seed a md, x.length = 16 := by
  intro x hx
  simp only [forsSign, List.mem_flatMap, List.mem_cons, slhPath, List.mem_map] at hx
  obtain ⟨i, _, rfl | ⟨j, _, rfl⟩⟩ := hx
  · simp [forsSecret]
  · exact length_forsNode _ _ _ _ _

theorem htSign_parts (p : SlhParams) (sk seed : List Byte) (n layer tree leaf : Nat) (m : List Byte) :
    ∀ x ∈ htSign p sk seed n layer tree leaf m, x.length = 16 := by
  induction n generalizing layer tree leaf m with
  | zero => simp [htSign]
  | succ n ih =>
    intro x hx
    simp only [htSign, List.mem_append] at hx
    obtain (hx | hx) | hx := hx
    · simp only [wotsSign, List.mem_map] at hx
      obtain ⟨q, _, rfl⟩ := hx
      exact length_slhChain _ _ _ _ _ (by simp [wotsSecret])
    · simp only [slhPath, List.mem_map] at hx
      obtain ⟨j, _, rfl⟩ := hx
      exact length_xmssNode _ _ _ _ _
    · exact ih _ _ _ _ x hx

/-- Strings of 16 bytes are found again in their concatenation. -/
theorem parts_flatten (l : List (List Byte)) (h : ∀ x ∈ l, x.length = 16) :
    l.flatten.length = 16 * l.length ∧
      (List.range l.length).map (fun k => (l.flatten.drop (16 * k)).take 16) = l := by
  induction l with
  | nil => simp
  | cons x l ih =>
    obtain ⟨hx, hl⟩ := List.forall_mem_cons.1 h
    obtain ⟨i, j⟩ := ih hl
    refine ⟨by simp only [List.flatten_cons, List.length_append, i, hx, List.length_cons]; omega, ?_⟩
    rw [List.length_cons, List.range_succ_eq_map, List.map_cons, List.map_map, List.flatten_cons]
    congr 1
    · simpa using List.take_left' hx
    · conv_rhs => rw [← j]
      apply List.map_congr_left
      intro k _
      simp only [Function.comp_def, Nat.mul_succ, Nat.add_comm (16 * k), ← List.drop_drop, List.drop_left' hx]

/-- A signature verifies under the key that made it. -/
theorem slhVerify_sign (p : SlhParams) (sk prf seed rnd m : List Byte) (hseed : seed.length = 16) (hn : 0 < p.layers) :
    slhVerify p (slhKeygen p sk prf seed).publicKey m (slhSign p (slhKeygen p sk prf seed) rnd m) = true := by
  obtain ⟨n, hn⟩ : ∃ n, p.layers = n + 1 := ⟨p.layers - 1, by omega⟩
  set k := slhKeygen p sk prf seed with hk
  have hroot : k.root = xmssNode sk seed { layer := n } p.height 0 := by simp [hk, slhKeygen, hn]
  set r := (hmacSha256 k.prf (rnd ++ pureMsg m)).take 16 with hr
  have lr : r.length = 16 := by simp [hr, hmacSha256]
  obtain ⟨md, tree, leaf, hd⟩ : ∃ md tree leaf, slhDigest p r k.seed k.root (pureMsg m) = (md, tree, leaf) := ⟨_, _, _, rfl⟩
  have ht : tree < 2 ^ (p.height * n) := by
    have := congrArg (fun d => d.2.1) hd
    simp only [slhDigest, hn, Nat.add_sub_cancel] at this
    rw [← this]; exact Nat.mod_lt _ (Nat.two_pow_pos _)
  have hl : leaf < 2 ^ p.height := by
    have := congrArg (fun d => d.2.2) hd
    simp only [slhDigest] at this
    rw [← this]; exact Nat.mod_lt _ (Nat.two_pow_pos _)
  set a : Adrs := { tree := tree, w1 := leaf } with ha
  set fors := forsSign p k.sk k.seed a md with hf
  set ht' := htSign p k.sk k.seed p.layers 0 tree leaf (forsKeyOf p k.seed a md fors) with hh
  have lf : fors.length = p.forsTrees * (p.forsHeight + 1) := length_forsSign _ _ _ _ _
  have hsig : slhSign p k rnd m = (r :: fors ++ ht').flatten := by simp only [slhSign, ← hr, hd, ← ha, ← hf, ← hh]
  have hall : ∀ x ∈ r :: fors ++ ht', x.length = 16 := by
    intro x hx
    simp only [List.cons_append, List.mem_cons, List.mem_append] at hx
    obtain rfl | hx | hx := hx
    · exact lr
    · exact forsSign_parts _ _ _ _ _ x hx
    · exact htSign_parts _ _ _ _ _ _ _ _ x hx
  obtain ⟨hlen, hparts⟩ := parts_flatten _ hall
  have hcount : (r :: fors ++ ht').length = p.sigParts := by
    simp only [List.cons_append, List.length_cons, List.length_append, lf, hh, length_htSign, SlhParams.sigParts]; omega
  rw [hcount] at hlen hparts
  have hfirst : ((r :: fors ++ ht').flatten.drop (16 * 0)).take 16 = r := by
    simp only [Nat.mul_zero, List.drop_zero, List.cons_append, List.flatten_cons]; exact List.take_left' lr
  have hpk : k.publicKey.take 16 = k.seed ∧ k.publicKey.drop 16 = k.root :=
    ⟨List.take_left' hseed, List.drop_left' hseed⟩
  have hdrop : (r :: fors ++ ht').drop (1 + p.forsTrees * (p.forsHeight + 1)) = ht' := by
    rw [List.drop_left']; simp [lf]; omega
  unfold slhVerify
  simp only [hsig, hpk.1, hpk.2, hfirst, hd, hparts, hlen, hdrop]
  simp only [List.cons_append, List.tail_cons, ← ha, forsKeyOf_append p k.seed a md fors ht' lf]
  rw [hh, hn, htRoot_sign p k.sk k.seed n 0 tree leaf _ hl ht, hroot]
  simp [hk, slhKeygen]

end Sys2Proof.Machine
end

