-- ==== Sys2Proof/Laws/Store.lean ====
section
/-! SUPPORT. The canonical form of the byte stores under each shared operation that can change one: core stores under
updates of a core, device memory under line stores, reads and writes, and all of them under the issue of an
instruction. -/

namespace Sys2Proof.Machine

/-! ### Tables -/

/-- What holds of every entry holds after one more is put. -/
theorem SMap.all_put {α : Type} (p : Nat × α → Bool) (m : SMap α) (k : Nat) (v : α) (h : m.all p = true) (hv : p (k, v) = true) :
    (SMap.put m k v).all p = true := by
  induction m with
  | nil => simpa [SMap.put] using hv
  | cons x m ih =>
    obtain ⟨j, w⟩ := x
    simp only [List.all_cons, Bool.and_eq_true] at h
    unfold SMap.put
    split_ifs <;> simp [List.all_cons, hv, h.1, h.2, ih h.2]

/-- What holds of every entry holds after one is deleted. -/
theorem SMap.all_del {α : Type} (p : Nat × α → Bool) (m : SMap α) (k : Nat) (h : m.all p = true) :
    (SMap.del m k).all p = true := by
  induction m with
  | nil => rfl
  | cons x m ih =>
    obtain ⟨j, w⟩ := x
    simp only [List.all_cons, Bool.and_eq_true] at h
    unfold SMap.del
    split_ifs <;> simp [List.all_cons, h.1, h.2, ih h.2]

/-- What holds of every entry, and of what is not listed, holds of what is read. -/
theorem SMap.all_get {α : Type} (p : α → Bool) (d : α) (m : SMap α) (k : Nat) (h : (m.all fun x => p x.2) = true) (hd : p d = true) :
    p (SMap.get d m k) = true := by
  induction m with
  | nil => exact hd
  | cons x m ih =>
    obtain ⟨j, w⟩ := x
    simp only [List.all_cons, Bool.and_eq_true] at h
    unfold SMap.get
    split_ifs
    · exact h.1
    · exact hd
    · exact ih h.2

/-! ### The invariant by its parts -/

variable {s t : State}

theorem State.storesOk_iff : s.storesOk = true ↔ Memory.wf s.mem.bytes = true ∧ Memory.wf s.boot.flash = true ∧
    (s.cores.all fun p => p.2.img.storeOk) = true ∧ (s.images.all fun p => p.2.storeOk) = true := by
  simp only [State.storesOk, Bool.and_eq_true, and_assoc]

/-- Nothing that holds a byte changed. -/
theorem State.storesOk_congr (h : s.storesOk = true) (h1 : t.mem.bytes = s.mem.bytes) (h2 : t.boot.flash = s.boot.flash)
    (h3 : t.cores = s.cores) (h4 : t.images = s.images) : t.storesOk = true := by
  rw [State.storesOk_iff] at *; rw [h1, h2, h3, h4]; exact h

/-- A core's store is canonical, and its set of marks. -/
theorem State.storesOk_core (h : s.storesOk = true) (c : Nat) : (s.core c).img.storeOk = true :=
  SMap.all_get (fun k : CoreState => k.img.storeOk) {} s.cores c (State.storesOk_iff.mp h).2.2.1 rfl

/-- A core replaced by one with a canonical store. -/
theorem State.storesOk_setCore (h : s.storesOk = true) (c : Nat) (k : CoreState) (hk : k.img.storeOk = true) :
    (s.setCore c k).storesOk = true := by
  rw [State.storesOk_iff] at *
  exact ⟨h.1, h.2.1, SMap.all_put _ _ _ _ h.2.2.1 hk, h.2.2.2⟩

/-- A core updated. -/
theorem State.storesOk_modCore (h : s.storesOk = true) (c : Nat) (g : CoreState → CoreState)
    (hg : (g (s.core c)).img.storeOk = true) : (s.modCore c g).storesOk = true :=
  State.storesOk_setCore h c _ hg

/-- A core updated in what is not its store. -/
theorem State.storesOk_modCore_same (h : s.storesOk = true) (c : Nat) (g : CoreState → CoreState)
    (hg : (g (s.core c)).img.storeOk = (s.core c).img.storeOk) : (s.modCore c g).storesOk = true :=
  State.storesOk_setCore h c _ (by rw [hg]; exact State.storesOk_core h c)

/-- A resident image updated. -/
theorem State.storesOk_modImg (h : s.storesOk = true) (c : Nat) (g : CoreImage → CoreImage)
    (hg : (g (s.core c).img).storeOk = true) : (s.modImg c g).storesOk = true :=
  State.storesOk_setCore h c _ hg

@[simp] theorem CoreImage.store_setStream (m : CoreImage) (x : StreamId) (v : Stream) : (m.setStream x v).store = m.store := by
  cases x <;> rfl

@[simp] theorem CoreImage.storeOk_setStream (m : CoreImage) (x : StreamId) (v : Stream) :
    (m.setStream x v).storeOk = m.storeOk := by cases x <;> rfl

theorem State.storesOk_setStream (h : s.storesOk = true) (i : At) (v : Stream) : (s.setStream i v).storesOk = true :=
  State.storesOk_modImg h _ _ (by rw [CoreImage.storeOk_setStream]; exact State.storesOk_core h _)

theorem State.storesOk_modStream (h : s.storesOk = true) (i : At) (g : Stream → Stream) : (s.modStream i g).storesOk = true :=
  State.storesOk_setStream h i _

theorem State.storesOk_advance (h : s.storesOk = true) (i : At) : (s.advance i).storesOk = true := State.storesOk_modStream h i _

theorem State.storesOk_faultStream (h : s.storesOk = true) (i : At) (code addr : Nat) :
    (s.faultStream i code addr).storesOk = true := State.storesOk_modStream h i _

theorem State.storesOk_setNotice (h : s.storesOk = true) (i : At) (v : Bool) : (s.setNotice i v).storesOk = true := by
  unfold State.setNotice
  split <;> exact State.storesOk_modCore_same h _ _ rfl

theorem State.storesOk_setTile (h : s.storesOk = true) (c n : Nat) (v : Tile) : (s.setTile c n v).storesOk = true := by
  unfold State.setTile
  exact State.storesOk_setCore h _ _ (State.storesOk_core h c)

theorem State.storesOk_setAcc (h : s.storesOk = true) (c n : Nat) (v : Acc) : (s.setAcc c n v).storesOk = true := by
  unfold State.setAcc
  exact State.storesOk_modImg h _ _ (State.storesOk_core h c)

theorem NSet.wf_markGranules (bz : Bool) (ps : List (Nat × Nat × List Byte)) {m : NSet} (h : SMap.wf m = true) :
    SMap.wf (markGranules m bz ps) = true := by
  induction ps generalizing m with
  | nil => exact h
  | cons p ps ih =>
    unfold markGranules
    split_ifs
    · exact ih (SMap.wf_put _ _ h)
    · exact ih (SMap.wf_del _ h)
    · exact ih h

/-- Bytes written to a core store leave it canonical. -/
theorem CoreImage.storeOk_storeWrite {m : CoreImage} (a : Nat) (bs : List Byte) (bz : Bool) (h : m.storeOk = true) :
    (m.storeWrite a bs bz).storeOk = true := by
  simp only [CoreImage.storeOk, Bool.and_eq_true] at *
  exact ⟨Memory.wf_write a bs h.1, NSet.wf_markGranules bz _ h.2⟩

theorem CoreImage.storeRead_storeWrite_same {m : CoreImage} (a : Nat) (bs : List Byte) (bz : Bool) (h : Memory.wf m.store = true) :
    (m.storeWrite a bs bz).storeRead a bs.length = bs := Memory.read_write_same a bs h

theorem CoreImage.storeRead_storeWrite_apart {m : CoreImage} (a c n : Nat) (bs : List Byte) (bz : Bool)
    (h : Memory.wf m.store = true) (hc : c + n ≤ a ∨ a + bs.length ≤ c) :
    (m.storeWrite a bs bz).storeRead c n = m.storeRead c n := Memory.read_write_apart a c n bs h hc

/-! ### Registers, counters and records -/

theorem State.storesOk_setReg (h : s.storesOk = true) (off v : Nat) : (s.setReg off v).storesOk = true :=
  State.storesOk_congr h rfl rfl rfl rfl

theorem State.storesOk_setField (h : s.storesOk = true) (off hi lo v : Nat) : (s.setField off hi lo v).storesOk = true :=
  State.storesOk_congr h rfl rfl rfl rfl

theorem State.storesOk_count (h : s.storesOk = true) (off hi lo n : Nat) : (s.count off hi lo n).storesOk = true :=
  State.storesOk_congr h (by simp) (by simp) (by simp) (by simp)

theorem State.storesOk_lookout (h : s.storesOk = true) (n k : Nat) : (s.lookout n k).storesOk = true :=
  State.storesOk_congr h (by simp) (by simp) (by simp) (by simp)

theorem State.storesOk_evt1 (h : s.storesOk = true) (c : Nat) (x : Option StreamId) (ev k n : Nat) :
    (s.evt1 c x ev k n).storesOk = true := by
  unfold State.evt1; split_ifs
  · exact State.storesOk_count h _ _ _ _
  · exact h

theorem State.storesOk_event (h : s.storesOk = true) (c : Nat) (x : Option StreamId) (ev k : Nat) :
    (s.event c x ev k).storesOk = true :=
  State.storesOk_evt1 (State.storesOk_evt1 (State.storesOk_evt1 (State.storesOk_evt1 h _ _ _ _ _) _ _ _ _ _) _ _ _ _ _) _ _ _ _ _

theorem State.storesOk_issued (h : s.storesOk = true) (i : At) : (s.issued i).storesOk = true := State.storesOk_event h _ _ _ _

theorem State.storesOk_blazeWritten (h : s.storesOk = true) (i : At) (b : Bool) : (s.blazeWritten i b).storesOk = true := by
  unfold State.blazeWritten; split_ifs
  · exact State.storesOk_event h _ _ _ _
  · exact h

theorem State.storesOk_nonFinite (h : s.storesOk = true) (i : At) (place n : Nat) : (s.nonFinite i place n).storesOk = true := by
  unfold State.nonFinite
  dsimp only
  split_ifs
  · exact h
  · exact State.storesOk_setNotice (State.storesOk_count h _ _ _ _) _ _
  · exact State.storesOk_count h _ _ _ _

theorem State.storesOk_sendFault (h : s.storesOk = true) (r : FaultRec) : (s.sendFault r).storesOk = true := by
  exact State.storesOk_congr h rfl rfl rfl rfl

theorem State.storesOk_draw (h : s.storesOk = true) (n : Nat) : (s.draw n).storesOk = true :=
  State.storesOk_congr h rfl rfl rfl rfl

/-- What moves registers alone keeps the byte stores. -/
theorem State.storesOk_regs (h : s.storesOk = true) (k : RegsOnly s t) : t.storesOk = true := by
  rw [k]; exact h

/-- Cycles that pass keep the byte stores. -/
theorem State.storesOk_corePass (h : s.storesOk = true) (c n : Nat) (own : Option (StreamId × Cause)) (ready : Bool) :
    (s.corePass c n own ready).storesOk = true := by
  unfold State.corePass
  dsimp only
  have e := State.storesOk_regs (State.storesOk_setCore (State.storesOk_regs h (s.coreCycles_only c n)) c
    ((s.core c).passed n ((s.core c).arr.pass n (s.shimLevel c) (s.shimOn c) ready).1) (State.storesOk_core h c))
    (State.arrayEvents_only _ c ((s.core c).arr.pass n (s.shimLevel c) (s.shimOn c) ready).2)
  unfold State.coreStalls
  dsimp only
  refine State.storesOk_regs (State.storesOk_regs (State.storesOk_regs ?_ (State.countStalls_only _ _ _ _ _ _))
    (State.countStalls_only _ _ _ _ _ _)) (State.countStalls_only _ _ _ _ _ _)
  split_ifs
  · exact State.storesOk_draw e 1
  · exact e

theorem State.storesOk_stallCycle (h : s.storesOk = true) (i : At) (c : Cause) : (s.stallCycle i c).storesOk = true :=
  State.storesOk_corePass h _ _ _ _

theorem State.storesOk_stall (h : s.storesOk = true) (i : At) (c : Cause) : (s.stall i c).storesOk = true :=
  State.storesOk_stallCycle (State.storesOk_modStream h i _) i c

/-! ### Device memory -/

theorem State.storesOk_modStack (h : s.storesOk = true) (i : Nat) (g : Stack → Stack) : (s.modStack i g).storesOk = true :=
  State.storesOk_congr h rfl rfl rfl rfl

theorem State.storesOk_setErrs (h : s.storesOk = true) (l : Nat) (es : SymErrs) : (s.setErrs l es).storesOk = true :=
  State.storesOk_congr h rfl rfl rfl rfl

/-- A line stored. -/
theorem State.storesOk_storeLine (h : s.storesOk = true) (l : Nat) (bs : List Byte) (bz : Bool) :
    (s.storeLine l bs bz).storesOk = true := by
  rw [State.storesOk_iff] at *
  exact ⟨Memory.wf_write _ _ h.1, h.2⟩

/-- A line read. -/
theorem State.storesOk_touchLine (h : s.storesOk = true) (l : Nat) : (s.touchLine l).storesOk = true := by
  unfold State.touchLine
  dsimp only
  split
  · exact h
  · split
    · exact h
    · exact h
    · split
      · exact State.storesOk_storeLine (State.storesOk_congr h (by simp) (by simp) (by simp) (by simp)) _ _ _
      · exact State.storesOk_congr h (by simp) (by simp) (by simp) (by simp)
    · split
      · exact State.storesOk_storeLine (State.storesOk_congr h (by simp) (by simp) (by simp) (by simp)) _ _ _
      · exact State.storesOk_congr h (by simp) (by simp) (by simp) (by simp)

/-- What a fold of kept steps keeps. -/
theorem State.storesOk_foldl {β : Type} (g : State → β → State) (hg : ∀ (u : State) (x : β), u.storesOk = true → (g u x).storesOk = true)
    (xs : List β) (h : s.storesOk = true) : (xs.foldl g s).storesOk = true := by
  induction xs generalizing s with
  | nil => exact h
  | cons x xs ih => exact ih (hg s x h)

theorem State.storesOk_touch (h : s.storesOk = true) (pa n : Nat) : (s.touch pa n).storesOk = true :=
  State.storesOk_foldl _ (fun _ l h => State.storesOk_touchLine h l) _ h

theorem State.storesOk_writePiece (h : s.storesOk = true) (bz : Bool) (p : Nat × Nat × List Byte) :
    (s.writePiece bz p).storesOk = true := by
  obtain ⟨l, off, bs⟩ := p
  unfold State.writePiece
  dsimp only
  split_ifs
  · exact State.storesOk_count h _ _ _ _
  · exact State.storesOk_storeLine h _ _ _
  · exact State.storesOk_storeLine (State.storesOk_touchLine h l) _ _ _

/-- An area written by the device in a layout of its own. -/
theorem State.storesOk_writeArea (h : s.storesOk = true) (l k : Nat) : (s.writeArea l k).storesOk = true := by
  unfold State.writeArea
  dsimp only
  split_ifs
  · exact State.storesOk_count h _ _ _ _
  · rw [State.storesOk_iff] at *
    exact ⟨Memory.wf_filter _ h.1, h.2⟩

/-- Bytes written to device memory. -/
theorem State.storesOk_memWrite (h : s.storesOk = true) (pa : Nat) (bs : List Byte) (bz : Bool) :
    (s.memWrite pa bs bz).storesOk = true :=
  State.storesOk_foldl _ (fun _ p h => State.storesOk_writePiece h bz p) _ h

/-! ### The issue of an instruction -/

/-- The states that an effect carries are canonical. -/
def Eff.storesOk : Eff → Prop
  | .done t => t.storesOk = true
  | .goto t _ => t.storesOk = true
  | .stay t => t.storesOk = true
  | .fault _ _ => True
  | .faultAfter t _ _ => t.storesOk = true
  | .page t _ _ _ _ => t.storesOk = true
  | .part t => t.storesOk = true
  | .stall t _ => t.storesOk = true
  | .illegal => True

/-- The states that an access carries are canonical. -/
def Res.storesOk {α : Type} : Res α → Prop
  | .ok _ t => t.storesOk = true
  | .page t _ _ _ => t.storesOk = true
  | .denied t _ => t.storesOk = true
  | .held t _ => t.storesOk = true

theorem Res.storesOk_bind {α : Type} {r : Res α} (h : r.storesOk) (write : Bool) (f : α → State → Eff)
    (hf : ∀ a (u : State), u.storesOk = true → (f a u).storesOk) : (r.bind write f).storesOk := by
  cases r with
  | ok a u => exact hf a u h
  | page u va l c => exact h
  | denied u va => exact h
  | held u c => exact h

theorem State.storesOk_modImageOf (h : s.storesOk = true) (c t : Nat) (g : CoreImage → CoreImage)
    (hg : ∀ m : CoreImage, (g m).storeOk = m.storeOk) : (s.modImageOf c t g).storesOk = true := by
  unfold State.modImageOf
  split
  · exact State.storesOk_modImg h _ _ (by rw [hg]; exact State.storesOk_core h c)
  · rw [State.storesOk_iff] at *
    refine ⟨h.1, h.2.1, h.2.2.1, SMap.all_put _ _ _ _ h.2.2.2 ?_⟩
    rw [hg]
    exact SMap.all_get (fun m : CoreImage => m.storeOk) {} s.images _ h.2.2.2 rfl

theorem State.storesOk_modTenStream (h : s.storesOk = true) (t : Nat) (i : At) (g : Stream → Stream) :
    (s.modTenStream t i g).storesOk = true :=
  State.storesOk_modImageOf h _ _ _ fun m => CoreImage.storeOk_setStream m _ _

theorem State.storesOk_sendSync (h : s.storesOk = true) (o : SyncOp) : (s.sendSync o).storesOk = true :=
  State.storesOk_congr h (by simp) (by simp) (by simp) (by simp)

theorem State.storesOk_cancelWait (h : s.storesOk = true) (t : Nat) (i : At) : (s.cancelWait t i).storesOk = true := by
  unfold State.cancelWait
  split
  · split
    · exact State.storesOk_sendSync (State.storesOk_modTenStream h _ _ _) _
    · exact h
  · exact h

theorem State.storesOk_strayFault (h : s.storesOk = true) (t : Nat) (i : At) (f : ExtFault) :
    (s.strayFault t i f).storesOk = true := State.storesOk_sendFault h _

theorem State.storesOk_takeFault (h : s.storesOk = true) (t : Nat) (i : At) (f : ExtFault) :
    (s.takeFault t i f).storesOk = true := State.storesOk_modTenStream (State.storesOk_cancelWait h _ _) _ _ _

theorem State.storesOk_dropFault (h : s.storesOk = true) (t : Nat) (i : At) (f : ExtFault) :
    (s.dropFault t i f).storesOk = true := State.storesOk_strayFault (State.storesOk_modTenStream h _ _ _) _ _ _

theorem State.storesOk_pauseNow (h : s.storesOk = true) (i : At) : (s.pauseNow i).storesOk = true := by
  unfold State.pauseNow
  dsimp only
  split_ifs
  · exact State.storesOk_modStream h i _
  · exact State.storesOk_modStream (State.storesOk_cancelWait h _ _) i _
  · exact h

theorem State.storesOk_settle (h : s.storesOk = true) (t : Nat) (i : At) : (s.settle t i).storesOk = true := by
  unfold State.settle
  dsimp only
  split
  · exact h
  · split <;> try split
    all_goals first
      | with_reducible exact h
      | with_reducible exact State.storesOk_takeFault h _ _ _
      | with_reducible exact State.storesOk_dropFault h _ _ _

theorem State.storesOk_suspend (h : s.storesOk = true) (i : At) (va : Nat) (write : Bool) (level cause : Nat) :
    (s.suspend i va write level cause).storesOk = true := by
  unfold State.suspend State.pauseAsked
  dsimp only
  split_ifs
  · exact State.storesOk_pauseNow (State.storesOk_sendFault (State.storesOk_modStream h i _) _) i
  · exact State.storesOk_sendFault (State.storesOk_modStream h i _) _

/-- However an instruction ends, the byte stores are canonical where its effect left them so. -/
theorem State.storesOk_finish (h : s.storesOk = true) (i : At) (e : Eff) (he : e.storesOk) : (s.finish i e).storesOk = true := by
  cases e with
  | done t => exact State.storesOk_settle (State.storesOk_issued (State.storesOk_advance he i) i) _ _
  | goto t pc => exact State.storesOk_settle (State.storesOk_issued (State.storesOk_modStream he i _) i) _ _
  | stay t => exact State.storesOk_issued he i
  | fault code addr => exact State.storesOk_settle (State.storesOk_faultStream h i _ _) _ _
  | faultAfter t code addr => exact State.storesOk_settle (State.storesOk_faultStream he i _ _) _ _
  | page t va w l c => exact State.storesOk_settle (State.storesOk_suspend he i _ _ _ _) _ _
  | part t => exact he
  | stall t c => exact State.storesOk_stall he i c
  | illegal => exact State.storesOk_settle (State.storesOk_modStream h i _) _ _

/-- An instruction run, whose effect keeps the byte stores canonical. -/
theorem State.storesOk_issueNow (h : s.storesOk = true) (i : At) (body : State → Eff) (hb : (body s).storesOk) :
    (s.issueNow i body).storesOk = true := by
  unfold State.issueNow
  split_ifs
  · exact State.storesOk_finish h i _ trivial
  · exact State.storesOk_finish h i _ hb

/-- The issue of an instruction whose effect keeps the byte stores canonical. -/
theorem storesOk_issue (h : s.storesOk = true) (i : At) (body : State → Eff)
    (hb : ∀ v : State, v.storesOk = true → (body v).storesOk) (u : State) (hu : issue i s body = .next u) :
    u.storesOk = true := by
  rcases issue_cases s i body with ⟨_, e⟩ | ⟨_, e⟩ | ⟨_, e⟩ | ⟨_, e⟩ <;> rw [e] at hu <;> injection hu with hu <;> subst hu
  · exact h
  · exact State.storesOk_issueNow h i body (hb s h)
  · exact State.storesOk_stallCycle (State.storesOk_draw h 1) i _
  · exact State.storesOk_issueNow (State.storesOk_draw h 1) i body (hb _ (State.storesOk_draw h 1))

theorem State.storesOk_takeUnit (h : s.storesOk = true) (i : At) (u : ExecUnit) : (s.takeUnit i u).storesOk = true :=
  State.storesOk_modCore_same h _ _ (by cases u <;> rfl)

/-- A unit that is not there for an instruction keeps what its effect keeps. -/
theorem Eff.storesOk_unitTaken (h : s.storesOk = true) {e : Eff} (he : e.storesOk) : (e.unitTaken s).storesOk := by
  cases e <;> first | exact he | exact h

/-- So does the instruction on its unit. -/
theorem storesOk_forUnit (h : s.storesOk = true) (x : ExecUnit) (i : At) (body : State → Eff)
    (hb : ∀ v : State, v.storesOk = true → (body v).storesOk) : (forUnit x i body s).storesOk := by
  unfold forUnit
  split_ifs
  · exact Eff.storesOk_unitTaken h (hb s h)
  · exact hb _ (State.storesOk_takeUnit h i x)

/-- The issue on a unit of an instruction whose effect keeps the byte stores canonical. -/
theorem storesOk_issueOn (h : s.storesOk = true) (x : ExecUnit) (i : At) (body : State → Eff)
    (hb : ∀ v : State, v.storesOk = true → (body v).storesOk) (u : State) (hu : issueOn x i s body = .next u) :
    u.storesOk = true := by
  have hf : ∀ v : State, v.storesOk = true → (forUnit x i body v).storesOk := fun v hv => storesOk_forUnit hv x i body hb
  rcases issueOn_cases s x i body with e | e | e <;> rw [e] at hu
  · exact storesOk_issue h i _ hf u hu
  · exact storesOk_issue h i _ (fun v hv => Eff.storesOk_unitTaken hv (hb v hv)) u hu
  · exact storesOk_issue (State.storesOk_corePass h _ _ _ _) i _ hf u hu

end Sys2Proof.Machine
end

