-- ==== Sys2Proof/Tests/Slice0.lean ====
section
/-! SUPPORT. Tests: an ill-formed command for each check of WellFormed; for each statement's hypotheses a state and
operands that meet them, clause by clause; and single steps with the results that the manual's words give. -/

open Sys2Proof Sys2Proof.Machine

namespace Sys2Proof.Tests

set_option Elab.async false

/-! ### Well-formed commands -/

/-- A boot at which nothing fails. -/
def worldOk : BootWorld := ⟨true, 200, [], [], false, 0⟩

/-- A frame from device 2 to device 1, and its bytes. -/
def frame0 : FabFrame := ⟨0x88B5, 1, false, false, 0, 2, 1, 0, 0, 0, []⟩
def sent (f : FabFrame) : List Byte := f.bytes 0x0201 0x0202 none

/-- A datagram with nothing in it. -/
def datagram0 : Datagram := ⟨0, 0, 0, true, 0, 0, 0, none, 0, [], 0, 0⟩

theorem test_wf_accepts : (Instr.nopInstr ⟨639, .u⟩).wf = true ∧ (Instr.coldRstNRise worldOk).wf = true ∧
    (Instr.fabricFrameReceive 11 ⟨sent frame0, 0, 0⟩).wf = true ∧ (Instr.open datagram0).wf = true := by decide
theorem test_wf_refuses_core_640 : (Instr.nopInstr ⟨640, .f⟩).wf = false ∧ (Instr.mmaRetire 640).wf = false := by decide
theorem test_wf_refuses_nodes : (Instr.dataPacketHop (.site 640) .local (.acc 0) .none).wf = false ∧
    (Instr.controlMessageHop (.stop 24) .block (.sync 0) .none).wf = false ∧
    (Instr.dataPacketHop (.site 0) (.spur 5) (.acc 0) .none).wf = false := by decide
theorem test_wf_refuses_boom_places : (Instr.boomArrival 640 0).wf = false ∧ (Instr.boomHoldExpiry 0 64).wf = false ∧
    (Instr.boomContextLeave 640 0).wf = false ∧ (Instr.boomContextStorageError 0 64).wf = false := by decide
theorem test_wf_refuses_issuers : ([Issuer.core ⟨640, .f⟩ 0, .core ⟨0, .f⟩ (2 ^ 48), .dma 640, .session 64,
    .collective 4 0, .collective 0 4].all fun b => !(Instr.memLineRead 0 b ⟨[], 0⟩ false).wf) = true := by decide
theorem test_wf_refuses_line_errors : (Instr.memLineRead 0 .internal ⟨[(72, 1)], 0⟩ false).wf = false ∧
    (Instr.memLineRead 0 .internal ⟨[(0, 0)], 0⟩ false).wf = false ∧ (Instr.cruiseLine 0 ⟨[(72, 1)], 0⟩).wf = false := by decide
theorem test_wf_refuses_line_places : (Instr.memLineRead (2 ^ 39) .internal ⟨[], 0⟩ false).wf = false ∧
    (Instr.memLineWrite 63 .internal [1, 2] false ⟨[], 0⟩).wf = false ∧
    (Instr.stackFlitReceive 8 (List.replicate 72 0)).wf = false ∧ (Instr.stackFlitReceive 0 (List.replicate 71 0)).wf = false := by decide
theorem test_wf_refuses_notices : (Instr.nfNotice (.stream ⟨640, .f⟩)).wf = false ∧
    (Instr.nfNotice (.accEngine 8)).wf = false ∧ (Instr.nfNotice (.collEngine 4 0)).wf = false ∧
    (Instr.nfNotice (.collEngine 0 4)).wf = false := by decide
theorem test_wf_refuses_frames : (Instr.fabricFrameReceive 12 ⟨sent frame0, 0, 0⟩).wf = false ∧
    (Instr.fabricFrameReceive 0 ⟨List.replicate 8743 0, 0, 0⟩).wf = false := by decide +kernel
/-- R278: the bytes of a frame read back as the frame, with its tag and its records; one of a kind that Table 11.3 does not
give, and one with a bulk record in the express class, are none. -/
def frame1 : FabFrame := { frame0 with seq := 7, recs := [.sync 1 5 true 9, .heartbeat 2 300, .abort 3 2 4] }
theorem test_frame_bytes : readFrame (sent frame0) = some frame0 ∧ (sent frame0).length = 64 := by decide +kernel
theorem test_frame_tagged : readFrame (frame1.bytes 1 2 (some 5)) = some frame1 := by decide +kernel
theorem test_frame_bad_fcs : readFrame ((sent frame1).set 30 4) = none := by decide +kernel
theorem test_frame_unknown_record : readFrame (withFcs (((sent frame1).set 30 7).take ((sent frame1).length - 4))) = none := by
  decide +kernel
theorem test_frame_bulk_record : recsFit false [.data false false 0 0 0 []] = false := by decide
/-- The usual check value of the CRC-32 of the nine digits' bytes (PRESUMED, log entry 142). -/
theorem test_fcs : fcs ([0x31, 0x32, 0x33, 0x34, 0x35, 0x36, 0x37, 0x38, 0x39].map (BitVec.ofNat 8)) = 0xCBF43926 := by decide +kernel
theorem test_wf_refuses_datagrams :
    (([{ datagram0 with port := 2 }, { datagram0 with srcMac := 2 ^ 48 }, { datagram0 with srcIp := 2 ^ 128 },
       { datagram0 with dstIp := 2 ^ 128 }, { datagram0 with srcUdp := 2 ^ 16 }, { datagram0 with dstUdp := 2 ^ 16 },
       { datagram0 with vlan := some 4096 }, { datagram0 with udpSum := 2 ^ 16 }] : List Datagram).all fun d => !(Instr.open d).wf) = true := by decide
theorem test_wf_refuses_worlds : (Instr.coldRstNRise { worldOk with trainFail := [8] }).wf = false ∧
    (Instr.coldRstNRise { worldOk with coreFail := [640] }).wf = false := by decide
theorem test_wf_refuses_samples : (Instr.sensorSample ⟨[(640, 0)], [], [], 0, 0⟩).wf = false ∧
    (Instr.sensorSample ⟨[(0, 256)], [], [], 0, 0⟩).wf = false ∧ (Instr.sensorSample ⟨[], [(24, 0)], [], 0, 0⟩).wf = false ∧
    (Instr.sensorSample ⟨[], [], [(8, 0)], 0, 0⟩).wf = false ∧ (Instr.sensorSample ⟨[], [], [], 1024, 0⟩).wf = false ∧
    (Instr.sensorSample ⟨[], [], [], 0, 2 ^ 14⟩).wf = false := by decide
theorem test_wf_refuses_units : (Instr.translationWalk 0 4 0 false).wf = false ∧
    (Instr.translationWalk 0 0 (2 ^ 48) false).wf = false ∧ (Instr.nearCacheFill ⟨0, .f⟩ (2 ^ 48) false).wf = false ∧
    (Instr.runAheadPrefetch 0 (2 ^ 48) 0 false false).wf = false ∧ (Instr.clockChange 0 799).wf = false ∧
    (Instr.clockChange 0 1801).wf = false := by decide
theorem test_wf_refuses_engines : (Instr.flumeUnitRead 16 0).wf = false ∧ (Instr.flumeUnitRead 0 4).wf = false ∧
    (Instr.collectiveStart 4 0).wf = false ∧ (Instr.collectiveComplete 0 0 64).wf = false ∧
    (Instr.accWinWrite 8 0 0).wf = false ∧ (Instr.accWinWrite 0 8 0).wf = false ∧ (Instr.refresh 8).wf = false := by decide
theorem test_wf_refuses_fabric_places : (Instr.fabricAckTimer 8192 0 false).wf = false ∧
    (Instr.rtoExpiry 0 2 false).wf = false ∧ (Instr.peerSilenceExpiry 8192).wf = false ∧
    (Instr.portDownExpiry 14).wf = false := by decide
theorem test_wf_refuses_neighbours : (Instr.arpRequest 2 0 0 0).wf = false ∧ (Instr.arpRequest 0 (2 ^ 32) 0 0).wf = false ∧
    (Instr.arpRequest 0 0 (2 ^ 48) 0).wf = false ∧ (Instr.arpRequest 0 0 0 (2 ^ 32)).wf = false ∧
    (Instr.neighbourSolicitation 0 (2 ^ 128) 0 0).wf = false ∧ (Instr.neighbourSolicitation 0 0 0 (2 ^ 128)).wf = false := by
  decide
theorem test_wf_refuses_sessions : (Instr.nop 64 0).wf = false ∧ (Instr.nop 0 (2 ^ 48)).wf = false ∧
    (Instr.commandDispatch 64).wf = false ∧ (Instr.syncObjectWordWrite 0 262144 false 0).wf = false := by decide
theorem test_wf_refuses_tenancies : (Instr.tenValidWrite 4 true).wf = false ∧ (Instr.lossClear 4).wf = false ∧
    (Instr.shardPolicyCountClr 4).wf = false := by decide

/-! ### States for the tests -/

/-- Stream F of core 0. -/
def i0 : At := ⟨0, .f⟩

/-- The device at reset with one core resident for tenancy 0, its stream F running and as given. -/
def withStream (t : Stream) : State :=
  { State.reset with
    cores := [(0, { res := some 0, img := { f := { t with state := .running } } })]
    pins := { coldLow := false, xspiReset := false } }

/-- A running stream with scalars s1 to s4 as given. -/
def withScalars (a b c d : SVal) : State := withStream { sregs := [(1, a), (2, b), (3, c), (4, d)] }

/-- A scalar with no mark. -/
def plain (n : Nat) : SVal := ⟨BitVec.ofNat 64 n, false⟩

/-- Stream F of core 0 runs, with 5, 3, 0 and 64 in s1 to s4. -/
def run0 : State := withScalars (plain 5) (plain 3) (plain 0) (plain 64)

/-- The same with s1 marked. -/
def marked0 : State := withScalars ⟨5, true⟩ (plain 3) (plain 0) (plain 64)

/-- `ready` as a Bool. -/
def rdy (s : State) (i : At) : Bool := s.canIssue i && !s.fetchBites i && (s.stream i).pendingFault.isNone

theorem ready_iff (s : State) (i : At) : s.ready i ↔ rdy s i = true := by
  simp [State.ready, rdy, and_assoc]

/-- `readyOn` as a Bool. -/
def rdyOn (s : State) (u : ExecUnit) (i : At) : Bool := rdy s i && ((s.core i.core).takenBy u).isNone &&
  !(s.core i.core).unitBusy u

theorem readyOn_iff (s : State) (u : ExecUnit) (i : At) : s.readyOn u i ↔ rdyOn s u i = true := by
  simp [State.readyOn, rdyOn, ready_iff, and_assoc]

/-- The state in which the effect of an instruction of the vector engine is found: the engine is taken. -/
def engine (s : State) : State := s.takeUnit i0 .vector

/-! ### Witnesses: the step and the S class -/

theorem witness_StepRunsFrontCommand : { run0 with pending := [.nopInstr i0] }.pending = Instr.nopInstr i0 :: [] := rfl
theorem witness_IdleStepTicksRingCounter : run0.pending = [] ∧ (run0.pins.coldLow || run0.pins.thermtrip) = false ∧
    State.reset.pending = [] ∧ (State.reset.pins.coldLow || State.reset.pins.thermtrip) = true := by decide
/-- A device with no core that holds anything, out of COLD_RST_N. -/
def idle0 : State := { State.reset with pins := { coldLow := false, xspiReset := false } }
theorem witness_IdleStep_no_maintenance : idle0.pending = [] ∧ (idle0.pins.coldLow || idle0.pins.thermtrip) = false ∧
    ∀ c, (idle0.core c).ncOp = none := ⟨rfl, rfl, fun _ => rfl⟩
theorem witness_StoresStayCanonical : run0.storesOk = true ∧ step run0 = .next run0.tick := ⟨by decide, rfl⟩
theorem witness_ScalarResults : run0.readyOn .scalar i0 ∧ marked0.readyOn .scalar i0 := by simp only [readyOn_iff]; decide
theorem witness_CompareResults : run0.readyOn .scalar i0 := by simp only [readyOn_iff]; decide

/-- Streams F and B run, and one of them has taken the scalar unit in this cycle. -/
def taken0 (y : StreamId) : State :=
  (run0.modStream ⟨0, .b⟩ fun t => { t with state := .running }).modCore 0 fun k => { k with scalarBy := some y }
theorem witness_ScalarInstructionsFrame : scalarDest (.add i0 5 1 2 0) = some (i0, 5) ∧
    scalarDest (.li i0 0 7) = some (i0, 0) ∧ run0.readyOn .scalar i0 ∧ (∃ t, exec (.add i0 5 1 2 0) run0 = .next t) ∧
    (∃ t, exec (.li i0 0 7) run0 = .next t) ∧ (5 : SReg) ≠ 0 :=
  ⟨rfl, rfl, (readyOn_iff _ _ _).2 (by decide), ⟨_, rfl⟩, ⟨_, rfl⟩, by decide⟩
theorem witness_ScalarInstructions_taken_unit : (taken0 .f).ready ⟨0, .b⟩ ∧ ((taken0 .f).core 0).scalarBy = some .f ∧
    ((taken0 .f).core 0).slotStream ≠ some .b ∧ StreamId.f.idx < StreamId.b.idx ∧ (taken0 .b).ready i0 ∧
    ((taken0 .b).core 0).scalarBy = some .b ∧ ((taken0 .b).core 0).slotStream ≠ some .b ∧
    ¬ StreamId.b.idx < StreamId.f.idx := by
  simp only [ready_iff]; decide

/-- Targets of a branch: the last instruction address, the first one past it, and one that is not aligned. -/
theorem witness_BranchesGoOrFault : run0.readyOn .scalar i0 ∧ marked0.readyOn .scalar i0 ∧ (run0.sval i0 4).bz = false ∧
    (marked0.sval i0 1).bz = true ∧
    (let t : Word := 0 + 8 * (BitVec.ofNat 32 0x3FFFF).signExtend 64; t.toNat % 8 = 0 ∧ t.toNat < 2 ^ 21) ∧
    (let t : Word := 0 + 8 * (BitVec.ofNat 32 0x40000).signExtend 64; ¬ (t.toNat % 8 = 0 ∧ t.toNat < 2 ^ 21)) ∧
    (let t : Word := 0 + 8 * (BitVec.ofInt 32 (-1)).signExtend 64; ¬ (t.toNat % 8 = 0 ∧ t.toNat < 2 ^ 21)) ∧
    (let t : Word := (run0.sval i0 1).val + 8 * 0; ¬ (t.toNat % 8 = 0 ∧ t.toNat < 2 ^ 21)) ∧
    (5 : BitVec 3).toNat < 6 ∧ ((run0.sval i0 1).bz || (run0.sval i0 2).bz) = false ∧
    ((marked0.sval i0 1).bz || (marked0.sval i0 2).bz) = true ∧
    condScalar 1 (run0.sval i0 1).val (run0.sval i0 2).val = some true ∧
    condScalar 0 (run0.sval i0 1).val (run0.sval i0 2).val = some false := by
  simp only [readyOn_iff]; decide

theorem witness_ControlOfOneStream : run0.readyOn .scalar i0 ∧ run0.ready i0 ∧ bits 2 1 (2 : Imm).toNat ≠ 3 ∧ bits 2 1 (6 : Imm).toNat = 3 ∧
    legalWord (BitVec.allOnes 64).toNat = false ∧ run0.notice i0 = false ∧
    (run0.setNotice i0 true).readyOn .scalar i0 ∧ (run0.setNotice i0 true).notice i0 = true := by
  simp only [readyOn_iff, ready_iff]; decide

/-- Bases of the last eight bytes of the core store and of the first eight that are not all inside. -/
theorem witness_CoreStoreLoadsAndStores : run0.readyOn .scalar i0 ∧ (run0.core 0).img.storeOk = true ∧ marked0.readyOn .scalar i0 ∧
    (marked0.sval i0 1).bz = true ∧ (run0.sval i0 3).bz = false ∧
    ((run0.sval i0 3).val + (BitVec.ofNat 32 0x1FFFF8).signExtend 64).toNat + 8 ≤ 2 ^ 21 ∧
    2 ^ 21 < ((run0.sval i0 3).val + (BitVec.ofNat 32 0x1FFFF9).signExtend 64).toNat + 8 ∧
    2 ^ 21 < ((run0.sval i0 3).val + (BitVec.ofInt 32 (-8)).signExtend 64).toNat + 8 := by
  simp only [readyOn_iff]; decide

/-- How an access ends: 0 done, 1 page fault, 2 denied, 3 held. -/
def resKind {α : Type} : Res α → Nat
  | .ok _ _ => 0
  | .page _ _ _ _ => 1
  | .denied _ _ => 2
  | .held _ _ => 3

/-- Page 0 of tenancy 0 mapped by the translation cache of core 0 to the page at `pa`. -/
def mapped (s : State) (pa : Nat) : State :=
  s.modCore 0 fun k => { k with tlb := [⟨0, 16, pa / 65536, true, false⟩] }

/-- A stack in READY state. -/
def readyStacks (s : State) : State := (List.range 8).foldl (fun s i => s.modStack i fun k => { k with state := stReady }) s

/-- A window that leaves stack 0 open to all masters. -/
def openWindow (s : State) : State := (s.setReg 0x1_0000 (2 ^ 63 + 2 ^ 57 + 2 ^ 56)).setReg 0x1_0008 (2 ^ 40 - 1)

/-- Core 0 with its page 0 mapped to physical address 0, every stack READY, and stack 0 open. -/
def open0 : State := openWindow (readyStacks (mapped run0 0))

/-- The accesses of `ld` and `st` at virtual address 0 in four states, and the ends of the address space. -/
theorem witness_VirtualLoadsAndStores :
    (open0.readyOn .scalar i0 ∧ (mapped run0 0).readyOn .scalar i0 ∧ (readyStacks (mapped run0 0)).readyOn .scalar i0 ∧
      run0.readyOn .scalar i0) ∧
    (open0.sval i0 3).bz = false ∧ (run0.sval i0 3).bz = false ∧
    ((run0.sval i0 3).val + (BitVec.ofNat 32 0).signExtend 64).toNat + 8 ≤ 2 ^ 48 ∧
    2 ^ 48 < ((run0.sval i0 3).val + (BitVec.ofInt 32 (-8)).signExtend 64).toNat + 8 ∧
    resKind ((open0.takeUnit i0 .scalar).vmRead i0 0 8 false) = 0 ∧ resKind ((run0.takeUnit i0 .scalar).vmRead i0 0 8 false) = 1 ∧
    resKind (((readyStacks (mapped run0 0)).takeUnit i0 .scalar).vmRead i0 0 8 false) = 2 ∧
    resKind (((mapped run0 0).takeUnit i0 .scalar).vmRead i0 0 8 false) = 3 ∧
    resKind ((open0.takeUnit i0 .scalar).vmWrite i0 0 8 [(0, leBytes 8 5)] false false) = 0 ∧
    resKind ((run0.takeUnit i0 .scalar).vmWrite i0 0 8 [(0, leBytes 8 5)] false false) = 1 ∧
    resKind (((readyStacks (mapped run0 0)).takeUnit i0 .scalar).vmWrite i0 0 8 [(0, leBytes 8 5)] false false) = 2 ∧
    resKind (((mapped run0 0).takeUnit i0 .scalar).vmWrite i0 0 8 [(0, leBytes 8 5)] false false) = 3 := by
  simp only [readyOn_iff]; decide +kernel

/-! ### Witnesses: the V class -/

/-- Register operands v0 to v3 of a format, all lanes. -/
def vop (fmt : Nat) : VOp := ⟨0, 1, 2, 3, BitVec.ofNat 4 fmt, 0, false⟩

/-- The masks of no predicate, of P0 and of P0 negated; the codes of FP32, INT32, E4M3 and a block-scaled format. -/
theorem witness_VectorArithmeticLanes : run0.readyOn .vector i0 ∧ arithFmt 0 = some .fp32 ∧ arithFmt 8 = some .int32 ∧
    Fmt.int32.isInt = true ∧ Fmt.fp32.isInt = false ∧ predMask (run0.stream i0) 0 false = some (BitVec.allOnes 256) ∧
    predMask (run0.stream i0) 8 false = some 0 ∧ predMask (run0.stream i0) 15 true = some (BitVec.allOnes 256) := by
  simp only [readyOn_iff]; decide +kernel
theorem witness_VectorFunctionsWithinBounds : run0.readyOn .vector i0 ∧ arithFmt (vop 0).fmt.toNat = some .fp32 ∧
    arithFmt (vop 8).fmt.toNat = some .int32 ∧ predMask (run0.stream i0) (vop 0).pred (vop 0).pneg = some (BitVec.allOnes 256) ∧
    Fmt.int32.isInt = true ∧ Fmt.fp32.isInt = false ∧ run0.notice i0 = false := by
  simp only [readyOn_iff]; decide +kernel
theorem witness_VectorMovesAndSelects : run0.readyOn .vector i0 ∧ arithFmt (vop 0).fmt.toNat = some .fp32 ∧
    predMask (run0.stream i0) (vop 0).pred (vop 0).pneg = some (BitVec.allOnes 256) ∧ (63 : BitVec 8).toNat < Fmt.fp32.lanes ∧
    Fmt.fp32.lanes ≤ (64 : BitVec 8).toNat := by simp only [readyOn_iff]; decide +kernel
theorem witness_VectorComparesToPredicate : run0.readyOn .vector i0 ∧ arithFmt (vop 0).fmt.toNat = some .fp32 ∧
    predMask (run0.stream i0) (vop 0).pred (vop 0).pneg = some (BitVec.allOnes 256) ∧
    predMask (run0.stream i0) 8 false = some 0 ∧ (6 : BitVec 3).toNat ≠ 7 ∧ 63 < Fmt.fp32.lanes ∧
    laneOn (BitVec.allOnes 256) (63 * Fmt.fp32.laneBytes) = true ∧ laneOn 0 (255 / 4 * 4) = false := by
  simp only [readyOn_iff]; decide +kernel
theorem witness_VectorConverts : run0.readyOn .vector i0 ∧ moveFmt (vop 0).fmt.toNat = some .fp32 ∧ moveFmt 1 = some .bf16 ∧
    moveFmt 0xB = some .mxe4m3 ∧ predMask (run0.stream i0) (vop 0).pred (vop 0).pneg = some (BitVec.allOnes 256) ∧
    partOk Fmt.fp32.regCount Fmt.bf16.regCount 1 = true ∧ partOk Fmt.fp32.regCount Fmt.bf16.regCount 2 = false ∧
    Fmt.bf16.isMx = false ∧ partOk Fmt.fp32.regCount Fmt.mxe4m3.regCount 0 = true ∧ Fmt.mxe4m3.isMx = true ∧
    predMask (run0.stream i0) 8 false = some 0 ∧ (8 : BitVec 4) ≠ 0 := by simp only [readyOn_iff]; decide +kernel

/-- A base at the last 256 bytes of the core store, and one 16 bytes above it. -/
def edge0 : State := withScalars (plain (2 ^ 21 - 256)) (plain (2 ^ 64 - 16)) (plain 0) (plain 64)
theorem witness_VectorLoadsAndStores : edge0.readyOn .vector i0 ∧ moveFmt (vop 0).fmt.toNat = some .fp32 ∧
    predMask (edge0.stream i0) (vop 0).pred (vop 0).pneg = some (BitVec.allOnes 256) ∧ (edge0.sval i0 1).bz = false ∧
    (edge0.core 0).img.storeOk = true ∧
    ((edge0.sval i0 1).val.toNat + 16 * (0 : BitVec 16).toNat) % 2 ^ 64 + 256 ≤ 2 ^ 21 ∧
    2 ^ 21 < ((edge0.sval i0 1).val.toNat + 16 * (1 : BitVec 16).toNat) % 2 ^ 64 + 256 ∧
    ((edge0.sval i0 2).val.toNat + 16 * (1 : BitVec 16).toNat) % 2 ^ 64 + 256 ≤ 2 ^ 21 := by
  simp only [readyOn_iff]; decide +kernel

/-! ### Witnesses: the T, A and K classes -/

/-- Tiles 0 to 3 of 32 rows of 16 FP32 elements. -/
def withTiles (s : State) : State := s.modImg 0 fun m =>
  { m with tiles := (List.range 4).map fun n => (n, { rows := 32, len := 64, fmt := 0 }) }

/-- Core 0 with its tiles, the array slot its own. -/
def tiled0 : State := (withTiles run0).modImg 0 fun m => { m with ilvPattern := 0x55555555, ilvLen := 512 }

/-- An array instruction of tiles 0 and 1 and accumulator 0 in flight. -/
def flight0 : State := tiled0.modCore 0 fun k => { k with inflight := [⟨.f, 0, 1, 0, [(0, 1)], [(0, false)]⟩] }

/-- A `tcfg` held at stream F. -/
def held0 (s : State) : State := s.modStream i0 fun t => { t with heldTcfg := some ⟨0, 1, 3, 0, false⟩ }

theorem witness_TileConfigures : run0.ready i0 ∧ run0.tileHeld i0 0 = false ∧ run0.tileWriteBusy i0 0 = false ∧
    tcfgReason (run0.core 0).img ⟨0, 1, 3, 0, false⟩ = none ∧ tcfgReason (run0.core 0).img ⟨0, 0, 0, 0, true⟩ = none ∧
    tcfgReason (run0.core 0).img ⟨0, 1, 3, 9, false⟩ = some 4 ∧ tcfgReason (run0.core 0).img ⟨0, 255, 31, 0, false⟩ = some 1 ∧
    flight0.ready i0 ∧ flight0.tileHeld i0 0 = false ∧ flight0.tileWriteBusy i0 0 = true ∧
    (run0.core 0).res = some 0 ∧ (run0.stream i0).heldTcfg = none ∧ ((held0 run0).core 0).res = some 0 ∧
    ((held0 run0).stream i0).heldTcfg = some ⟨0, 1, 3, 0, false⟩ ∧ (held0 run0).tileWriteBusy i0 0 = false ∧
    ((held0 run0).stream i0).state = .running ∧ ((held0 run0).stream i0).pendingFault = none ∧
    ((held0 flight0).stream i0).heldTcfg = some ⟨0, 1, 3, 0, false⟩ ∧ (held0 flight0).tileWriteBusy i0 0 = true := by
  simp only [ready_iff]; decide +kernel

/-- Tile 0 to or from the address in s3, one row each 64 bytes (s4). -/
def move0 : TileMemOp := ⟨0, 3, 4, false, false, 0⟩

theorem witness_TileTransfersWithCoreStore : tiled0.ready i0 ∧ tiled0.tileHeld i0 0 = false ∧ move0.space = false ∧
    (tiled0.sval i0 3).bz = false ∧ (tiled0.sval i0 4).bz = false ∧ (tiled0.stream i0).restartValid = false ∧
    ((tiled0.core 0).img.tile 0).configured = true ∧ rowsOk (tiled0.stream i0) move0 32 64 = true ∧
    (tiled0.core 0).img.storeOk = true ∧ tiled0.tileWriteBusy i0 0 = false ∧ tiled0.tileReadBusy i0 0 = false ∧
    tiled0.mayStop i0 = false ∧ tiled0.starved i0 move0 true 32 64 = false := by
  simp only [ready_iff]; decide +kernel
/-- A Flume delivery whose second row, of 64 bytes at byte 64 of the core store, has still to arrive. -/
def starving0 : State := { tiled0 with flume := { tiled0.flume with
  runs := [⟨1, 0, 0, ⟨0, 0, 2, 64, 0, 0, 0, 64, 0, 0, 0, 0, false, 0, false, false, 0, false⟩, 0, 0, [0], [], [], [], 0, []⟩]
  deliveries := [{ run := 1, core := 0, rank := 0, got := [(0, ())] }] } }
theorem witness_TileTransfersCheckAndRestart_starved : starving0.ready i0 ∧ starving0.tileHeld i0 0 = false ∧
    ((starving0.sval i0 3).bz || (starving0.sval i0 4).bz) = false ∧ starving0.tileWriteBusy i0 0 = false ∧
    (((starving0.core 0).img.tile 0).configured && rowsOk (starving0.stream i0) move0 32 64) = true ∧
    starving0.starved i0 move0 true 32 64 = true ∧ starving0.starved i0 move0 true 1 64 = false ∧
    tiled0.starved i0 move0 true 32 64 = false := by simp only [ready_iff]; decide +kernel
theorem witness_TileTransfersCheckAndRestart : tiled0.ready i0 ∧ tiled0.tileHeld i0 0 = false ∧
    ((tiled0.sval i0 3).bz || (tiled0.sval i0 4).bz) = false ∧ (withTiles marked0).ready i0 ∧
    (((withTiles marked0).sval i0 1).bz || ((withTiles marked0).sval i0 4).bz) = true ∧
    (((tiled0.core 0).img.tile 0).configured && rowsOk (tiled0.stream i0) move0 32 64) = true ∧
    (((run0.core 0).img.tile 0).configured && rowsOk (run0.stream i0) move0 0 0) = false ∧
    (((tiled0.core 0).img.tile 0).configured && rowsOk (tiled0.stream i0) ⟨0, 1, 4, false, false, 0⟩ 32 64) = false ∧
    tiled0.tileWriteBusy i0 0 = false ∧ tiled0.tileReadBusy i0 0 = false := by simp only [ready_iff]; decide +kernel
theorem witness_TileRowMoves : tiled0.ready i0 ∧ tiled0.tileHeld i0 0 = false ∧ (withTiles marked0).ready i0 ∧
    ((withTiles marked0).sval i0 1).bz = true ∧ (tiled0.sval i0 3).bz = false ∧
    (((tiled0.core 0).img.tile 0).configured && decide ((tiled0.sval i0 3).val.toNat % 256 < 32) && !(false && true)) = true ∧
    (((tiled0.core 0).img.tile 0).configured && decide ((tiled0.sval i0 4).val.toNat % 256 < 32)) = false ∧
    (((tiled0.core 0).img.tile 0).configured && decide ((tiled0.sval i0 3).val.toNat % 256 < 32) &&
      !(true && decide (((tiled0.core 0).img.tile 0).len ≤ 256))) = false ∧
    tiled0.tileReadBusy i0 0 = false ∧ tiled0.tileWriteBusy i0 0 = false := by simp only [ready_iff]; decide +kernel

/-- An array instruction of tiles 0 and 1 into accumulator 0, form 1: 2 by 2 with K = 16. -/
def mma0 : MmaOp := ⟨0, 1, 0, 1, false, false, 0, false, 0, false, 1, 0, 0, 1⟩

/-- Is a check passed, with which class; or the code it fails with? -/
def checkIs (s : State) (o : MmaOp) : Option Nat × Nat :=
  match mmaCheck s 0 o with
  | .ok g => (some g, 0)
  | .error code => (none, code)

/-- The same core with its shim off; one whose slot belongs to stream B; one whose ramp withholds everything; one whose
slot is used up. -/
def quiet0 : State := tiled0.setReg (coreBase 0 + 0x600) 0
def other0 : State := quiet0.modImg 0 fun m => { m with ilvPattern := 0xAAAAAAAA }
def ramped0 : State := (tiled0.setReg (coreBase 0 + 0x600) (2 ^ 40 + 1)).modCore 0 fun k => { k with arr := { k.arr with cap := 0 } }
def full0 : State := quiet0.modCore 0 fun k => { k with arr := { k.arr with slotRun := true, slotUsed := 4096 } }
def occ0 (s : State) : Nat := occupancy (s.core 0).arr (!(s.core 0).arr.slotRun && (s.stream i0).slotWait == some true) 1
  (groupClass 5) (mmaCycles mma0 5 false).1 (mmaCycles mma0 5 false).2

theorem witness_ArrayMultiplyIssues : quiet0.ready i0 ∧ mma0.opa ≠ 3 ∧ mma0.opw ≠ 3 ∧ quiet0.tileHeld i0 0 = false ∧
    quiet0.tileHeld i0 1 = false ∧ checkIs quiet0 mma0 = (some 5, 0) ∧ run0.ready i0 ∧
    checkIs run0 mma0 = (none, codeTileBounds) ∧ quiet0.accBusy 0 0 = false ∧ quiet0.tileReadBusy i0 0 = false ∧
    quiet0.tileReadBusy i0 1 = false ∧ (quiet0.core 0).slotOwner = i0.stream.ownerCode ∧
    (quiet0.core 0).arr.fits (occ0 quiet0) (quiet0.core 0).img.slotCycles (quiet0.shimLevel 0) false = true ∧
    quiet0.shimOn 0 = false ∧ full0.ready i0 ∧ checkIs full0 mma0 = (some 5, 0) ∧ full0.shimOn 0 = false ∧
    (full0.core 0).arr.fits (occ0 full0) (full0.core 0).img.slotCycles (full0.shimLevel 0) false = false ∧
    (full0.core 0).slotOwner = i0.stream.ownerCode ∧ ramped0.ready i0 ∧ checkIs ramped0 mma0 = (some 5, 0) ∧
    (ramped0.shimOn 0 && (ramped0.core 0).arr.cap == 0 && decide (0 < ramped0.shimLevel 0)) = true ∧
    (ramped0.core 0).slotOwner = i0.stream.ownerCode ∧
    other0.ready i0 ∧ checkIs other0 mma0 = (some 5, 0) ∧ (other0.core 0).slotOwner ≠ i0.stream.ownerCode := by
  simp only [ready_iff]; decide +kernel
theorem witness_ArrayMultiplyRetires : (run0.core 0).inflight = [] ∧
    (flight0.core 0).inflight = ⟨.f, 0, 1, 0, [(0, 1)], [(0, false)]⟩ :: [] := by decide +kernel
theorem witness_AccumulatorMoves : run0.ready i0 ∧ marked0.ready i0 ∧ run0.accBusy 0 0 = false ∧
    (marked0.sval i0 1).bz = true ∧ (run0.sval i0 1).bz = false := by simp only [ready_iff]; decide +kernel

/-- Two rows of accumulator 0 to rows 30 and 31 of tile 0, and to rows 31 and 32. -/
def acct0 : AcctOp := ⟨0, 0, 1, 30, 1, 14⟩
theorem witness_AccumulatorRowsToTile : tiled0.ready i0 ∧ tiled0.tileHeld i0 0 = false ∧
    ((tiled0.core 0).img.tile 0).configured = true ∧ Fmt.ofCode ((tiled0.core 0).img.tile 0).fmt = some .fp32 ∧
    (decide (14 + 2 ≤ formK 1) && decide (30 + 2 ≤ ((tiled0.core 0).img.tile 0).rows)) = true ∧
    (decide (14 + 2 ≤ formK 1) && decide (31 + 2 ≤ ((tiled0.core 0).img.tile 0).rows)) = false ∧
    (decide (15 + 2 ≤ formK 1) && decide (30 + 2 ≤ ((tiled0.core 0).img.tile 0).rows)) = false ∧
    tiled0.accBusy 0 acct0.acc.toNat = false ∧ tiled0.tileWriteBusy i0 acct0.tile.toNat = false := by
  simp only [ready_iff]; decide +kernel
theorem witness_BackwardKernelsComplete : tiled0.readyOn .vector i0 ∧ [0, 1, 2, 3].any (tiled0.tileHeld i0) = false ∧
    (withTiles marked0).readyOn .vector i0 ∧ ((withTiles marked0).sval i0 1).bz = true ∧ (tiled0.sval i0 3).bz = false ∧
    kernelShape ([0, 1, 3].map (tiled0.core 0).img.tile) = some .fp32 ∧
    kernelShape ([0, 1, 4].map (tiled0.core 0).img.tile) = none ∧
    (!([0, 1, 3].any fun t => decide (((tiled0.core 0).img.tile t).rows < 30 + (1 + 1))) &&
      decide (31 < ((tiled0.core 0).img.tile 3).rows)) = true ∧
    (!([0, 1, 3].any fun t => decide (((tiled0.core 0).img.tile t).rows < 31 + (1 + 1))) &&
      decide (31 < ((tiled0.core 0).img.tile 3).rows)) = false ∧
    (!([0, 1, 3].any (tiled0.tileReadBusy i0)) && !([2].any (tiled0.tileWriteBusy i0))) = true ∧
    tiled0.accBusy 0 0 = false := by simp only [readyOn_iff]; decide +kernel
/-- The vector engine occupied for three more cycles. -/
def occupied0 : State := tiled0.modCore 0 fun k => { k with vectorLeft := 3 }
theorem witness_BackwardKernels_occupied : occupied0.ready i0 ∧ (occupied0.core 0).vectorBy = none ∧ 0 < (occupied0.core 0).vectorLeft ∧
    [0, 1].any (occupied0.tileHeld i0) = false ∧ kernelShape ([0, 1].map (occupied0.core 0).img.tile) = some .fp32 ∧
    ([0, 1].any fun t => decide (((occupied0.core 0).img.tile t).rows < 30 + (1 + 1))) = false ∧
    [0, 1].any (occupied0.tileReadBusy i0) = false := by simp only [ready_iff]; decide +kernel
/-! ### Witnesses: the P class -/

/-- Bytes of device memory set. -/
def poke (s : State) (pa : Nat) (n x : Nat) : State :=
  { s with mem := { s.mem with bytes := s.mem.bytes.write pa (leBytes n x) } }

/-- Shards 0 and 1 of tenancy 0 and group 0, of two rows of 32 FP32 elements; shard 1 has rows of 16. The shard map is
at 2 MiB and the group descriptors at 4 MiB; group 0 alone is the tenancy's. -/
def sharded (s : State) : State :=
  poke (poke ((((readyStacks s).setReg 0x4C0 (2 ^ 21)).setReg 0x480 (2 ^ 22)).setReg 0x488 (2 ^ 16)) (2 ^ 21) 32
    (2 ^ 23 + 64 * 2 ^ 64 + 32 * 2 ^ 96 + 7 * 2 ^ 128 + 2 ^ 182)) (2 ^ 21 + 32) 32
    (2 ^ 24 + 64 * 2 ^ 64 + 16 * 2 ^ 96 + 7 * 2 ^ 128 + 2 ^ 182)

/-- s1 to s4 are 0, 1, 2 and 0. -/
def shard0 : State := sharded (withScalars (plain 0) (plain 1) (plain 2) (plain 0))

/-- s1 is marked. -/
def shardBz : State := sharded (withScalars ⟨0, true⟩ (plain 1) (plain 2) (plain 0))

/-- Stack 0 in training again. -/
def shardHeld : State := shard0.modStack 0 fun k => { k with state := stTraining }

theorem witness_GroupWordsAndVersions : shard0.ready i0 ∧ shardBz.ready i0 ∧ (shardBz.sval i0 1).bz = true ∧
    (shard0.sval i0 1).bz = false ∧ shard0.groupOk 0 0 = true ∧ shard0.groupOk 0 1 = false ∧
    shard0.requestHeld i0 (shard0.gdescPa 0 + 4 * 31) = none ∧ shard0.requestHeld i0 (shard0.shard 0).pa = none ∧
    shard0.memOk (masterTen 0) (shard0.gdescPa 0 + 4 * 31) 4 true = false ∧
    shard0.memOk (masterTen 0) ((shard0.shard 0).pa + 16) 4 true = false ∧ (openWindow shard0).ready i0 ∧
    (openWindow shard0).memOk (masterTen 0) (shard0.gdescPa 0 + 4 * 31) 4 true = true ∧
    (openWindow shard0).memOk (masterTen 0) ((shard0.shard 0).pa + 16) 4 true = true ∧ shardHeld.ready i0 ∧
    shardHeld.groupOk 0 0 = true ∧ shardHeld.requestHeld i0 (shardHeld.gdescPa 0) = some .memLimit ∧
    shardHeld.requestHeld i0 (shardHeld.shard 0).pa = some .memLimit ∧ shard0.shardOk 0 (shard0.shard 0) = true ∧ shard0.shardOk 0 (shard0.shard 2) = false ∧
    shard0.homeStack 0 = (shard0.shard 0).stack ∧ (5 : SReg) ≠ 0 := by simp only [ready_iff]; decide +kernel
theorem witness_UpdateRunsItsBlocks : shard0.readyOn .vector i0 ∧ shardBz.readyOn .vector i0 ∧ shardHeld.readyOn .vector i0 ∧
    ((shardBz.sval i0 1).bz || false) = true ∧ (shard0.sval i0 1).bz = false ∧
    (engine shardHeld).tablesHeld i0 (shardHeld.shard 0) (shardHeld.gdesc 0).pa = some .memLimit ∧
    (engine shard0).tablesHeld i0 (shard0.shard 0) (shard0.gdesc 0).pa = none ∧
    updCheck i0 (shard0.shard 2) (shard0.gdesc 0) (engine shard0) = some (codeAccess, 0) ∧
    updCheck i0 (shard0.shard 0) (shard0.gdesc 0) (engine shard0) = none ∧ (shard0.shard 0).blocks = 2 ∧
    (([0, 1].map (· + 0)).all fun k => addrOk (shard0.shard 0) (shard0.gdesc 0) ((shard0.shard 0).blockLen k) k) = true := by
  simp only [readyOn_iff]; decide +kernel

/-- A group whose gradients would stand below the stack: word 17 is the least offset there is. -/
def offStack : State := poke shard0 (2 ^ 22 + 4 * 17) 4 (2 ^ 31)
theorem witness_UpdateRunsItsBlocks_denied : offStack.readyOn .vector i0 ∧
    updCheck i0 (offStack.shard 0) (offStack.gdesc 0) (engine offStack) = none ∧
    (engine offStack).tablesHeld i0 (offStack.shard 0) (offStack.gdesc 0).pa = none ∧
    addrOk (offStack.shard 0) (offStack.gdesc 0) ((offStack.shard 0).blockLen 0) 0 = false := by
  simp only [readyOn_iff]; decide +kernel

/-- Two marks on their way to the unit of stack 0, the second of them marked, and row 1 of shard 0 kept there. -/
def mark0 (stack : Nat) (bz : Bool) (id : Nat) : MarkMsg := ⟨stack, ⟨0, 0, 0⟩, bz, i0, id⟩
def tally0 : State := { shard0 with tally := {
  marks := [(0, [⟨0, 1, 0⟩])], ovf := [(0, ())], msgs := [mark0 0 false 1, mark0 1 true 2] } }
/-- As many marks of core 0 on their way as the control plane takes. -/
def plane0 : State := { shard0 with tally := { msgs := (List.range 16).map fun k => mark0 1 false (k + 1) } }
theorem witness_TallyMarksTravelAndAreKept : shard0.ready i0 ∧
    predMask (shard0.stream i0) 0 false = some (BitVec.allOnes 256) ∧ predMask (shard0.stream i0) 8 false = some 0 ∧
    shard0.requestHeld i0 (shard0.shard 0).pa = none ∧ shard0.shardOk 0 (shard0.shard 0) = true ∧
    shard0.requestHeld i0 (shard0.shard 2).pa = none ∧ shard0.planeFull 0 = false ∧ plane0.ready i0 ∧
    plane0.requestHeld i0 (plane0.shard 0).pa = none ∧ plane0.planeFull 0 = true ∧ shard0.shardOk 0 (shard0.shard 2) = false ∧
    (shard0.sval i0 2).val.toNat < (shard0.shard 0).rows ∧ (shard0.shard 0).rows ≤ (shard0.sval i0 3).val.toNat ∧
    (shard0.sval i0 3).bz = false ∧ tally0.tally.msgs[0]? = some (mark0 0 false 1) ∧
    tally0.tally.msgs[1]? = some (mark0 1 true 2) ∧
    (tally0.marks 0).any (fun m => m.shard == 0 && m.row == 0) = false ∧
    (shard0.sval i0 1).bz = false ∧ shardHeld.ready i0 ∧ shardHeld.requestHeld i0 (shardHeld.shard 0).pa = some .memLimit ∧
    (tally0.marks 0).any (fun m => m.shard == 0 && m.row == 1) = true ∧ (tally0.marks 0).length < 131072 ∧
    tally0.tally.msgs[2]? = none ∧ tally0.ready i0 ∧ (tally0.sval i0 1).bz = false ∧
    tally0.markWaits 0 (mark0 0 false 1) = false ∧ tally0.markWaits 1 (mark0 1 true 2) = false ∧
    (State.markWaits { tally0 with tally := { tally0.tally with msgs := tally0.tally.msgs ++ [mark0 0 false 3] } } 2
      (mark0 0 false 3)) = true ∧
    (tally0.tally.msgs.any (fun m => m.src.core == 0 && m.stack == tally0.homeStack 0) || tally0.planeFull 0) = true ∧
    (shard0.tally.msgs.any (fun m => m.src.core == 0 && m.stack == shard0.homeStack 0) || shard0.planeFull 0) = false ∧
    shard0.groupOk (shard0.tenOf 0) ((shard0.sval i0 1).val.toNat % 4096) = true ∧ tally0.groupOk (tally0.tenOf 0) ((tally0.sval i0 1).val.toNat % 4096) = true := by
  simp only [ready_iff]; decide +kernel
theorem witness_TallyMarks_full : 131072 ≤ (State.marks { tally0 with tally := { tally0.tally with
    marks := [(0, List.replicate 131072 ⟨0, 1, 0⟩)] } } 0).length := by
  rw [show State.marks { tally0 with tally := { tally0.tally with marks := [(0, List.replicate 131072 ⟨0, 1, 0⟩)] } } 0 =
    List.replicate 131072 ⟨0, 1, 0⟩ from rfl, List.length_replicate]
/-- The same without the overflow flag. -/
def tally1 : State := { tally0 with tally := { tally0.tally with ovf := [] } }
theorem witness_TallyWalkAdvancesCursor : tally1.readyOn .vector i0 ∧ shardBz.readyOn .vector i0 ∧ (shardBz.sval i0 1).bz = true ∧
    (tally1.sval i0 1).bz = false ∧ (engine tally1).tablesHeld i0 (tally1.shard 0) (tally1.gdesc 0).pa = none ∧
    (engine shardHeld).tablesHeld i0 (shardHeld.shard 0) (shardHeld.gdesc 0).pa = some .memLimit ∧ shardHeld.readyOn .vector i0 ∧
    updCheck i0 (tally1.shard 2) (tally1.gdesc 0) (engine tally1) = some (codeAccess, 0) ∧
    updCheck i0 (tally1.shard 0) (tally1.gdesc 0) (engine tally1) = none ∧ (tally1.shard 0).rowLen % 32 = 0 ∧
    ((tally1.gdesc 0).ovfFault && tally1.tallyOvf (tally1.shard 0).stack 0) = false ∧
    tally1.walkFromCursor (tally1.shard 0) 0 1 0 2 = none ∧ tally1.walkFromCursor (tally1.shard 0) 0 1 0 0 = some (1, 0) ∧
    0 < (tally1.shard 0).rowBlocks 1 ∧ (tally1.shard 0).rowBlocks 1 ≤ 0 + 1 ∧
    addrOk (tally1.shard 0) (tally1.gdesc 0) ((tally1.shard 0).blockLen 1) 1 = true ∧
    updCheck i0 (tally1.shard 1) (tally1.gdesc 0) (engine tally1) = none ∧ (tally1.shard 1).rowLen % 32 ≠ 0 := by
  simp only [readyOn_iff]; decide +kernel

/-- Shard 3, of two rows of 64 elements, with its row 0 marked. -/
def tally2 : State := { (poke (openWindow shard0) (2 ^ 21 + 96) 32
    (2 ^ 24 + 128 * 2 ^ 64 + 64 * 2 ^ 96 + 7 * 2 ^ 128 + 2 ^ 182)) with tally := { marks := [(0, [⟨3, 0, 0⟩])] } }
theorem witness_TallyWalk_ends_inside_a_row : tally2.readyOn .vector i0 ∧ updCheck i0 (tally2.shard 3) (tally2.gdesc 0) (engine tally2) = none ∧
    (tally2.shard 3).rowLen % 32 = 0 ∧ (engine tally2).tablesHeld i0 (tally2.shard 3) (tally2.gdesc 0).pa = none ∧
    tally2.walkFromCursor (tally2.shard 3) 3 1 0 0 = some (0, 0) ∧ 0 + 1 < (tally2.shard 3).rowBlocks 0 ∧
    addrOk (tally2.shard 3) (tally2.gdesc 0) ((tally2.shard 3).blockLen 0) 0 = true ∧
    (runUpdate i0 (tally2.shard 3) (tally2.gdesc 0) 0 [] tally2).2 = none ∧
    (runUpdate i0 (tally2.shard 3) (tally2.gdesc 0) 0 [0] tally2).2 = none ∧
    tally2.walkFromCursor (tally2.shard 3) 3 1 0 (2 * 2 ^ 32) = some (0, 2) ∧ (tally2.shard 3).rowBlocks 0 ≤ 2 ∧
    ((runUpdate i0 (tally1.shard 0) (tally1.gdesc 0) 0 [1] tally1).2).isSome = true := by
  simp only [readyOn_iff]; decide +kernel
/-- Row 1 of shard 0 marked in the state whose gradients stand below the stack; and the overflow flag of a group whose
descriptor asks for the fault. -/
def tally3 : State := { offStack with tally := { marks := [(0, [⟨0, 1, 0⟩])] } }
def tally4 : State := { poke shard0 (2 ^ 22 + 4 * 11) 4 (2 ^ 29) with tally := { marks := [(0, [⟨0, 1, 0⟩])], ovf := [(0, ())] } }
theorem witness_TallyWalk_stops : tally3.readyOn .vector i0 ∧ updCheck i0 (tally3.shard 0) (tally3.gdesc 0) (engine tally3) = none ∧
    (engine tally3).tablesHeld i0 (tally3.shard 0) (tally3.gdesc 0).pa = none ∧
    tally3.walkFromCursor (tally3.shard 0) 0 1 0 0 = some (1, 0) ∧
    addrOk (tally3.shard 0) (tally3.gdesc 0) ((tally3.shard 0).blockLen 1) 1 = false ∧ tally4.readyOn .vector i0 ∧
    updCheck i0 (tally4.shard 0) (tally4.gdesc 0) (engine tally4) = none ∧
    ((tally4.gdesc 0).ovfFault && tally4.tallyOvf (tally4.shard 0).stack (tally4.shard 0).group) = true ∧
    tally4.walkFromCursor (tally4.shard 0) 0 1 0 0 = some (0, 0) ∧
    addrOk (tally4.shard 0) (tally4.gdesc 0) ((tally4.shard 0).blockLen 0) 0 = true := by
  simp only [readyOn_iff]; decide +kernel
/-! ### Witnesses: the near cache, translation, transfers -/

/-- A dirty line 0 in the near cache of core 0. -/
def dirty (s : State) : State := s.modCore 0 fun k => { k with nc := [(0, ⟨5, true, false, true, true⟩)] }

/-- How a walk over a range ends, its lines, and what then holds their flush. -/
def linesKind (r : Res (List Nat)) : Nat × List Nat × Option Cause :=
  match r with
  | .ok ls u => (0, ls, u.flushHeld i0 ls)
  | v => (resKind v, [], none)
/-- Tables of tenancy 0 at 4 KiB, their stack in training. -/
def tabledOff (s : State) : State := s.setReg 0x500 (1 + 4096)

/-- The address in s3 and the lengths in s3 (0) and s4 (64); stack 0 ready, in training, and in training with the tables. -/
theorem witness_NearCacheMaintenance : (dirty open0).ready i0 ∧ (dirty (mapped run0 0)).ready i0 ∧
    ((dirty open0).sval i0 3).val.toNat = 0 ∧ ((dirty open0).sval i0 4).val.toNat = 64 ∧
    linesKind ((dirty open0).rangeLines i0 0 64) = (0, [0], none) ∧
    linesKind ((dirty (mapped run0 0)).rangeLines i0 0 64) = (0, [0], some .memLimit) ∧
    (tabledOff run0).ready i0 ∧ (linesKind ((tabledOff run0).rangeLines i0 0 64)).1 = 3 ∧ SMap.wf ((dirty open0).core 0).nc = true ∧ run0.fenceBusy i0 = false ∧
    (run0.setNotice i0 true).ready i0 ∧ (run0.setNotice i0 true).fenceBusy i0 = true := by
  simp only [ready_iff]; decide +kernel
/-- Stream F has missed line after line up to line 0, and its page may be run ahead in. -/
def ahead0 : State := open0.modCore 0 fun k => { k with runs := [(0, (0, 2))], tlb := [⟨0, 16, 0, true, true⟩] }
theorem witness_NearCacheEvents_held_and_ahead : open0.requestHeld i0 0 = none ∧ open0.roomHeld 0 0 = false ∧
    ((dirty open0).core 0).ncOp = none ∧ (dirty open0).writeWaits 0 0 = false ∧ (dirty (mapped run0 0)).writeWaits 0 0 = true ∧
    ((dirty (mapped run0 0)).core 0).ncOp = none ∧ (open0.core 0).res.isSome = true ∧
    (ahead0.runAhead ⟨0, .f⟩ (64 / 64 * 64)) = some 1 ∧ (ahead0.ncLine 0 1).isSome = false ∧ ahead0.memHeld (64 * 1) = false ∧
    ahead0.roomHeld 0 1 = false ∧ ahead0.poolFree 0 = true ∧ ahead0.cutOff 0 (64 * 1) = false ∧ ahead0.canInject 0 1 = true ∧
    ahead0.memOk (masterTen (ahead0.tenOf 0)) (64 * 1) 64 false = true := by decide +kernel
theorem witness_NearCacheEvents_nothing_held : ∀ k, open0.writeWaits 0 k = false := fun _ => rfl
theorem witness_NearCacheEvents : open0.canIssue i0 = true ∧
    (open0.core 0).lookup 0 true = some ⟨0, 16, 0, true, false⟩ ∧ TlbEntry.pa ⟨0, 16, 0, true, false⟩ 0 / 64 = 0 ∧
    open0.ncLine 0 0 = none ∧ open0.memHeld 0 = false ∧ open0.trackFree i0 = true ∧
    open0.memOk (masterTen (open0.tenOf 0)) (64 * 0) 64 true = true ∧ State.reset.canIssue i0 = false ∧
    (dirty open0).ncLine 0 0 = some ⟨5, true, false, true, true⟩ ∧ Memory.wf (dirty open0).mem.bytes = true ∧
    SMap.wf (dirty open0).mem.blz = true ∧ ((dirty open0).stack (stackOfLine 0)).state ≠ stFailed ∧
    (dirty open0).memOk (masterTen ((dirty open0).tenOf 0)) (64 * 0) 64 true = true ∧
    (dirty (readyStacks run0)).memOk (masterTen 0) (64 * 0) 64 true = false ∧
    (dirty (readyStacks run0)).memHeld (64 * 0) = false ∧ SMap.wf ((dirty (readyStacks run0)).core 0).nc = true ∧
    (run0.core 0).tlb = [] ∧ run0.ncLine 0 0 = none ∧ ((run0.core 0).nc.all fun p => !p.2.dirty) = true := by
  decide +kernel

/-- Tenancy 0's tables: a level-1 table at 4 KiB, a level-2 table at 8 KiB, and its leaf at 0. -/
def tabled (s : State) : State := poke (poke ((readyStacks s).setReg 0x500 (1 + 4096)) 4096 8 (1 + 8192)) 8192 8 7

/-- A descriptor of one row of 64 bytes within the core's own store, and one of two rows. -/
def desc1 : DmaDesc := ⟨.f, 0, 0, 0, 4096, 0, 0, 1, 64, 64, 64, 9, false, 0, 0, false, false, false, false, 0, false⟩
def desc2 : DmaDesc := { desc1 with rows := 2, started := true }

/-- Core 0 with these descriptors queued. -/
def queued (s : State) (ds : List DmaDesc) : State := s.modImg 0 fun m => { m with dma := { descs := ds } }

/-- No room for a request at the router of core 0; and a stream and a DMA unit whose RESUME waits for its walk. -/
def crowded (s : State) : State := { s with noc := { s.noc with
  packets := [⟨7, .data (.other 1 0 (.site 0) (.site 1) 4), 1, 4, none, none, []⟩]
  branches := [⟨7, s.siteOf 0, 0, [], 4, [⟨.north, [20], 0⟩]⟩] } }
def rewalks : State := (tabledOff run0).modImg 0 fun m =>
  { m with f := { m.f with state := .suspended, page := some ⟨0, true⟩, heldResume := true }
           dma := { descs := [{ desc2 with suspended := true }], suspended := true, resume := true, page := some ⟨0, true⟩ } }

theorem witness_TranslationWalksFillOrSuspend : State.reset.canIssue ⟨0, .b⟩ = false ∧ (tabled run0).canIssue i0 = true ∧
    resKind ((tabled run0).translate 0 (some .f) 0 true) = 0 ∧ resKind (run0.translate 0 (some .f) 0 true) = 1 ∧
    (run0.core 0).res.isSome = true ∧ ((run0.dmaOf 0 0).descs.zipIdx.find? fun p => p.1.started && !p.1.suspended) = none ∧
    (((queued run0 [desc1, desc2]).dmaOf 0 0).descs.zipIdx.find? fun p => p.1.started && !p.1.suspended) = some (desc2, 1) ∧
    run0.resident 0 0 = true ∧ resKind ((queued (tabled run0) [desc2]).translate 0 (some .f) 0 true false) = 0 ∧
    resKind ((queued run0 [desc2]).translate 0 (some .f) 0 true false) = 1 ∧
    resKind ((queued (tabledOff run0) [desc2]).translate 0 (some .f) 0 true false) = 3 ∧
    resKind ((tabledOff run0).translate 0 (some .f) 0 true) = 3 ∧ (tabledOff run0).canIssue i0 = true ∧
    resKind ((crowded (tabled run0)).translate 0 (some .f) 0 true) = 3 ∧ (crowded run0).canInject 0 1 = false ∧
    (rewalks.stream i0).state = .suspended ∧ (rewalks.stream i0).heldResume = true ∧ rewalks.resident 0 0 = true ∧
    (rewalks.core 0).img.dma.suspended = true ∧ (rewalks.core 0).img.dma.resume = true ∧
    State.reset.resident (State.reset.tenOf 0) 0 = false ∧ (run0.core 0).img.dma.suspended = false ∧ run0.tenOf 0 < 4 ∧
    ((tabled run0).walk 0 0 true).1 = .ok ⟨0, 30, 0, true, false⟩ ∧ ((tabled run0).core 0).lookup 0 true = none := by
  decide +kernel

/-- The 64 bytes at core-store address 64 as a descriptor that copies one 16-byte row to 4096; as one to space 3; and as
one that waits on an object that is not the tenancy's. -/
def goodDesc : Nat := 4096 * 2 ^ 64 + 16 * 2 ^ 160
def stored (x : Nat) (s : State) : State := s.modImg 0 fun m => { m with store := m.store.write 64 (leBytes 64 x) }
def issue1 : State := stored goodDesc run0
def bytesAt (s : State) : Nat := leNat ((s.core 0).img.store.read 64 64)

theorem witness_TransfersAreIssued : issue1.ready i0 ∧ marked0.ready i0 ∧ (marked0.sval i0 1).bz = true ∧
    ((issue1.sval i0 4).bz || (issue1.core 0).img.storeMark 64 64) = false ∧
    (decide ((issue1.sval i0 4).val.toNat % 64 = 0) && decide (64 + 64 ≤ 2 ^ 21)) = true ∧
    decide ((issue1.sval i0 1).val.toNat % 64 = 0) = false ∧
    (dmaReservedOk (bytesAt issue1) && (readDesc i0 (bytesAt issue1)).shapeOk) = true ∧
    issue1.descAllowed 0 (readDesc i0 (bytesAt issue1)) = true ∧
    (dmaReservedOk (bytesAt run0) && (readDesc i0 (bytesAt run0)).shapeOk) = false ∧
    (stored (goodDesc + 2 ^ 351) run0).ready i0 ∧
    (dmaReservedOk (goodDesc + 2 ^ 351) && (readDesc i0 (goodDesc + 2 ^ 351)).shapeOk) = true ∧
    (stored (goodDesc + 2 ^ 351) run0).descAllowed 0 (readDesc i0 (goodDesc + 2 ^ 351)) = false ∧
    (issue1.core 0).img.dma.descs.length < 8 ∧ (queued issue1 (List.replicate 8 desc1)).ready i0 ∧
    8 ≤ ((queued issue1 (List.replicate 8 desc1)).core 0).img.dma.descs.length ∧ (issue1.flq 0 0).reqs.length < 64 ∧
    ((queued issue1 [desc1]).core 0).img.dma.descs.any (fun d => d.stream == i0.stream) = true ∧
    (issue1.core 0).img.dma.descs.any (fun d => d.stream == i0.stream) = false := by
  simp only [ready_iff]; decide +kernel
theorem witness_Transfers_full_queue : 64 ≤ ((run0.modFlq 0 0 fun _ =>
    { reqs := List.replicate 64 (readReq 0) }).flq 0 0).reqs.length := by decide +kernel

/-- `dacc` with its address in s1, its meta word in s2 and its completion counter in s3. -/
def dacc0 (s : State) : State := s.modStream i0 fun t => { t with sregs := [(1, plain 256), (2, plain (2 ^ 16)), (3, plain 0),
  (4, plain (2 ^ 63))] }
theorem witness_Transfers_deliveries : (dacc0 open0).ready i0 ∧ (((dacc0 open0).sval i0 1).bz || ((dacc0 open0).sval i0 3).bz) = false ∧
    ((dacc0 open0).sval i0 1).val.toNat % 256 = 0 ∧ bits 31 16 ((dacc0 open0).sval i0 2).val.toNat ≠ 0 ∧
    ((dacc0 open0).sval i0 2).val.toNat % 256 = 0 ∧ bits 31 16 ((dacc0 open0).sval i0 1).val.toNat = 0 ∧
    ((dacc0 open0).sval i0 1).val.toNat + 256 ≤ 2 ^ 48 ∧
    (bit 63 ((dacc0 open0).sval i0 3).val.toNat && !(dacc0 open0).inRange 0 0) = false ∧
    (bit 63 ((dacc0 open0).sval i0 4).val.toNat && !(dacc0 open0).inRange 0 0) = true ∧
    (dacc0 open0).trackFree i0 = true ∧
    (dacc0 open0).boomHeld 0 = false ∧ (dacc0 open0).canInject 0 3 = true ∧
    resKind ((dacc0 open0).translate 0 (some .f) 256 true) = 0 ∧ resKind ((dacc0 run0).translate 0 (some .f) 256 true) = 1 ∧
    (dacc0 run0).ready i0 := by
  simp only [ready_iff]; decide +kernel

/-- The same with no tracker entry free, with a delivery held at its router, and with the router's buffer full. -/
def tracked0 : State := (dacc0 open0).setTrack i0 256
def jammed0 : State := { dacc0 open0 with noc := { (dacc0 open0).noc with
  packets := [⟨7, .data (.acc 0), 3, 5, none, none, []⟩]
  branches := [⟨7, (dacc0 open0).siteOf 0, 0, [], 4, [⟨.north, [20], 0⟩]⟩] } }
def boomed0 : State := { jammed0 with accMsgs := [⟨0, 0, 0, false, 1, false, 0, 0, 1, i0, true, 0, 0, false,
  some ((dacc0 open0).siteOf 0), 0, 0, none⟩] }
theorem witness_Transfers_deliveries_wait : tracked0.ready i0 ∧ tracked0.trackFree i0 = false ∧ boomed0.ready i0 ∧
    boomed0.trackFree i0 = true ∧ boomed0.boomHeld 0 = true ∧ boomed0.canInject 0 3 = false ∧ jammed0.ready i0 ∧ jammed0.trackFree i0 = true ∧
    jammed0.boomHeld 0 = false ∧ jammed0.canInject 0 3 = false := by simp only [ready_iff]; decide +kernel

/-- A core whose two descriptors run, one that waits first, and a unit that is suspended at address 0. -/
def dma1 : State := queued run0 [{ desc1 with waitEn := true }]
def dma2 : State := queued run0 [desc2, desc2, desc1]
def dma3 : State := (tabled run0).modImg 0 fun m =>
  { m with dma := { descs := [{ desc2 with suspended := true }, desc1], suspended := true, page := some ⟨0, true⟩ } }
def dma4 : State := run0.modImg 0 fun m => { m with dma := { descs := [desc1], suspended := true, page := some ⟨0, true⟩ } }
theorem witness_DmaUnitRunsDescriptors : (run0.core 0).res = some 0 ∧ (run0.core 0).switching = false ∧
    ((run0.core 0).img.dma.descs.zipIdx.find? fun p => !p.1.started) = none ∧
    (((queued run0 [desc1]).core 0).img.dma.descs.zipIdx.find? fun p => !p.1.started) = some (desc1, 0) ∧
    (!desc1.waitEn || desc1.waitMet) = true ∧ (dma2.core 0).res = some 0 ∧
    ((dma2.core 0).img.dma.descs.zipIdx.find? fun p => !p.1.started) = some (desc1, 2) ∧
    ((dma3.core 0).img.dma.descs.zipIdx.find? fun p => !p.1.started) = some (desc1, 1) ∧ (dma3.core 0).img.dma.suspended = true ∧
    ((dma1.core 0).img.dma.descs.zipIdx.find? fun p => !p.1.started) = some ({ desc1 with waitEn := true }, 0) ∧
    (!true || desc1.waitMet) = false ∧ desc1.waitSent = false ∧
    (((queued run0 [{ desc1 with waitEn := true, waitSent := true }]).core 0).img.dma.descs.zipIdx.find? fun p => !p.1.started) =
      some ({ desc1 with waitEn := true, waitSent := true }, 0) ∧
    (dma2.core 0).img.dma.descs[2]? = some desc1 ∧ (desc1.started && !desc1.suspended) = false ∧
    (dma2.core 0).img.dma.descs[1]? = some desc2 ∧ desc2.started = true ∧ desc2.suspended = false ∧
    desc2.srcSpace = spOwn ∧ desc2.dstSpace = spOwn ∧ desc2.row + 1 < desc2.rows ∧
    Memory.wf (dma2.core 0).img.store = true ∧ (dma2.core 0).img.dma.suspended = false ∧
    (dma3.core 0).img.dma.page = some ⟨0, true⟩ ∧ resKind (dma3.translate 0 (some .f) 0 true false) = 0 ∧
    ((dma3.core 0).img.dma.descs.find? DmaDesc.suspended).map DmaDesc.stream = some .f ∧
    resKind (rewalks.translate 0 (some .f) 0 true false) = 3 ∧
    resKind (dma4.translate 0 none 0 true false) = 1 ∧ (dma4.core 0).img.dma.suspended = true := by decide +kernel
/-- Multicast group 0 of tenancy 0 with core 0 alone, at 6 MiB; Flume engine 0 open to all. -/
def grouped (s : State) : State :=
  (((poke s (6 * 2 ^ 20) 128 (1 + 2 ^ 647)).setReg 0x4C8 (6 * 2 ^ 20)).setReg (0x1_0000 + 0x400 * 40)
    (2 ^ 63 + 2 ^ 57 + 2 ^ 56)).setReg (0x1_0000 + 0x400 * 40 + 8) (2 ^ 40 - 1)

/-- Core 0 is allocated to tenancy 0. -/
def alloc0 (s : State) : State := s.modCore 0 fun k => { k with alloc := 4 }

/-- One row of 64 bytes of shard 0 to address 0 of core 0. -/
def req1 : FlumeReq := ⟨0, 0, 1, 64, 0, 0, 0, 0, 0, 0, 0, 0, false, 0, false, false, 0, false⟩

def flume0 : State := alloc0 (grouped shard0)
def flumeQ (q : FlumeQueue) : State := flume0.modFlq 0 0 fun _ => q
def run1 : FlumeRun := ⟨0, 0, 0, req1, 2 ^ 23, 7, [0], [2 ^ 15], [], [], 0, []⟩
def runDone : FlumeRun := { run1 with left := [], units := [(2 ^ 15, List.replicate 256 1)] }
def capRun : FlumeRun := { runDone with req := { req1 with capMode := 2, capStream := 1 } }
def del1 : FlumeDelivery := ⟨0, 0, 0, [], [], false⟩
def flumeR (r : FlumeRun) : State := { flume0 with flume := { flume0.flume with runs := [r], deliveries := [del1] } }

/-- Tenancy 1 has a unit to read too, and its queue's turn is next. -/
def turns0 : State := { flumeR run1 with flume := { (flumeR run1).flume with
  runs := [run1, { run1 with id := 1, ten := 1 }], turns := [(0, (0, [0, 0, 0, 0]))] } }
/-- A row of tenancy 0 is ready for core 0, where no tenancy is resident; its queue has a further request. -/
def away0 : State := ((flumeR runDone).modFlq 0 0 fun _ => { reqs := [req1] }).modCore 0 fun k => { k with res := none }
theorem witness_Flume_away : away0.flAway 0 0 = true ∧ (flumeQ { reqs := [req1] }).flAway 0 0 = false ∧
    (away0.flq 0 0).reqs.head? = some req1 := by decide +kernel
theorem witness_FlumeEngineRunsRequests : (flumeQ {}).flq 0 0 = {} ∧ ((flumeQ { faulted := true }).flq 0 0).faulted = true ∧
    ((flumeQ { reqs := [req1] }).flq 0 0).reqs.head? = some req1 ∧ ((flumeQ { reqs := [req1] }).flq 0 0).faulted = false ∧
    (req1.waitEn && flume0.inRange 0 0 && !false) = false ∧ flume0.flHeld 0 req1 = false ∧
    (flumeQ { reqs := [req1] }).startCase 0 0 req1 = (0, 0) ∧
    (flumeQ { reqs := [{ req1 with shard := 2 }] }).startCase 0 0 { req1 with shard := 2 } = (2, codeAccess) ∧
    (flumeQ { reqs := [{ req1 with srcOff := 193 }] }).startCase 0 0 { req1 with srcOff := 193 } ≠ (0, 0) ∧
    ((flume0.setReg syncBase (2 ^ 12)).inRange 0 63 && !(false : Bool)) = true ∧
    (State.modStack flume0 0 fun k => { k with state := stTraining }).flHeld 0 req1 = true ∧
    (flumeR run1).flNext 0 0 = some (run1, 2 ^ 15) ∧ (flumeR run1).flTurn 0 = some (0, [1, 0, 0, 0]) ∧
    (State.modStack (flumeR run1) 0 fun k => { k with state := stTraining }).flTurn 0 = none ∧
    (flumeR runDone).flNext 0 0 = none ∧ turns0.flNext 0 0 = some (run1, 2 ^ 15) ∧ turns0.flTurn 0 = some (1, [0, 1, 0, 0]) ∧
    (flumeR runDone).flume.deliveries[1]? = none ∧ (flumeR runDone).flume.deliveries[0]? = some del1 ∧
    (flumeR runDone).flRun 0 = some runDone ∧
    ((flumeR runDone).resident 0 0 && decide (0 < req1.rows) && !NSet.has del1.got 0 && runDone.rowReady 0 &&
      !(flumeR runDone).earlierRow runDone 0 0 && !(flumeR runDone).rowOnWay runDone 0 0) = true ∧
    run1.rowReady 0 = false ∧ capRun.req.capMode = 2 ∧
    capAgrees (((flumeR capRun).imageOf 0 0).cap 0) 0 7 = false ∧ capRun.rowReady 0 = true ∧
    bit 0 (((flumeR capRun).capMismatch 0 0 0 0).reg 0x400) = false ∧
    bit 0 ((((flumeR capRun).setReg 0x400 1).capMismatch 0 0 0 0).reg 0x400) = true := by decide +kernel

/-- Captures on their way to their stack, one of which signals. -/
def slots0 : State := { flume0 with flume := { flume0.flume with
  slots := [⟨0, 0, 0, 7, 0, 0, none⟩, ⟨0, 0, 0, 7, 0, 0, some 5⟩] } }
def slots1 : State := { flume0 with flume := { flume0.flume with slots := [⟨0, 0, 0, 7, 0, 0, some 5⟩] } }
theorem witness_Flume_slots : slots0.flume.slots[2]? = none ∧ slots0.flume.slots[0]? = some ⟨0, 0, 0, 7, 0, 0, none⟩ ∧
    slots0.flume.slots[1]? = some ⟨0, 0, 0, 7, 0, 0, some 5⟩ ∧
    slots0.recordWaits 0 ⟨0, 0, 0, 7, 0, 0, none⟩ = false ∧ slots0.recordWaits 1 ⟨0, 0, 0, 7, 0, 0, some 5⟩ = true ∧
    slots1.flume.slots[0]? = some ⟨0, 0, 0, 7, 0, 0, some 5⟩ ∧ slots1.recordWaits 0 ⟨0, 0, 0, 7, 0, 0, some 5⟩ = false := by
  decide +kernel

/-- A delivery to block 0 that names its core, from a window of 1 MiB at the start of stack 0. -/
def acc1 : AccDelivery := ⟨0, 0, 0, false, 1, false, 0, 0, 1, i0, true, 0, 0, false, none, 0, 0, none⟩
def acc0 : State := { (open0.setReg (memBase 0 + 0x300) (2 ^ 16 + 2 ^ 28)) with accMsgs := [acc1, { acc1 with bz := true }] }
def shard1 : State := { (sharded (openWindow run0)).setReg (memBase 0 + 0x300) (2 ^ 16 + 2 ^ 28) with accMsgs := [acc1] }

theorem witness_AccumulateDeliveriesAreTreated : acc0.accMsgs[2]? = none ∧ acc0.accMsgs[0]? = some acc1 ∧
    acc0.accWaits 0 acc1 = false ∧ acc0.accWaits 1 { acc1 with bz := true } = true ∧ (acc0.stack (stackOf 0)).state ≠ stFailed ∧ stackOf 0 < 8 ∧
    ((acc0.modStack 0 fun k => { k with state := stFailed }).stack 0).state = stFailed ∧
    (acc0.modStack 0 fun k => { k with state := stFailed }).accWaits 0 acc1 = false ∧
    acc0.memOk (masterTen 0) 0 256 true = true ∧ (readyStacks run0).memOk (masterTen 0) 0 256 true = false ∧
    (readyStacks run0).memHeld 0 = false ∧ open0.treatment acc1 false = .outside ∧ Memory.wf acc0.mem.bytes = true ∧
    SMap.wf acc0.mem.counts = true ∧ acc0.accWindow 0 = some false := by decide +kernel
theorem witness_Accumulate_treatments : shard1.treatment acc1 false = .add ∧ shard1.treatment acc1 true = .reseed ∧
    shard1.treatment { acc1 with bz := true } false = .excluded ∧ acc1.named = true ∧
    (poke shard1 (2 ^ 22 + 4 * 11) 4 (2 ^ 24)).treatment acc1 false = .frozen := by decide +kernel

/-- An acknowledgement of a done delivery, and one of a denied one. -/
def done1 : DaccAck := ⟨i0, 0, 0, 1, false, 640, 0⟩
def acks0 : State := { acc0 with accAcks := [done1, { done1 with denied := true }] }
def acks1 : State := { acc0 with accAcks := [{ done1 with denied := true }] }
theorem witness_Accumulate_acks : acks0.accAcks[2]? = none ∧ acks0.accAcks[0]? = some done1 ∧ acks0.ackWaits 0 done1 = false ∧
    acks0.accAcks[1]? = some { done1 with denied := true } ∧ acks0.ackWaits 1 { done1 with denied := true } = true ∧
    acks1.accAcks[0]? = some { done1 with denied := true } ∧ acks1.ackWaits 0 { done1 with denied := true } = false := by
  decide +kernel
/-! ### Witnesses: synchronisation and sequencers -/

/-- s1 names object 5, s2 is 1; a Y-class instruction on them; one with a remote operation. -/
def sy0 : SyOp := ⟨1, 2, 3, false, 0, 0⟩
def syRemote : SyOp := { sy0 with rop := 1 }
def syRel : SyOp := { sy0 with rel := true }

/-- The device has number 1, tenancy 0 a job tag, and peer 2 an entry with port 0, which is up. -/
def linked (s : State) : State :=
  ((poke (((s.setReg fabBase (1 + 2 ^ 16)).setReg (fabBase + 0x20) (2 ^ 16)).setReg (fabBase + 0x10) (2 ^ 25))
    (2 ^ 25 + 64) 32 (2 ^ 56 + 2 ^ 57 + 2 ^ 55)).modPort 0 fun _ => { up := true })

/-- The same with port F0 open in both directions, and open to collectives. -/
def peered (s : State) : State :=
  ((((linked s).setReg (0x1_0000 + 0x400 * 60) (2 ^ 63 + 2 ^ 57 + 2 ^ 56)).setReg (0x1_0000 + 0x400 * 60 + 8)
    (2 ^ 40 - 1)).setReg (0x1_0000 + 0x400 * 56) (2 ^ 63 + 2 ^ 57 + 2 ^ 56)).setReg (0x1_0000 + 0x400 * 56 + 8) (2 ^ 40 - 1)

/-- How a send ends: 0 it is sent, 1 denied, 2 no route. -/
def sentKind : Sent → Nat
  | .ok _ => 0
  | .denied _ => 1
  | .noRoute => 2

/-- s1 names object 5 of peer 2. -/
def remote0 (f : State → State) : State := f (withScalars (plain (2 * 2 ^ 32 + 5)) (plain 1) (plain 0) (plain 0))
/-- Peer 2 is LOST. -/
def lostPeer (s : State) : State := { s with fab := { s.fab with peers := [(2, { lost := 1 })] } }

/-- Core 0 with as many of its messages on their way as the control plane takes, and one whose stream F has a pause to
take. -/
def opF : SyncOp := ⟨.waiter (.stream i0), 0, 1, 5, 3, none, false, false, 0, none⟩
def full1 : State := { run0 with sync := { ops := List.replicate 16 opF } }
def asked0 : State := run0.modStream i0 fun t => { t with pauseReq := true }
theorem witness_SyncInstructionsSend : run0.ready i0 ∧ marked0.ready i0 ∧ (1 : BitVec 4) ≠ 0 ∧ sy0.rop = 0 ∧
    (syRemote.rop.toNat ∈ [1, 2, 4, 6, 8]) ∧ ¬ (sy0.rop.toNat ∈ [1, 2, 4, 6, 8]) ∧
    ((marked0.sval i0 1).bz || (marked0.sval i0 2).bz) = true ∧ ((run0.sval i0 1).bz || (run0.sval i0 2).bz) = false ∧
    syRel.rel = true ∧ (run0.setNotice i0 true).ready i0 ∧ (run0.setNotice i0 true).fenceBusy i0 = true ∧
    ((syRel.rel && run0.fenceBusy i0) || run0.planeFull 0) = false ∧ full1.ready i0 ∧ full1.planeFull 0 = true ∧
    (run0.stream i0).pauseReq = false ∧ asked0.ready i0 ∧ (asked0.stream i0).pauseReq = true ∧ asked0.planeFull 0 = false := by
  simp only [ready_iff]; decide +kernel
/-- As many messages of core 0 on their way as the control plane takes. -/
def fullPlane (s : State) : State := { s with sync := { s.sync with ops := List.replicate 16 opF } }
theorem witness_SyncInstructions_remote : (remote0 peered).ready i0 ∧ ((remote0 peered).peer 2).lost = 0 ∧
    bits 47 32 ((remote0 peered).sval i0 1).val.toNat = 2 ∧ (remote0 peered).devNum.isSome = true ∧
    ((remote0 peered).jobTag 0).isSome = true ∧ ((remote0 peered).peerEntry 2).valid = true ∧
    (remote0 peered).expressRoute 2 = some 0 ∧ (remote0 peered).sendOk 0 (((remote0 peered).peerEntry 2).port 0) 2 = true ∧
    (remote0 linked).ready i0 ∧ (remote0 linked).expressRoute 2 = some 0 ∧
    (remote0 linked).sendOk 0 (((remote0 linked).peerEntry 2).port 0) 2 = false ∧
    (remote0 fun s => (peered s).modPort 0 fun _ => {}).expressRoute 2 = none ∧
    (remote0 fun s => (peered s).modPort 0 fun _ => {}).ready i0 ∧
    ((remote0 fun s => (peered s).modPort 0 fun _ => {}).peerEntry 2).valid = true ∧
    ((remote0 peered).peerEntry 3).valid = false ∧ (run0.devNum).isNone = true ∧
    ((remote0 peered).planeFull 0 || (remote0 peered).cut ((remote0 peered).msgEntry (.rmt 0))) = false ∧
    (fullPlane (remote0 peered)).ready i0 ∧ (fullPlane (remote0 peered)).planeFull 0 = true ∧
    ((fullPlane (remote0 peered)).peerEntry 2).valid = true ∧
    (lostPeer (remote0 peered)).ready i0 ∧ ((lostPeer (remote0 peered)).peer 2).lost ≠ 0 := by
  simp only [ready_iff]; decide +kernel

/-- Operations at the banks of a device where tenancy 0 owns objects 0 to 63, with bank 0 open: an add of 3 to counter 5,
for which one stream waits for 4 and one for 3; an earlier message of the same issuer first. -/
def op1 : SyncOp := ⟨.session 0, 0, 1, 5, 3, none, false, false, 0, none⟩
def cancel1 : SyncOp := ⟨.waiter (.stream i0), 0, 3, 5, 4, none, true, false, 0, none⟩
def reg1 : SyncReg := ⟨.stream i0, 0, 5, 3, 4, 0⟩
def reg2 : SyncReg := ⟨.stream ⟨1, .f⟩, 0, 5, 3, 3, 0⟩
def bank0 (ops : List SyncOp) (regs : List SyncReg) : State :=
  { (((run0.setReg syncBase (2 ^ 12)).setReg (0x1_0000 + 0x400 * 8) (2 ^ 63 + 2 ^ 57 + 2 ^ 56)).setReg (0x1_0000 + 0x400 * 8 + 8)
    (2 ^ 40 - 1)) with sync := { objs := [(5, ⟨0, 0, 0⟩)], regs := regs, ops := ops } }

theorem witness_SyncBankPerformsOperations : (bank0 [op1] [reg1, reg2]).sync.ops[1]? = none ∧
    (bank0 [op1] [reg1, reg2]).sync.ops[0]? = some op1 ∧ (bank0 [op1] [reg1, reg2]).opWaits 0 op1 = false ∧
    (bank0 [op1, op1] []).opWaits 1 op1 = true ∧ (bank0 [cancel1] [reg1]).opWaits 0 cancel1 = false ∧ (bank0 [op1] [reg1, reg2]).refusal op1 op1.bz = 0 ∧
    (bank0 [op1] []).refusal op1 true = codeBlazeBite ∧ 262144 ≤ (262144 : Nat) ∧
    (bank0 [op1] []).inRange 0 63 = true ∧ (bank0 [op1] []).inRange 0 64 = false ∧
    (bank0 [{ op1 with obj := 64 }] []).refusal { op1 with obj := 64 } false = codeAccess ∧
    (bank0 [cancel1] [reg1]).sync.ops[0]? = some cancel1 ∧ cancel1.cancel = true ∧
    (bank0 [cancel1] [reg1]).registration cancel1 (.stream i0) = some reg1 ∧
    (bank0 [cancel1] [reg2]).registration cancel1 (.stream i0) = none := by
  decide +kernel

/-- A wake for stream F, which waits for it, and one for the DMA unit. -/
def wakeF : SyncWakeMsg := ⟨.stream i0, 0, 5, 4, false, 1, .value⟩
def wakeD : SyncWakeMsg := ⟨.dma 0, 0, 5, 4, false, 1, .value⟩
def wake0 (st : SeqState) : State :=
  { (run0.modStream i0 fun t => { t with state := st, wait := some ⟨3, 5, 4, 7, none, .sent⟩ }) with
    sync := { wakes := [wakeF, wakeD] } }
/-- Sixteen messages of the same bank's stop before a wake. -/
def wakesHeld : State := { wake0 .running with sync := { wakes :=
  ((List.range 16).map fun k => { wakeF with id := k + 2 }) ++ [wakeD] } }
theorem witness_SyncBank_wakes : (wake0 .running).sync.wakes[2]? = none ∧
    (wake0 .running).sync.wakes[0]? = some wakeF ∧ (wake0 .running).wakeWaits 0 wakeF = false ∧
    (wake0 .running).wakeWaits 1 wakeD = false ∧ wakesHeld.sync.wakes[16]? = some wakeD ∧ wakesHeld.wakeWaits 16 wakeD = true ∧
    (wake0 .running).staleWake 0 wakeF = false ∧ ((wake0 .running).core 0).res = some 0 ∧
    ((wake0 .running).stream i0).wait = some ⟨3, 5, 4, 7, none, .sent⟩ ∧ ((wake0 .running).stream i0).state = .running ∧
    ((wake0 .paused).stream i0).state ≠ .running ∧
    (wake0 .running).sync.wakes[1]? = some wakeD ∧ (wake0 .running).staleWake 1 wakeD = false ∧
    State.staleWake { wake0 .running with sync := { (wake0 .running).sync with
      ops := [⟨.waiter (.dma 0), 0, 3, 5, 4, none, true, false, 0, none⟩] } } 1 wakeD = false ∧
    State.staleWake { wake0 .running with sync := { (wake0 .running).sync with
      ops := [⟨.waiter (.dma 0), 0, 3, 5, 4, none, false, false, 0, none⟩] } } 1 wakeD = true := by decide +kernel
/-- A cancellation and a refusal that come to stream F, which waits at the object. -/
def answer0 (k : WakeKind) : State := { wake0 .running with sync := { wakes := [{ wakeF with kind := k }] } }
theorem witness_SyncBank_answers : (answer0 (.cancelled none)).sync.wakes[0]? = some { wakeF with kind := .cancelled none } ∧
    (answer0 (.cancelled none)).wakeWaits 0 { wakeF with kind := .cancelled none } = false ∧
    (answer0 (.cancelled none)).staleWake 0 { wakeF with kind := .cancelled none } = false ∧
    ((answer0 (.cancelled none)).takeWake 0 { wakeF with kind := .cancelled none }).waitsOn 0 i0 5 = true ∧
    (answer0 (.refused 8)).sync.wakes[0]? = some { wakeF with kind := .refused 8 } ∧
    (answer0 (.refused 8)).wakeWaits 0 { wakeF with kind := .refused 8 } = false ∧
    (answer0 (.refused 8)).staleWake 0 { wakeF with kind := .refused 8 } = false ∧
    ((answer0 (.refused 8)).takeWake 0 { wakeF with kind := .refused 8 }).waitsOn 0 i0 5 = true := by decide +kernel

/-- Stream F of core 0 in a state. -/
def inState (f : Stream → Stream) : State := run0.modStream i0 f
theorem witness_SequencerControl : State.reset.coreLive 0 = false ∧ run0.coreLive 0 = true ∧ run0.coreLive 639 = false ∧
    ((inState fun t => { t with state := .idle }).stream i0).state = .idle ∧
    (inState fun t => { t with state := .idle }).coreLive 0 = true ∧
    ((inState fun t => { t with state := .suspended, page := some ⟨0, true⟩ }).stream i0).state = .suspended ∧
    ((inState fun t => { t with state := .suspended, page := some ⟨0, true⟩ }).stream i0).page = some ⟨0, true⟩ ∧
    resKind ((tabled (inState fun t => { t with state := .suspended })).translate 0 (some .f) 0 true) = 0 ∧
    (run0.stream i0).state ≠ .suspended ∧ (run0.stream i0).waiting = false ∧ (run0.stream i0).wait = none ∧
    ((inState fun t => { t with state := .paused }).stream i0).fromSuspended = false ∧
    ((inState fun t => { t with state := .paused, fromSuspended := true }).stream i0).fromSuspended = true ∧
    ((inState fun t => { t with state := .paused, fromSuspended := true }).stream i0).heldResume = false ∧
    ((inState fun t => { t with pauseReq := true }).stream i0).pauseReq = true ∧ (run0.stream i0).pauseReq = false ∧
    ((inState fun t => { t with pauseReq := true }).stream i0).state = .running ∧ (run0.stream i0).pendingFault = none ∧
    (run0.stream i0).midInstr = false ∧ ((inState fun t => { t with state := .sliced }).stream i0).state = .sliced ∧
    faultCodes.contains (codeAccess : Nat) = true ∧ faultCodes.contains (0 : Nat) = false ∧
    resKind (State.translate (inState fun t => { t with state := .suspended }) 0 (some .f) 0 true) = 1 ∧
    (rewalks.stream i0).page = some ⟨0, true⟩ ∧ rewalks.coreLive 0 = true ∧ resKind (rewalks.translate 0 (some .f) 0 true) = 3 ∧
    ((wake0 .running).stream i0).wait = some ⟨3, 5, 4, 7, none, .sent⟩ ∧
    (SMap.get [] run0.faultQ (run0.tenOf 0)).length < 1024 ∧ (wake0 .running).coreLive 0 = true ∧
    ((wake0 .running).stream i0).wait.isSome = true := by decide +kernel

/-- Core 0 with its array as given. -/
def arrayed (f : ArrayState → ArrayState) : State := run0.modCore 0 fun k => { k with arr := f k.arr }
/-- Core 0 with its shim on at LEVEL 192 (the reset value), its array as given. -/
theorem witness_InterleaveShimsAndClocks : State.reset.coreLive 0 = false ∧ run0.coreLive 0 = true ∧
    (run0.core 0).arr.slot ≠ 15 ∧ ((arrayed fun a => { a with slot := 15 }).core 0).arr.slot = 15 ∧
    (arrayed fun a => { a with slot := 15 }).coreLive 0 = true ∧ run0.coreCount ≤ 640 ∧ 639 < run0.coreCount ∧
    (run0.core 0).img.slotCycles ≤ ((arrayed fun a => { a with slotUsed := 64 }).core 0).arr.slotUsed ∧
    run0.shimOn 0 = true ∧ quiet0.shimOn 0 = false ∧ (run0.core 0).arr.cap < run0.shimLevel 0 ∧
    run0.shimLevel 0 ≤ ((arrayed fun a => { a with cap := 192 }).core 0).arr.cap ∧ (run0.core 0).arr.gap = true ∧
    (run0.core 0).arr.horizonPassed = true ∧ ((arrayed fun a => { a with horizonPassed := false }).core 0).arr.gap = true ∧
    ((arrayed fun a => { a with horizonPassed := false }).core 0).arr.horizonPassed = false ∧
    ((arrayed fun a => { a with gap := false }).core 0).arr.gap = false ∧ (run0.core 0).arr.left = 0 ∧
    (run0.core 0).arr.slotUsed < (run0.core 0).img.slotCycles ∧
    run0.rampPeriod 0 - 0 ≤ ((arrayed fun a => { a with gap := false, cap := 256, work := [(false, 10000)] }).core 0).arr.needs 192 true ∧
    ((arrayed fun a => { a with gap := false }).core 0).arr.needs 192 true < run0.rampPeriod 0 - 0 ∧ (run0.core 0).freq ≠ 1800 ∧
    (run0.core 0).freq = 1600 := by decide +kernel
/-! ### Witnesses: mesh, ring, Boom and the stacks -/

/-- Nodes, outputs and messages of a device that is not started: site 0 has no north; a stop has the ring. -/
def noc0 : State := { acc0 with
  accMsgs := [acc1]
  sync := { ops := [op1], wakes := [wakeD] }
  flume := { deliveries := [del1] } }
/-- How a hop of the delivery from site 0 over its spur ends: 0 it cannot be, 1 blocked, 2 it leaves, 3 it does not enter. -/
def hopKind (s : State) : Nat :=
  match s.entered (.data (.acc 0)) (s.pktEntry (.acc 0)) (.site 0) with
  | none => 3
  | some u => match u.hop (.data (.acc 0)) (.site 0) (.spur 0) with
    | .no => 0
    | .blocked => 1
    | .go _ _ _ => 2
/-- The same with the buffers of the stop full, with those of the site's own port full, and with an older packet of the
channel at the output. -/
def fullAt (node port came : Nat) : State := { noc0 with noc := { noc0.noc with
  packets := [⟨1, .data (.other 3 9 (.site 0) (.site 1) 4), 3, 4, none, none, []⟩]
  branches := [⟨1, node, port, [], came, [⟨.spur 0, [], 0⟩]⟩]
  nextId := 2 } }
theorem witness_HopsForwardMarkOrHalt : (noc0.nodeUp (.site 0) && noc0.hasOut (.site 0) .east) = true ∧
    (noc0.nodeUp (.site 0) && noc0.hasOut (.site 0) .north) = false ∧
    (noc0.nodeUp (.stop 23) && noc0.hasOut (.stop 23) .ringCw) = true ∧
    (State.nodeUp { noc0 with noc := { halted := [(0, ())] } } (.site 0)) = false ∧
    (noc0.nodeUp (.site 0) && noc0.hasOut (.site 0) (.spur 0)) = true ∧
    noc0.untreated (.site 0) (.data (.acc 0)) = false ∧ hopKind noc0 = 2 ∧ hopKind (fullAt 640 1 4) = 1 ∧
    hopKind (fullAt 0 0 4) = 3 ∧ hopKind (fullAt 0 1 4) = 0 ∧ del1 ∈ noc0.flume.deliveries ∧
    mark0 0 false 1 ∈ tally0.tally.msgs ∧ (mark0 0 false 1).id = 1 ∧
    noc0.siteOf del1.core ∈ [0] ∧ op1 ∈ noc0.sync.ops ∧ wakeD ∈ noc0.sync.wakes := by decide +kernel
theorem witness_Hops_untreated : State.untreated { noc0 with accMsgs := [{ acc1 with ctx := 9 }] } (.site 0) (.data (.acc 0)) = true := by
  decide +kernel

/-- Contributions with a reduction identifier, and site 0 holding a context for them: empty, its counts full, or all 64
contexts taken by others. -/
def red1 : AccDelivery := { acc1 with ctx := 9, k := 2 }
def boom0 (d : AccDelivery) (cs : SMap BoomCtx) : State := { open0 with accMsgs := [d], noc := { ctxs := [(0, cs)] } }
def others0 : SMap BoomCtx := (List.range 64).map fun k => (k, ⟨{ red1 with ctx := 10 }, false⟩)
/-- Delivery 0 as it enters at site 0: is it there whole, and with which context, of which K, would it merge? -/
def inside0 (d : AccDelivery) (s : State) : List Nat :=
  match s.entered (.data (.acc d.id)) (s.pktEntry (.acc d.id)) (.site 0) with
  | none => []
  | some v => (v.accAt 0 d).toNat :: (match v.mergeCtx 0 d with | none => [] | some p => [p.1, p.2.d.k])
/-- The same delivery with its flits on a link still. -/
def coming0 : State := { boom0 red1 [] with noc := { (boom0 red1 []).noc with
  packets := [⟨1, .data (.acc 0), 3, 4, none, none, []⟩], branches := [⟨1, 0, 4, [], 3, [⟨.spur 0, [], 0⟩]⟩], nextId := 2 } }
/-- No room for the delivery at its own router, which another packet of the local port fills. -/
def outside0 : State := { boom0 red1 [] with noc := { (boom0 red1 []).noc with
  packets := [⟨1, .data (.other 3 9 (.site 0) (.site 1) 4), 3, 4, none, none, []⟩]
  branches := [⟨1, 0, 0, [], 4, [⟨.spur 0, [], 0⟩]⟩], nextId := 2 } }
/-- An eligible context 3 of site 0, and how its first flit leaves: 0 it cannot yet, 1 blocked, 2 it leaves. -/
def left1 : BoomCtx := ⟨{ red1 with passedAt := some 0 }, true⟩
def leaver (packets : List NetPacket) (branches : List Branch) : State := { open0 with noc := {
  ctxs := [(0, [(3, left1)])], nextId := 5, packets := packets, branches := branches } }
def leaves0 (s : State) : Nat :=
  match (s.leaving 0 3 left1.d).hop (.data (.acc s.noc.nextId)) (.site 0) (s.firstOut (s.ctxEntry 0 left1.d)) with
  | .no => 0
  | .blocked => 1
  | .go _ _ _ => 2
theorem witness_Boom_arrives : inside0 red1 outside0 = [] ∧ inside0 red1 coming0 = [0] ∧
    inside0 red1 (boom0 red1 [(3, ⟨red1, false⟩)]) = [1, 3, 2] ∧
    inside0 red1 (boom0 red1 [(3, ⟨{ red1 with k := 65534 }, false⟩)]) = [1] ∧
    inside0 red1 (boom0 red1 [(3, ⟨{ red1 with k := 65533 }, false⟩)]) = [1, 3, 65533] ∧
    inside0 red1 (boom0 red1 []) = [1] ∧
    inside0 { red1 with bz := true } (boom0 { red1 with bz := true } []) = [1] ∧
    inside0 red1 (boom0 red1 others0) = [1] := by decide +kernel
theorem witness_Boom_leaves : leaves0 (leaver [] []) = 2 ∧ SMap.get? ((leaver [] []).ctxs 0) 3 = some left1 ∧
    leaves0 (leaver [⟨1, .data (.other 3 9 (.site 0) (.site 1) 4), 3, 4, none, none, []⟩] [⟨1, 640, 1, [], 4, [⟨.spur 0, [], 0⟩]⟩]) = 1 ∧
    leaves0 (leaver [⟨1, .data (.other 3 9 (.site 0) (.site 1) 4), 3, 4, none, none, []⟩] [⟨1, 0, 1, [], 4, [⟨.spur 0, [], 0⟩]⟩]) = 0 := by
  decide +kernel
theorem witness_BoomMergesAndLeaves : (boom0 red1 []).accMsgs[1]? = none ∧ (boom0 red1 []).accMsgs[0]? = some red1 ∧
    acc1.ctx = 0 ∧ red1.ctx ≠ 0 ∧ (boom0 red1 []).nodeUp (.site 0) = true ∧ (boom0 red1 []).nodeUp (.site 640) = false ∧
    freeCtx (freeKey red1 ((boom0 red1 []).ctxs 0)) = some 0 ∧
    freeCtx (freeKey red1 ((boom0 red1 others0).ctxs 0)) = none ∧ bit 10 ((boom0 red1 others0).reg (nocBase + 0x10)) = true ∧
    bit 10 (((boom0 red1 others0).setReg (nocBase + 0x10) 0).reg (nocBase + 0x10)) = false ∧
    SMap.get? ((boom0 red1 []).ctxs 0) 3 = none ∧
    SMap.get? ((boom0 red1 [(3, ⟨red1, true⟩)]).ctxs 0) 3 = some ⟨red1, true⟩ ∧
    ((⟨red1, true⟩ : BoomCtx).eligible && (boom0 red1 []).nodeUp (.site 0)) = true ∧
    ((⟨red1, false⟩ : BoomCtx).eligible && (boom0 red1 []).nodeUp (.site 0)) = false := by decide +kernel

/-- Stack 0 with a state, and with changes to it. -/
def inStack0 (f : Stack → Stack) : State := open0.modStack 0 f
theorem witness_LinesAreReadAndWritten : 8 ≤ stackOf (2 ^ 39) ∧ State.reset.memHeld 0 = true ∧ stackOf (2 ^ 39 - 1) < 8 ∧
    open0.memHeld 0 = false ∧ open0.issuerMaster (.session 0) = some 64 ∧ (readyStacks run0).memHeld 0 = false ∧
    (readyStacks run0).memOk 64 0 64 false = false ∧ (readyStacks run0).memOk 64 0 64 true = false ∧
    open0.memOk 64 0 64 true = true ∧ Memory.wf open0.mem.bytes = true ∧ SMap.wf open0.mem.blz = true ∧
    (open0.stack 0).state ≠ stFailed ∧ ([1, 2] : List Byte).take (64 - 0 % 64) ≠ [] ∧
    ([] : List Byte).take (64 - 0 % 64) = [] ∧ ((inStack0 fun k => { k with state := stFailed }).stack 0).state = stFailed ∧
    (inStack0 fun k => { k with state := stFailed }).memHeld 0 = false ∧
    (inStack0 fun k => { k with state := stFailed }).memOk 64 0 64 true = true := by decide +kernel
/-- A flit of zeros with its CRC, and with another. -/
def flit0 (crc : Nat) : List Byte := List.replicate 70 0 ++ leBytes 2 crc
theorem witness_StackLinks_flits : ((flit0 0).length = 72 ∧ crc16 ((flit0 0).take 70) = leNat ((flit0 0).drop 70)) ∧
    ¬ ((flit0 1).length = 72 ∧ crc16 ((flit0 1).take 70) = leNat ((flit0 1).drop 70)) := by decide +kernel
/-- The usual check value of the CRC of polynomial 0x8BB7, of the nine digits' bytes (PRESUMED, log entry 125). -/
theorem test_crc16 : crc16 ([0x31, 0x32, 0x33, 0x34, 0x35, 0x36, 0x37, 0x38, 0x39].map (BitVec.ofNat 8)) = 0xD0DB := by decide +kernel
theorem witness_StackLinksReplayAndRetrain : (open0.stack 0).state = stReady ∧ (open0.stack 7).state = stReady ∧
    (open0.stack 0).state ≠ stRetraining ∧ (open0.stack 0).state ≠ stFailed ∧ (State.reset.stack 0).state ≠ stReady ∧
    (open0.stack 0).crcFails < 8 ∧ 8 ≤ ((inStack0 fun k => { k with crcFails := 8 }).stack 0).crcFails ∧
    ((inStack0 fun k => { k with state := stRetraining, retrainFails := 2 }).stack 0).state = stRetraining ∧
    2 ≤ ((inStack0 fun k => { k with state := stRetraining, retrainFails := 2 }).stack 0).retrainFails ∧
    ((inStack0 fun k => { k with state := stRetraining, retrainFails := 1 }).stack 0).retrainFails < 2 ∧
    ((inStack0 fun k => { k with state := stRetraining, oneShot := true }).stack 0).oneShot = true ∧
    ((inStack0 fun k => { k with state := stFailed }).stack 0).state = stFailed := by decide +kernel

/-- A Cruise pass over lines 0 to 2 of stack 0, and its window. -/
def cruise0 : State := inStack0 fun k => { k with cruise := { state := 1, limit := 2 } }
def cruiseEnd (l : Nat) (abort : Bool) : State := inStack0 fun k =>
  { k with cruise := { state := 1, next := l, limit := 2, abort := abort } }
theorem witness_ScarfCruiseAndWindows : bit 63 (2 ^ 63 : Word).toNat = true ∧ (open0.stack 0).scarfResult ≠ 1 ∧
    ((inStack0 fun k => { k with scarfResult := 1 }).stack 0).scarfResult = 1 ∧ (open0.stack 0).adding = none ∧
    ((inStack0 fun k => { k with adding := some 16 }).stack 0).adding = some 16 ∧ (open0.stack 0).cruise.state ≠ 1 ∧
    bits 38 6 (open0.reg (memBase 0 + 0x200)) ≤ bits 38 6 (open0.reg (memBase 0 + 0x208)) ∧
    bits 38 6 (open0.reg (memBase 0 + 0x208)) / 2 ^ 30 = 0 ∧
    bits 38 6 ((open0.setReg (memBase 0 + 0x200) 64).reg (memBase 0 + 0x200)) = 1 ∧ (cruise0.stack 0).cruise.state = 1 ∧
    bit 0 (cruise0.reg (memBase 0 + 0x218)) = false ∧ (cruise0.stack 0).state = stReady ∧
    (open0.stack 0).linkDown = false ∧ ((cruise0.modStack 0 fun k => { k with state := stRetraining }).stack 0).linkDown = true ∧
    ((cruise0.modStack 0 fun k => { k with state := stRetraining }).stack 0).cruise.state = 1 ∧
    (cruise0.stack 0).cruise.abort = false ∧ (cruise0.stack 0).cruise.next < (cruise0.stack 0).cruise.limit ∧
    (cruise0.stack 0).cruise.fix = false ∧ (cruiseEnd 2 false).memHeld 0 = false ∧
    ((cruiseEnd 2 false).stack 0).cruise.next = ((cruiseEnd 2 false).stack 0).cruise.limit ∧
    ((cruiseEnd 3 false).stack 0).cruise.limit < ((cruiseEnd 3 false).stack 0).cruise.next ∧
    ((cruiseEnd 0 true).stack 0).cruise.abort = true ∧ bit 0 ((cruiseEnd 0 true).reg (memBase 0 + 0x218)) = false ∧
    winFits (((List.range 8).filter (· ≠ 0)).map fun j => open0.reg (memBase 0 + 0x300 + 8 * j)) (2 ^ 28 + 2 ^ 16) = true ∧
    open0.reg (memBase 0 + 0x300) ≠ 2 ^ 28 + 2 ^ 16 ∧
    winFits [2 ^ 28 + 2 ^ 16] (2 ^ 28 + 2 ^ 16) = false ∧ (open0.stack 0).clear = none ∧
    ((inStack0 fun k => { k with clear := some ⟨0, 1⟩ }).stack 0).clear = some ⟨0, 1⟩ ∧
    Memory.wf open0.mem.bytes = true ∧ (acc0.accWindow (256 * (0 * 2 ^ 28 + 0 + 0 / 256))).isSome = true := by
  decide +kernel
/-! ### Witnesses: fabric and collectives -/

/-- Device 1, peered with device 2; a frame from it. -/
def fab0 : State := peered run0
def hbFrame : FabFrame := { frame0 with recs := [.heartbeat 2 5] }
/-- Peer 2 silent, its path resent twice; the port down. -/
def fab1 : State := { fab0 with fab := { fab0.fab with
  paths := [(pathKey 2 0 false, { unacked := [⟨0, 0, 0, none, [], []⟩], resends := 2, expect := 5 })] } }

/-- A frame from device 2 that reads, one whose bytes do not, and one of another EtherType. -/
theorem witness_Fabric_frames : readFrame (sent hbFrame) = some hbFrame ∧ readFrame (List.replicate 29 0) = none ∧
    (fab0.countFec 0 0 0).devNum = some 1 ∧ hbFrame.etherType = (fab0.countFec 0 0 0).field (fabBase + 8) 15 0 ∧
    (fab0.countFec 0 0 0).routeBy 2 0 = some 0 ∧ (fab0.countFec 0 0 0).routeBy 3 0 = none ∧
    (run0.modPort 0 fun _ => { up := true }).devNum = none ∧
    ({ hbFrame with etherType := 0 }).etherType ≠ (fab0.countFec 0 0 0).field (fabBase + 8) 15 0 ∧
    readFrame (sent { hbFrame with etherType := 0 }) = some { hbFrame with etherType := 0 } := by decide +kernel
theorem witness_FabricPathsAndLinks : (fab0.port 0).up = true ∧ (fab0.port 1).up = false ∧ fab0.devNum = some 1 ∧
    (run0.devNum = none) ∧ hbFrame.etherType = fab0.field (fabBase + 8) 15 0 ∧ hbFrame.ver = 1 ∧ hbFrame.dstDev = 1 ∧
    ({ hbFrame with dstDev := 2 }).dstDev ≠ 1 ∧ fab0.routeBy 2 0 = some 0 ∧ fab0.routeBy 3 0 = none ∧ frame0.recs = [] ∧
    hbFrame.recs ≠ [] ∧ hbFrame.seq = ((fab0.takeAck 2 0 false 0).path (pathKey 2 0 false)).expect ∧
    (fab0.takeAck 2 0 false 0).grantsFull hbFrame = false ∧
    ({ hbFrame with seq := 4 }).seq ≠ ((fab1.takeAck 2 0 false (2 ^ 32 - 1)).path (pathKey 2 0 false)).expect ∧
    acked ((fab1.takeAck 2 0 false (2 ^ 32 - 1)).path (pathKey 2 0 false)).expect 4 = true ∧
    acked ((fab1.takeAck 2 0 false (2 ^ 32 - 1)).path (pathKey 2 0 false)).expect 6 = false ∧
    (fab1.path (pathKey 2 0 false)).unacked ≠ [] ∧ (fab1.peer 2).lost = 0 ∧ (fab1.peer 2).failed 0 = false ∧
    fab1.retryLimit ≤ 7 ∧ (fab1.path (pathKey 2 0 false)).resends = 2 ∧ fab0.peerReady 2 = true ∧ fab0.peerReady 3 = false ∧
    bit 63 (2 ^ 63 + 2 : Word).toNat = true ∧ bit 63 (2 : Word).toNat = false ∧ SMap.wf fab0.fab.peers = true ∧
    (decide (1 < 14) && !(fab0.port 1).up && (fab0.setReg (fabBase + 0x108) 1).portMay 1 false) = true ∧
    (decide (0 < 14) && !(fab0.port 0).up && fab0.portMay 0 false) = false := by decide +kernel
/-- Every place for early grants of engine 0 taken, and a frame that brings one more; what may be sent. -/
def grantFrame : FabFrame := { frame0 with recs := [.grant 1 1 9 0 0 0 0] }
def grants64 : State := { fab0 with fab := { fab0.fab with
  grants := List.replicate 64 ⟨0, 0, 2, .grant 1 1 9 0 0 0 0⟩ } }
theorem witness_Fabric_grants_and_senders : (grants64.takeAck 2 0 false 0).grantsFull grantFrame = true ∧
    grantFrame.seq = ((grants64.takeAck 2 0 false 0).path (pathKey 2 0 false)).expect ∧ grantFrame.recs ≠ [] ∧
    ((fab0.sendWaiting false).maySend 2 && (fab0.sendWaiting false).routeUsable 2 0) = true ∧
    ((run0.sendWaiting false).maySend 2 && (run0.sendWaiting false).routeUsable 2 0) = false ∧ run0.devNum = none ∧ fab1.devNum.isSome = true ∧ fab0.routeUsable 2 0 = true := by decide +kernel
theorem witness_Fabric_limits : (fab1.path (pathKey 2 0 false)).resends < (fab1.setReg (fabBase + 0x18) (15 * 2 ^ 32)).retryLimit ∧
    (fab1.setReg (fabBase + 0x18) (2 * 2 ^ 32)).retryLimit ≤ (fab1.path (pathKey 2 0 false)).resends := by decide +kernel

/-! The peer table of `fab0` has one entry, that of peer 2. -/

theorem Memory.read_above (m : Memory) (a n : Nat) (h : ∀ p ∈ m, p.1 < a) : m.read a n = List.replicate n 0 := by
  have get0 : ∀ b, a ≤ b → m.get b = 0 := by
    intro b hb
    induction m with
    | nil => rfl
    | cons p m ih =>
      have hp := h p (List.mem_cons_self ..)
      have : p.1 ≠ b := by omega
      have : ¬ b < p.1 := by omega
      simp only [Memory.get, SMap.get, *, if_false]
      exact ih fun q hq => h q (List.mem_cons_of_mem _ hq)
  clear h
  induction n generalizing a with
  | zero => rfl
  | succ n ih => rw [Memory.read, List.replicate_succ, get0 a (Nat.le_refl _), ih (a + 1) fun b hb => get0 b (by omega)]

theorem fab0_memory : (∀ p ∈ fab0.mem.bytes, p.1 < 64 * (2 ^ 19 + 2)) ∧ fab0.mem.errs = [] ∧ fab0.mem.blz = [] ∧
    fab0.mem.dram = [] ∧ fab0.mem.areas = [] ∧ bits 38 18 (fab0.reg (fabBase + 0x10)) * 2 ^ 18 = 2 ^ 25 := by decide +kernel

theorem table_lineView {s : State} (hm : s.mem = fab0.mem) (l : Nat) (h : 2 ^ 19 + 2 ≤ l) :
    s.lineView l = (List.replicate 64 0, false) := by
  obtain ⟨hb, he, hz, hs, ha, _⟩ := fab0_memory
  have h1 : s.lineBytes l = List.replicate 64 0 := by
   rw [State.lineBytes, hm, ha]
   exact Memory.read_above _ _ _ (by
    intro p hp
    have := hb p hp
    omega)
  have h2 : s.lineErrs l = [] := by simp only [State.lineErrs, hm, he, SMap.get]
  have h3 : s.decoded l = .clean := by simp [State.decoded, decodeLine, h2, hm, hz, NSet.has, SMap.get?]
  have h4 : (s.stack (stackOfLine l)).state ≠ stFailed := by simp only [State.stack, hm, hs, SMap.get]; decide
  simp only [State.lineView, if_neg h4, h1, h2, h3]
  rfl

theorem table_peerEntry {s : State} (hm : s.mem = fab0.mem) (hr : s.regs = fab0.regs) (d : Nat) (h : 4 ≤ d) :
    (s.peerEntry d).valid = false := by
  have hu : unitsOf 64 (2 ^ 25 + 32 * d) 32 = [2 ^ 19 + d / 2] := by
    have h1 : (2 ^ 25 + 32 * d + 32 - 1) / 64 + 1 - (2 ^ 25 + 32 * d) / 64 = 1 := by omega
    have h2 : (2 ^ 25 + 32 * d) / 64 = 2 ^ 19 + d / 2 := by omega
    unfold unitsOf
    rw [if_neg (by decide), h1, h2]
    simp
  have hn : s.memNat (2 ^ 25 + 32 * d) 32 = 0 := by
    have h32 : (2 ^ 25 + 32 * d) % 64 = 0 ∨ (2 ^ 25 + 32 * d) % 64 = 32 := by omega
    simp only [State.memNat, State.memBytes, hu, List.map_cons, List.map_nil,
      table_lineView hm _ (show 2 ^ 19 + 2 ≤ 2 ^ 19 + d / 2 by omega)]
    rcases h32 with h | h <;> rw [h] <;> decide +kernel
  have hreg : s.reg (fabBase + 0x10) = fab0.reg (fabBase + 0x10) := by simp only [State.reg, hr]
  unfold State.peerEntry
  rw [hreg, fab0_memory.2.2.2.2.2, hn]
  decide

theorem range_four (n : Nat) : List.range (n + 4) = 0 :: 1 :: 2 :: 3 :: List.range' 4 n := by
  rw [List.range_eq_range']; rfl

theorem fab0_first_entries : (fab0.peerEntry 0).valid = false ∧ (fab0.peerEntry 1).valid = false ∧
    (fab0.peerEntry 2).valid = true ∧ (fab0.peerEntry 2).hb = true := by decide +kernel

theorem witness_Fabric_silence : fab0.hbPeers.contains 2 = true ∧ fab0.devNum.isSome = true ∧ fab0.peerReady 2 = true := by
  refine ⟨?_, by decide +kernel, by decide +kernel⟩
  obtain ⟨h0, h1, h2, h3⟩ := fab0_first_entries
  have hf : (List.range 8192).filter (fun d => let e := fab0.peerEntry d; e.valid && e.hb) =
      2 :: (3 :: List.range' 4 8188).filter (fun d => let e := fab0.peerEntry d; e.valid && e.hb) := by
    rw [range_four 8188, List.filter_cons_of_neg (by simp [h0]), List.filter_cons_of_neg (by simp [h1]),
      List.filter_cons_of_pos (by simp [h2, h3])]
  rw [State.hbPeers, hf, List.take_succ_cons, List.contains_cons, beq_self_eq_true, Bool.true_or]

/-- `fab0` with its port down, and without the peer's entry. -/
def fabDown : State := fab0.modPort 0 fun _ => {}

theorem no_routes_above (port : Nat) : (List.range' 4 8188).flatMap (fun d => if (fabDown.peer d).lost ≠ 0 then [] else
    (List.range 2).filterMap fun r => if fabDown.routeLeft d r && (fabDown.peerEntry d).port r == port then some (d, r) else none)
    = [] := by
  rw [List.flatMap_eq_nil_iff]
  intro d hd
  have h4 : 4 ≤ d := (List.mem_range'_1.1 hd).1
  have hv : (fabDown.peerEntry d).valid = false := table_peerEntry (by rfl) (by rfl) d h4
  have hl (r : Nat) : fabDown.routeLeft d r = false := by simp [State.routeLeft, hv]
  simp [hl]

theorem witness_Fabric_routes : fabDown.routesOf 0 = [(2, 0)] ∧ fabDown.routesOf 5 = [] ∧ (fabDown.port 0).up = false ∧
    fabDown.devNum.isSome = true ∧ (fabDown.peer 2).lost = 0 ∧ (fabDown.port 5).up = false := by
  refine ⟨?_, ?_, by decide +kernel⟩ <;>
  · rw [State.routesOf, range_four 8188]
    rw [List.flatMap_cons, List.flatMap_cons, List.flatMap_cons, List.flatMap_cons, no_routes_above]
    decide +kernel

/-! ### Witnesses: fabric records and collectives -/

/-- A record of peer 2 in the path of route 0. -/
def rxOf (r : FabRec) : RxRec := ⟨2, 0, false, 0, 0, 0, r, 0⟩
def gotten (s : State) (r : FabRec) : State := { s with fab := { s.fab with rx := [rxOf r] } }

/-- A running all-gather of devices 1 and 2, and a Sort-yard member. -/
def coll1 : CollDesc := ⟨1, 0, false, 2, 0, 0, 7, 0, 0, 0, 256, 0, false, 0, false, 0, 0, false, 0, 0, 0, false⟩
def run2 : CollRun := { eng := 0, ten := 0, slot := 0, desc := coll1, members := [1, 2], pages := [] }
def run5 : CollRun := { run2 with desc := { coll1 with op := 5, recvCount := 0 } }
def runBusy : CollRun := { run2 with desc := { coll1 with bytes := 512 } }
def running (r : CollRun) : State := { fab0 with fab := { fab0.fab with runs := [r] } }

/-- Is a record the next of its path? -/
def isNext (s : State) : Bool := (s.takeRx 0).isSome

theorem witness_FabricRecordsArePerformed : fab0.takeRx 0 = none ∧ isNext (gotten fab0 (.sync 1 5 false 3)) = true ∧
    (1 : Nat) ∈ [1, 2, 4, 6, 8] ∧ (3 : Nat) ∉ [1, 2, 4, 6, 8] ∧ isNext (gotten (running run2) (.grant 1 4 7 0 1 0 0)) = true ∧
    (running run2).runOf 0 0 7 = some run2 ∧ fab0.runOf 0 0 7 = none ∧
    (fab0.fab.puts.filter fun p => p.eng == 0).length < 16 ∧ fab0.aclOk (56 + 0) (masterPeer 0) 2 false = true ∧
    (linked run0).aclOk (56 + 0) (masterPeer 0) 2 false = false ∧ (fab0.mapRange 0 0 (putExtent 256 false) true).2 = none ∧
    ((tabled fab0).mapRange 0 0 (putExtent 256 false) true).2.isSome = true ∧
    fab0.rangeHeld (fab0.engHeld 0) 0 0 (putExtent 256 false) true = false ∧
    (tabled fab0).rangeHeld ((tabled fab0).engHeld 0) 0 0 (putExtent 256 false) true = false ∧
    (tabledOff fab0).rangeHeld ((tabledOff fab0).engHeld 0) 0 0 (putExtent 256 false) true = true ∧
    (0x10 : Nat) ∈ faultCodes ∧ (0 : Nat) ∉ faultCodes ∧ fab0.waitsToStart 0 0 7 = false ∧
    fab0.fab.puts.find? (fun p => p.eng == 0 && p.ten == 0 && p.peer == 2 && p.collId == 7) = none := by decide +kernel
theorem witness_Fabric_full_puts : 16 ≤ ((List.replicate 16
    (⟨0, 0, 2, 7, 0, 0, false, 0, false, [], 0, []⟩ : PutCtx)).filter fun p => p.eng == 0).length := by
  decide +kernel

/-- How data is taken: 0 done, 1 denied, 2 held. -/
def dataKind : DataRes → Nat
  | .done _ => 0
  | .denied _ => 1
  | .held => 2

/-- A put of peer 2 into page 0, mapped, whose stack is ready; and in training. -/
def put0 (s : State) : State := { tabled s with fab := { s.fab with
  puts := [⟨0, 0, 2, 7, 0, 256, false, 0, false, [(0, 0)], 1, []⟩] } }
theorem witness_Fabric_data :
    dataKind (fab0.takeData (rxOf (.data false true 0 7 0 [])) false true 0 7 0 (List.replicate 256 1)) = 0 ∧
    dataKind ((State.modStack (put0 fab0) 0 fun k => { k with state := stTraining }).takeData
      (rxOf (.data false true 0 7 0 [])) false true 0 7 0 (List.replicate 256 1)) = 2 := by decide +kernel

/-- A queue of engine 0 with one descriptor of zeros, at 32 MiB. -/
def ce0 (q : CollQueue) : State := (((readyStacks fab0).setReg (ceReg 0 0 0) (2 ^ 39 + 2 ^ 26)).setReg (ceReg 0 0 1) 1).modCeq 0 0
  fun _ => q
/-- The same with a descriptor that waits on object 5. -/
def ceWait (q : CollQueue) : State := poke ((ce0 q).setReg syncBase (2 ^ 12)) (2 ^ 26) 128 (5 * 2 ^ 384 + 2 ^ 415)
/-- The same with an ABORT kept for descriptor 0; with tables, and with a shard map, at stack 1, in training. -/
def ceAbort : State := { ce0 {} with fab := { (ce0 {}).fab with aborts := [⟨0, 0, 2, .abort 0x10 2 0⟩] } }
def off1 (s : State) : State := ((s.setReg 0x500 (1 + 2 ^ 36)).setReg 0x4C0 (2 ^ 36)).modStack 1 fun k => { k with state := stTraining }
def run6 : CollRun := { run5 with shards := [(0, ())] }
def heldShards (s : State) : Bool := match (s.pump run6).runAt 0 0 0 with
  | some r => (r.moves.foldl (fun m v => NSet.add m v.srcShard) r.shards).any fun x => (s.pump run6).engHeld 0 ((s.pump run6).shard x.1).pa
  | none => false
theorem witness_Collective_aborts_and_holds : (ce0 {}).waitsToStart 0 0 0 = true ∧ (ce0 {}).runOf 0 0 0 = none ∧
    (ceAbort.keptAbort 0 0 0).isSome = true ∧ ((ce0 {}).keptAbort 0 0 0).isSome = false ∧
    ceAbort.startHeld 0 0 (readColl 0) (ceAbort.collMaps 0 (readColl 0)).2 = false ∧
    (off1 ceAbort).engHeld 0 ((off1 ceAbort).cePa 0 0 0) = false ∧
    (off1 ceAbort).startHeld 0 0 { readColl 0 with n := 1 } ((off1 ceAbort).collMaps 0 { readColl 0 with n := 1 }).2 = true ∧
    heldShards (off1 (running run6)) = true ∧ heldShards (readyStacks (running run6)) = false := by decide +kernel
theorem witness_CollectiveQueuesRunDescriptors : bit 39 (fab0.reg (ceReg 0 0 0)) = false ∧
    bit 39 ((ce0 {}).reg (ceReg 0 0 0)) = true ∧ ((ce0 {}).ceq 0 0).cons ≠ (ce0 {}).ceProd 0 0 ∧
    ((ce0 {}).ceq 0 0).faulted = false ∧ ((ce0 {}).fab.runs.filter fun r => r.eng == 0 && r.ten == 0).length < 8 ∧
    (ce0 {}).engHeld 0 ((ce0 {}).cePa 0 0 0) = false ∧
    (ce0 {}).startHeld 0 0 (readColl 0) ((ce0 {}).collMaps 0 (readColl 0)).2 = false ∧ (ce0 {}).memMark ((ce0 {}).cePa 0 0 0) 128 = false ∧
    (readColl ((ce0 {}).memNat ((ce0 {}).cePa 0 0 0) 128)).waitEn = false ∧
    (readColl ((ceWait {}).memNat ((ceWait {}).cePa 0 0 0) 128)).waitEn = true ∧ (ceWait {}).inRange 0 5 = true ∧
    ((ceWait { waitSent := true }).ceq 0 0).waitSent = true ∧
    ((ce0 {}).collCase 0 0 (readColl 0) false ((ce0 {}).collMaps 0 (readColl 0)).2).isSome = true ∧
    fab0.runAt 0 0 0 = none ∧ (running run2).runAt 0 0 0 = some run2 ∧
    (((running run2).pump run2).runAt 0 0 0).isSome = true ∧ run2.desc.op ≠ 5 ∧ run5.desc.op = 5 ∧
    ((ce0 { faulted := true, atStart := true }).ceq 0 0).faulted = true ∧
    ((((running run5).pump run5).runAt 0 0 0).map fun r => ((running run5).pump run5).runDone r) = some true ∧
    ((((running run2).pump run2).runAt 0 0 0).map fun r => ((running run2).pump run2).runDone r) = some true ∧
    ((((running runBusy).pump runBusy).runAt 0 0 0).map fun r => ((running runBusy).pump runBusy).runDone r) = some false := by
  decide +kernel

/-! ### Witnesses: hosts -/

/-- A datagram of a kind for session 0 with TOKEN 0, EPOCH 0, and no inline data; with a wrong CHECK; of EPOCH 1. -/
def pltBytes (kind records epoch seq : Nat) (rest : List Byte) : List Byte :=
  withCheck (leBytes 1 (1 + 16 * kind) ++ leBytes 1 records ++ [0, 0] ++ leBytes 4 epoch ++ leBytes 6 seq ++
    leBytes 6 0 ++ leBytes 4 0 ++ leBytes 2 0 ++ [0, 0, 0, 0, 0, 0] ++ rest)
def dgram (bs : List Byte) : Datagram := { datagram0 with dstUdp := 47164, bytes := bs }
def zeros (n : Nat) : List Byte := List.replicate n 0

/-- H0 is up with IPv4 and IPv6 address 0; stacks are ready, the transport accepts, and session 0 is OPEN. -/
def port0 (s : State) : State := ((readyStacks s).setReg (hostBase + 0x210) (2 ^ 32 + 2 ^ 33)).modPort 12 fun _ => { up := true }
/-- A state with a host port up whose counts of codewords have been kept once, so that a frame without errors leaves it. -/
def withHost (h : HostState) : State := State.countFec { port0 run0 with host := h } 12 0 0
def open1 : HostState := { accepting := true, sessions := [(0, { state := 1 })] }
def host0 : State := withHost open1

def ackBytes : List Byte := pltBytes 5 0 0 0 []
def nopBytes (seq : Nat) : List Byte := pltBytes 2 1 0 seq (zeros 64)

theorem witness_DatagramsAreJudged : host0.accepts (dgram ackBytes) = true ∧ run0.accepts (dgram ackBytes) = false ∧
    host0.accepts { dgram ackBytes with dstUdp := 47165 } = false ∧ pltOk ackBytes = true ∧ pltOk (0 :: ackBytes) = false ∧
    pltOk (ackBytes.set 28 7) = false ∧ pltKind ackBytes = 5 ∧ (5 : Nat) ≠ 2 ∧ host0.known ackBytes = true ∧
    (port0 run0).known ackBytes = false ∧ pltEpoch ackBytes = host0.host.epoch ∧
    pltEpoch (pltBytes 5 0 1 0 []) ≠ host0.host.epoch ∧ pltOk (pltBytes 5 0 1 0 []) = true ∧ pltSession ackBytes = 0 := by
  decide +kernel
theorem witness_Datagrams_answered : pltOk (pltBytes 8 0 0 0 []) = true ∧ pltKind (pltBytes 8 0 0 0 []) = 8 ∧
    (host0.valid (dgram (pltBytes 8 0 0 0 []))).sessionBusy 0 = false ∧
    SMap.wf (host0.valid (dgram (pltBytes 8 0 0 0 []))).host.sessions = true ∧
    State.sessionBusy (State.valid (withHost { open1 with cmds := [{ session := 0, seq := 1, bytes := [], data := [] }] })
      (dgram (pltBytes 8 0 0 0 []))) 0 = true ∧ pltOk (pltBytes 6 1 0 0 (zeros 64)) = true ∧
    pltKind (pltBytes 6 1 0 0 (zeros 64)) = 6 ∧ pltOk (nopBytes 1) = true ∧ pltKind (nopBytes 1) = 2 ∧
    pltRecords (nopBytes 1) = 1 ∧ (recordOf (nopBytes 1) 0).seq = ((host0.valid (dgram (nopBytes 1))).session 0).next ∧
    (recordOf (nopBytes 2) 0).seq ≠ ((host0.valid (dgram (nopBytes 2))).session 0).next ∧
    (recordOf (nopBytes 1) 0).wellFormed (pltPayload (nopBytes 1)) = true ∧
    (recordOf (pltBytes 2 1 0 1 (0x0B :: zeros 63)) 0).wellFormed 0 = false ∧
    (host0.valid (dgram (nopBytes 1))).journalDown = false ∧
    (host0.valid (dgram (nopBytes 1))).journalFull (recordOf (nopBytes 1) 0) = false ∧
    (State.valid (withHost { open1 with accepting := false }) (dgram (nopBytes 1))).journalDown = true := by
  decide +kernel

/-- An admission table at 64 MiB that admits every source to tenancy 0 with MANAGER. -/
def admitting (s : State) : State := poke (s.setReg (hostBase + 0x40) (2 ^ 26)) (2 ^ 26) 32 (2 ^ 136 + (0x81) * 2 ^ 144)
theorem witness_Datagrams_codewords : host0.countFec 12 0 0 = host0 ∧ (admitting host0).countFec 12 0 0 = admitting host0 := by
  decide +kernel
def openBytes : List Byte := pltBytes 0 1 0 0 (zeros 64)
theorem witness_Datagrams_open : pltOk openBytes = true ∧ pltKind openBytes = 0 ∧ host0.recovery = false ∧
    (host0.memHeld host0.admitPa || host0.memHeld (host0.admitPa + 2047)) = false ∧
    (run0.memHeld run0.admitPa || run0.memHeld (run0.admitPa + 2047)) = true ∧
    ((admitting host0).touch (admitting host0).admitPa 2048).admission (sourceIp (dgram openBytes)) 0 = some true ∧
    (host0.touch host0.admitPa 2048).admission (sourceIp (dgram openBytes)) 0 = none ∧
    ((admitting host0).touch (admitting host0).admitPa 2048).freeSession = some 1 ∧
    State.recovery { host0 with boot := { host0.boot with result := 3 } } = true := by decide +kernel
theorem witness_Datagrams_no_session : State.freeSession { host0 with host := { host0.host with
    sessions := (List.range 64).map fun n => (n, { state := 1 }) } } = none := by decide +kernel
theorem witness_Datagrams_neighbours :
    (decide (0 < 2) && (host0.port 12).up && host0.v4On 0 && (0 == host0.ip4 0)) = true ∧
    (decide (0 < 2) && (host0.port 12).up && host0.v4On 0 && (1 == host0.ip4 0)) = false ∧
    (decide (0 < 2) && (host0.port 12).up && host0.v6On 0 && (0 == host0.ip6 0)) = true ∧
    (decide (0 < 2) && (host0.port 12).up && host0.v6On 0 && (1 == host0.ip6 0)) = false := by decide +kernel

/-- A command at dispatch of session 0, opened with MANAGER, with its record's bytes. -/
def cmdOf (bs : List Byte) : HostCmd :=
  { session := 0, seq := 1, bytes := bs ++ zeros (64 - bs.length), data := [], phase := .atDispatch }
def managed1 : HostState := { accepting := true, sessions := [(0, { state := 1, manager := true })] }
def atCmd (c : HostCmd) (h : HostState) : State := withHost { h with cmds := [c], dispatching := some (0, 1) }
def cfgAt (op addr v : Nat) : HostCmd := cmdOf ([BitVec.ofNat 8 op] ++ zeros 15 ++ leBytes 8 addr ++ leBytes 8 v)
/-- Where configuration space is open to sessions. -/
def cfgOpened (s : State) : State :=
  (s.setReg (0x1_0000 + 0x400 * 72) (2 ^ 63 + 2 ^ 57 + 2 ^ 56)).setReg (0x1_0000 + 0x400 * 72 + 8) (2 ^ 40 - 1)
def cfgCase (c : HostCmd) : State := cfgOpened (atCmd c managed1)

/-- CFG_READ of RING_TIME whose message the control plane has not taken: sixteen others stand before it. -/
def sent1 : HostCmd := { cfgAt 1 0xF000000700 0 with msg := 40, phase := .started }
def sent2 : HostCmd := { sent1 with msg := 1 }
def msgFree : State := withHost { managed1 with cmds := [sent2] }
def msgHeld : State := withHost { managed1 with cmds := (List.range 16).map (fun k => { sent1 with seq := k + 2, msg := k + 1 }) ++ [sent1] }

theorem witness_CommandsDispatchAct : (atCmd (cmdOf [0]) open1).cmdAt 0 1 = some (cmdOf [0]) ∧ (cmdOf [0]).opcode = 0 ∧
    (cmdOf [0]).phase = .atDispatch ∧ (atCmd (cmdOf [0]) open1).forbidden (cmdOf [0]) = false ∧
    State.forbidden { atCmd (cmdOf [0]) open1 with tenReset := [(0, ())] } (cmdOf [0]) = true ∧
    (atCmd { cmdOf [0] with phase := .waiting } open1).nextCmd 0 = some { cmdOf [0] with phase := .waiting } ∧
    (cfgCase (cfgAt 1 0xF000000700 0)).msgWaits (cfgAt 1 0xF000000700 0) = false ∧ msgHeld.msgWaits sent1 = true ∧
    sent1.phase = .started ∧ sent2.msg ≠ 0 ∧ msgFree.msgWaits sent2 = false ∧ sent2.cfgOff = some 0x700 ∧
    (cfgAt 1 5 0).opcode = 1 ∧ (cfgAt 1 5 0).cfgOff = none ∧ (cfgAt 1 0xF000000700 0).cfgOff = some 0x700 ∧
    (!(((cfgCase (cfgAt 1 0xF000000700 0)).begin (cfgAt 1 0xF000000700 0)).cfgReach (cfgAt 1 0xF000000700 0) 0x700) || false) = false ∧
    ((cfgCase (cfgAt 1 0xF000000700 0)).begin (cfgAt 1 0xF000000700 0)).cfgOpen (cfgAt 1 0xF000000700 0) 0x700 false = true ∧
    objectOf 0x700 = none ∧ (cfgAt 1 0xF005400050 0).cfgOff = some 0x5400050 ∧ objectOf 0x5400050 = some (5, false) ∧
    ((atCmd (cfgAt 1 0xF000000700 0) managed1).begin (cfgAt 1 0xF000000700 0)).cfgOpen (cfgAt 1 0xF000000700 0) 0x700 false = false ∧
    (!(((atCmd (cfgAt 1 0xF000000600 0) open1).begin (cfgAt 1 0xF000000600 0)).cfgReach (cfgAt 1 0xF000000600 0) 0x600) || false) = true := by
  decide +kernel
theorem witness_Commands_configure : (cfgAt 2 5 0).opcode = 2 ∧ (cfgAt 2 5 0).cfgOff = none ∧
    (cfgAt 2 0xF000000600 0).cfgOff = some 0x600 ∧
    (deviceGlobal 0x600 0 && !(cfgCase (cfgAt 2 0xF000000600 0)).authority (cfgAt 2 0xF000000600 0)) = true ∧
    (cfgCase (cfgAt 2 0xF000000600 0)).authority { cfgAt 2 0xF000000600 0 with held := true } = true ∧
    ((deviceGlobal 0x400 1 && !(cfgCase (cfgAt 2 0xF000000400 1)).authority (cfgAt 2 0xF000000400 1)) ||
      ((cfgCase (cfgAt 2 0xF000000400 1)).begin (cfgAt 2 0xF000000400 1)).cfgAway (cfgAt 2 0xF000000400 1) 0x400) = false ∧
    (!(((cfgCase (cfgAt 2 0xF000000400 1)).begin (cfgAt 2 0xF000000400 1)).cfgReach (cfgAt 2 0xF000000400 1) 0x400) || false) = false ∧
    (!(((atCmd (cfgAt 2 0xF000000408 1) open1).begin (cfgAt 2 0xF000000408 1)).cfgReach (cfgAt 2 0xF000000408 1) 0x408) || false) = true ∧
    ((atCmd (cfgAt 2 0xF000000400 1) managed1).begin (cfgAt 2 0xF000000400 1)).cfgOpen (cfgAt 2 0xF000000400 1) 0x400 true = false ∧
    ((cfgCase (cfgAt 2 0xF000000400 1)).begin (cfgAt 2 0xF000000400 1)).cfgOpen (cfgAt 2 0xF000000400 1) 0x400 true = true := by
  decide +kernel
/-- MEM_WRITE and MEM_READ of 16 bytes at physical address 0, at virtual address 0, and past the end of memory. -/
def memAt (op addr space : Nat) : HostCmd :=
  cmdOf ([BitVec.ofNat 8 op] ++ zeros 15 ++ leBytes 8 addr ++ leBytes 1 space ++ zeros 3)
def memCase (c : HostCmd) : State := openWindow (atCmd c managed1)
/-- Is a place found; or the code that says why not? -/
def placeOf (p : State × Except Nat RowPlace) : Option RowPlace × Nat :=
  match p.2 with
  | .ok x => (some x, 0)
  | .error code => (none, code)

theorem witness_Commands_memory : (memAt 3 0 1).opcode = 3 ∧ (memAt 3 0 1).len = 16 ∧
    placeOf (((memCase (memAt 3 0 1)).begin (memAt 3 0 1)).hostPlace (memAt 3 0 1) 16 true) = (some (.lines 0 [0]), 0) ∧
    (memCase (memAt 3 0 1)).memOk (masterSession 0) (64 * 0) 64 true = true ∧
    (memCase (memAt 3 0 1)).placeHeld (.lines 0 [0]) = false ∧ (memCase (memAt 3 0 1)).dataWaits (memAt 3 0 1) (.lines 0 [0]) = false ∧
    (readyStacks (atCmd (memAt 3 0 1) managed1)).memOk (masterSession 0) (64 * 0) 64 true = false ∧
    ((memCase (memAt 3 0 1)).modStack 0 fun k => { k with state := stTraining }).placeHeld (.lines 0 [0]) = true ∧
    ((memCase (memAt 4 0 0)).begin (memAt 4 0 0)).rangeHeld ((memCase (memAt 4 0 0)).begin (memAt 4 0 0)).memHeld 0 0 16 false = false ∧
    ((off1 (memCase (memAt 4 0 0))).begin (memAt 4 0 0)).rangeHeld ((off1 (memCase (memAt 4 0 0))).begin (memAt 4 0 0)).memHeld 0 0 16
      false = true ∧
    placeOf (((memCase (memAt 4 0 1)).begin (memAt 4 0 1)).hostPlace (memAt 4 0 1) 16 false) = (some (.lines 0 [0]), 0) ∧
    (memCase (memAt 4 0 1)).memOk (masterSession 0) (64 * 0) 64 false = true ∧
    placeOf (((memCase (memAt 3 (2 ^ 39 - 15) 1)).begin (memAt 3 (2 ^ 39 - 15) 1)).hostPlace (memAt 3 (2 ^ 39 - 15) 1) 16 true) =
      (none, codeAccess) ∧
    placeOf (((memCase (memAt 4 0 0)).begin (memAt 4 0 0)).hostPlace (memAt 4 0 0) 16 false) = (none, codePageFault) := by
  decide +kernel

/-- RUN of stream F of group 0, whose one core is allocated to the tenancy, with the stream IDLE and RUNNING. -/
def runCmd : HostCmd := cmdOf ([5] ++ zeros 15 ++ [0, 0, 1, 0])
def runCase (f : Stream → Stream) : State := (alloc0 (grouped (atCmd runCmd managed1))).modStream i0 f
def allowed0 (s : State) : Bool :=
  let g := (s.begin runCmd).mcast 0
  g.valid && g.ten == 0 && (maskCores g.mask).all (((s.begin runCmd).touch g.pa 128).allocated 0)
theorem witness_Commands_run : runCmd.opcode = 5 ∧ (runCase fun t => t).forbidden runCmd = false ∧
    allowed0 (runCase fun t => t) = true ∧ allowed0 (atCmd runCmd managed1) = false ∧
    runStreams ((runCase fun t => t).mcast 0).mask runCmd.streams = [i0] ∧
    (((runCase fun t => t).tenStream 0 i0).ran != .idle) = true ∧
    (((runCase fun t => { t with state := .idle }).tenStream 0 i0).ran != .idle) = false := by decide +kernel

/-- HRELEASE of handle 3, READY and EMPTY; the port semaphore free, held by session 0, and by session 1. -/
def relCmd : HostCmd := cmdOf [6, 8, 3]
def handled : HostState := { managed1 with sessions := [(0, { state := 1, manager := true, handles := [(3, { state := .ready })] })] }
theorem witness_Commands_handles_and_semaphore : relCmd.opcode = 6 ∧ (atCmd relCmd handled).forbidden relCmd = false ∧
    ((atCmd relCmd handled).handleOf 0 relCmd.handle).state = .ready ∧
    ((atCmd relCmd managed1).handleOf 0 relCmd.handle).state ≠ .ready ∧ (cmdOf [7]).opcode = 7 ∧ (cmdOf [8]).opcode = 8 ∧
    (managed1.lease.isSome && true) = false ∧ (atCmd (cmdOf [8]) managed1).managed (cmdOf [8]) = true ∧
    (atCmd (cmdOf [8]) open1).managed (cmdOf [8]) = false ∧
    ((atCmd (cmdOf [8]) { managed1 with lease := some 1 }).host.lease.isSome &&
      !(atCmd (cmdOf [8]) { managed1 with lease := some 1 }).holds (cmdOf [8])) = true ∧
    (atCmd (cmdOf [9]) { managed1 with lease := some 0 }).holds (cmdOf [9]) = true ∧
    (atCmd (cmdOf [10]) managed1).holds (cmdOf [10]) = false ∧ (cmdOf [9]).opcode = 9 ∧ (cmdOf [10]).opcode = 10 := by
  decide +kernel

/-- A waiting command: free to go; behind another at dispatch; behind a fence; one with its result; one that makes a handle
READY. -/
def waiting0 : HostCmd := { cmdOf [0] with phase := .waiting }
def fenced0 : HostCmd := { cmdOf [0, 4] with seq := 2, phase := .waiting }
def doneCmd : HostCmd := { cmdOf [4, 8, 3] with phase := .done, out := [1, 2] }
def doneCase : State := withHost { managed1 with
  cmds := [doneCmd], sessions := [(0, { state := 1, handles := [(3, { state := .pending, seq := 1 })] })] }
theorem witness_Commands_dispatch_and_completion :
    ((withHost { open1 with cmds := [waiting0] }).host.dispatching.isSome ||
      !(withHost { open1 with cmds := [waiting0] }).mayDispatch 0) = false ∧
    (withHost { open1 with cmds := [waiting0] }).depsDone waiting0 = true ∧
    ((withHost { open1 with cmds := [waiting0], hold := true }).host.dispatching.isSome ||
      !(withHost { open1 with cmds := [waiting0], hold := true }).mayDispatch 0) = true ∧
    (withHost { open1 with cmds := [{ cmdOf [0] with phase := .started }, fenced0] }).depsDone fenced0 = false ∧
    (withHost { open1 with cmds := [{ cmdOf [0] with phase := .started }, fenced0] }).nextCmd 0 = some fenced0 ∧
    (withHost { open1 with cmds := [waiting0] }).ending waiting0 = none ∧ doneCase.msgWaits doneCmd = false ∧
    doneCase.cmdAt 0 1 = some doneCmd ∧
    doneCase.ending doneCmd = some (0, 0, 0) ∧ doneCmd.handles = [3] ∧
    (withHost { open1 with cmds := [{ doneCmd with status := 1 }] }).ending { doneCmd with status := 1 } = some (1, 0, 0) ∧
    doneCase.handleOf 0 3 = { doneCase.handleOf 0 3 with state := .pending, seq := 1 } := by decide +kernel

/-- A session with an event to send, with and without the fault session's role, and LOST. -/
def event1 : HostEvent := { num := 1, record := zeros 32, cmd := none }
def eventful : HostState := { open1 with sessions := [(0, { state := 1, events := [event1], addrs := [(0, ⟨1, 2, true, 3⟩)] })] }
theorem witness_HostTimersAndEvents : (run0.session 0).state = 0 ∧ (host0.session 0).state ≠ 0 ∧ (host0.session 0).events = [] ∧
    ((withHost eventful).session 0).events ≠ [] ∧ SMap.get? (withHost eventful).host.bind 0 ≠ some 0 ∧
    ((withHost eventful).session 0).route = some (0, ⟨1, 2, true, 3⟩) ∧ ((withHost eventful).port (12 + 0)).up = true ∧
    ((withHost eventful).session 0).unsent = event1 :: [] ∧
    SMap.get? (withHost { eventful with bind := [(0, 0)] }).host.bind 0 = some 0 ∧
    ((withHost { open1 with sessions := [(0, { state := 2 })] }).session 0).state = 2 ∧ (host0.session 0).state = 1 ∧
    (withHost { open1 with lease := some 0 }).host.lease = some 0 ∧ host0.host.lease = none ∧
    (host0.stack (host0.jrnStack true)).state = stReady ∧ (host0.stack (host0.jrnStack true)).jrn ≠ 1 ∧
    ((host0.modStack (host0.jrnStack true) fun k => { k with jrn := 1 }).stack (host0.jrnStack true)).jrn = 1 ∧
    (host0.modStack (host0.jrnStack true) fun k => { k with jrn := 1 }).jrnState false = 0 ∧
    ((host0.modStack (host0.jrnStack true) fun k => { k with jrn := 2 }).stack (host0.jrnStack true)).jrn = 2 ∧
    64 ≤ (64 : Nat) ∧ (host0.wordOp 0 0 5 false 3).isSome = true ∧
    State.wordOp { host0 with sync := { objs := [(5, ⟨2, 0, 0⟩)] } } 0 0 5 false 3 = none ∧
    host0.refusal ⟨.session 0, 0, 2, 5, 3, none, false, false, 0, none⟩ false ≠ 0 := by decide +kernel
theorem witness_HostTimers_word_write : (bank0 [] []).refusal ⟨.session 0, 0, 2, 5, 3, none, false, false, 0, none⟩ false = 0 := by
  decide +kernel

/-! ### Witnesses: tenancies and Lookout -/

/-- Core 0 allocated and resident; a switch announced; a core that switches and has drained. -/
def ten0 : State := (alloc0 run0).setReg (coreBase 0 + 0xA00) 4
def busy0 : State := { ten0 with switchPhase := [(0, ())] }
def switching0 (n : Option (Option Nat)) : State := ten0.modCore 0 fun k => { k with switching := true, next := n }
/-- Two phases, of which core 0 runs in the first alone; a switch whose save area's stack is ready. -/
def phased0 : State := ten0.setReg 0x600 1
def ready0 : State := readyStacks (switching0 (some none))
theorem witness_TenanciesResetAndSwitch : ten0.namedBy 0 = true ∧ (ten0.namedBy 3 || ten0.hasSession 3 || NSet.has ten0.tenReset 3) = false ∧
    NSet.has ten0.tenReset 0 = false ∧ ten0.switchBusy = false ∧ busy0.switchBusy = true ∧
    NSet.has (State.tenReset { ten0 with tenReset := [(0, ())] }) 0 = true ∧ SMap.wf (State.tenReset { ten0 with tenReset := [(0, ())] }) = true ∧
    (ten0.core 0).res = some 0 ∧ (ten0.core 1).res ≠ some 0 ∧ 639 < ten0.coreCount ∧
    (ten0.core 0).res = ten0.allocIn (ten0.reg (coreBase 0 + 0xA00) % 2 ^ 16) 0 ∧
    (run0.core 0).res ≠ run0.allocIn (run0.reg (coreBase 0 + 0xA00) % 2 ^ 16) 0 ∧
    NSet.has ten0.switchPhase 0 = false ∧ NSet.has busy0.switchPhase 0 = true ∧ (busy0.core 0).resetBusy = false ∧
    (busy0.core 0).res.isSome = true ∧ (ten0.core 0).switching = false ∧ ((switching0 (some none)).core 0).switching = true ∧
    (switching0 (some none)).drained 0 = true ∧ ((switching0 (some none)).core 0).next = some none ∧
    ((switching0 (some (some 1))).core 0).next = some (some 1) ∧ ((switching0 (some (some 1))).core 0).res ≠ some 1 ∧
    (switching0 (some (some 1))).drained 0 = true ∧ ten0.phases = 1 ∧ ten0.phase = 0 ∧ (phased0).phases ≠ 1 ∧
    phased0.switchBusy = false ∧ (phased0.core 0).res = phased0.allocIn (phased0.reg (coreBase 0 + 0xA00) % 2 ^ 16) 0 ∧
    (phased0.core 0).res ≠ phased0.allocIn (phased0.reg (coreBase 0 + 0xA00) % 2 ^ 16) 1 ∧
    ((switching0 (some none)).core 0).resetBusy = false ∧ ready0.imageHeld 0 = false ∧ ready0.drained 0 = true ∧
    (ready0.core 0).switching = true ∧ (ready0.core 0).imageBz = [] ∧ (switching0 (some none)).imageHeld 0 = true ∧
    State.drained ((switching0 none).setNotice i0 true) 0 = false := by decide +kernel

/-- Notices of a stream, of an accumulate engine and of a collective engine. -/
def noticed : State := { run0.setNotice i0 true with
  accNotices := { out := [(3, 1)] }, fab := { run0.fab with notices := [(1, 1)] } }
theorem witness_LookoutEstimatesAndCounts : run0.openNotice (.stream i0) = none ∧
    noticed.openNotice (.stream i0) = some 0 ∧ run0.openNotice (.accEngine 3) = none ∧
    noticed.openNotice (.accEngine 3) = some 1 ∧ SMap.wf noticed.accNotices.out = true ∧
    run0.openNotice (.collEngine 1 1) = none ∧ noticed.openNotice (.collEngine 1 1) = some 1 ∧
    SMap.wf noticed.fab.notices = true ∧ bit 12 (noticed.reg (lookBase + 0x200)) = false ∧
    bit 12 ((noticed.setReg (lookBase + 0x200) (2 ^ 12)).reg (lookBase + 0x200)) = true ∧
    (noticed.setReg (lookBase + 0x200) (2 ^ 12)).openNotice (.stream i0) = some 0 ∧
    State.openNotice { noticed with sync := { ops := [{ op1 with ack := some (.stream i0) }] } } (.stream i0) = none ∧
    ((f32 0x7F800000).isNan || (f32 0x7F800000).isInf) = true ∧ ((f32 0x3F800000).isNan || (f32 0x3F800000).isInf) = false ∧
    run0.isSpike 0 (sub32 (f32 0x3F800000) (f32 0)) = false ∧ run0.field (lossStat 0) 31 0 = 0 ∧
    (run0.setReg (lossStat 0) 255).isSpike 0 (sub32 (f32 0x3F800000) (f32 0)) = true ∧
    run0.secureAt ≤ 65535 ∧ run0.field lookBase 16 16 = 1 ∧ (run0.setReg lookBase 0).field lookBase 16 16 ≠ 1 ∧
    State.pinned { run0 with noc := { halted := [(0, ())] } } = true ∧ run0.pinned = false ∧
    min 65535 (run0.scores + run0.levelSum) < run0.rearmAt ∧ run0.rearmAt ≤ 65535 := by decide +kernel

/-! ### Witnesses: resets, boot, flash and keys -/

/-- A block with `h` before a key and `z` after it. -/
theorem part_before {h k z : List Byte} {o n : Nat} (hn : o + n ≤ h.length) : ((h ++ k ++ z).drop o).take n = (h.drop o).take n := by
  rw [List.append_assoc, List.drop_append_of_le_length (by omega), List.take_append_of_le_length (by simp; omega)]
theorem part_after {h k z : List Byte} {o n : Nat} (hn : (h ++ k).length ≤ o) :
    ((h ++ k ++ z).drop o).take n = (z.drop (o - (h ++ k).length)).take n := by
  rw [List.drop_append, List.drop_eq_nil_of_le hn, List.nil_append]

/-- The two blocks of an image with no section; the owner block names the vendor block's hash. -/
def vendorHead : List Byte := leBytes 4 0x4B545601 ++ leBytes 4 1 ++ zeros 8
def ownerHead : List Byte := leBytes 4 0x4B544F01 ++ leBytes 4 1 ++ zeros 16
def vendorOf (pk : List Byte) : List Byte := vendorHead ++ pk ++ zeros 976
def ownerOf (pk : List Byte) : List Byte := ownerHead ++ (pk ++ leBytes 32 (digest (vendorOf pk))) ++ zeros 936

theorem length_zeros (n : Nat) : (zeros n).length = n := by simp [zeros]
theorem length_vendorHead : vendorHead.length = 16 := by simp only [vendorHead, List.length_append, length_leBytes, length_zeros]
theorem length_ownerHead : ownerHead.length = 24 := by simp only [ownerHead, List.length_append, length_leBytes, length_zeros]

theorem leNat_leBytes (k n : Nat) (h : n < 256 ^ k) : leNat (leBytes k n) = n := by
  induction k generalizing n with
  | zero => simp at h; simp [leBytes, leNat, h]
  | succ k ih =>
    have hd : n / 256 < 256 ^ k := Nat.div_lt_of_lt_mul (by rw [Nat.pow_succ, Nat.mul_comm] at h; exact h)
    simp only [leBytes, leNat, ih _ hd, BitVec.toNat_ofNat]
    omega

section
variable {pk : List Byte} (hpk : pk.length = 32)
include hpk

theorem vendor_part {o n : Nat} (h : o + n ≤ 16 ∨ 48 ≤ o) :
    ((vendorOf pk).drop o).take n = ((vendorOf (zeros 32)).drop o).take n := by
  unfold vendorOf
  obtain h | h := h
  · rw [part_before (by rw [length_vendorHead]; omega), part_before (by rw [length_vendorHead]; omega)]
  · have hz : (vendorHead ++ zeros 32).length = (vendorHead ++ pk).length := by
      simp only [List.length_append, length_zeros, hpk]
    have h : (vendorHead ++ pk).length ≤ o := by simp only [List.length_append, length_vendorHead, hpk]; omega
    rw [part_after h, part_after (hz ▸ h), hz]

theorem owner_part {o n : Nat} (h : o + n ≤ 24 ∨ 88 ≤ o) :
    ((ownerOf pk).drop o).take n = ((ownerHead ++ zeros 64 ++ zeros 936).drop o).take n := by
  unfold ownerOf
  obtain h | h := h
  · rw [part_before (by rw [length_ownerHead]; omega), part_before (by rw [length_ownerHead]; omega)]
  · have hz : (ownerHead ++ zeros 64).length = (ownerHead ++ (pk ++ leBytes 32 (digest (vendorOf pk)))).length := by
      simp only [List.length_append, length_zeros, length_leBytes, hpk]
    have h : (ownerHead ++ (pk ++ leBytes 32 (digest (vendorOf pk)))).length ≤ o := by
      simp only [List.length_append, length_ownerHead, length_leBytes, hpk]; omega
    rw [part_after h, part_after (hz ▸ h), hz]

theorem blocks_length : (vendorOf pk).length = 1024 ∧ (ownerOf pk).length = 1024 := by
  simp only [vendorOf, ownerOf, List.length_append, length_vendorHead, length_ownerHead, length_leBytes, length_zeros, hpk,
    and_self]

theorem blocks_entries : vendorEntries (vendorOf pk) = [] ∧ ownerEntries (ownerOf pk) = [] := by
  have hv : leAt (vendorOf pk) 12 4 = 0 := by rw [leAt, vendor_part hpk (by omega)]; decide +kernel
  have ho : leAt (ownerOf pk) 16 4 = 0 := by rw [leAt, owner_part hpk (by omega)]; decide +kernel
  simp [vendorEntries, ownerEntries, hv, ho]

/-- An image of such blocks with two signatures, and the fuses that hold its vendor key's hash. -/
def imageOf (pk sv so : List Byte) : Image := ⟨vendorOf pk, sv, ownerOf pk, so, []⟩
def fusesOf (pk : List Byte) : Fuses := { State.reset.fuses with vendorHash := [(0, digest pk)] }

theorem image_fields (sv so : List Byte) : (imageOf pk sv so).vendorPk = pk ∧ (imageOf pk sv so).ownerPk = pk ∧
    (imageOf pk sv so).svn = 0 ∧ (imageOf pk sv so).enrol = false ∧
    packBytes (((ownerOf pk).drop 56).take 32) = digest (vendorOf pk) := by
  refine ⟨?_, ?_, ?_, ?_, ?_⟩
  · have h := length_vendorHead
    simp only [Image.vendorPk, imageOf, vendorOf, List.append_assoc]
    rw [List.drop_left' h, List.take_left' hpk]
  · have h := length_ownerHead
    simp only [Image.ownerPk, imageOf, ownerOf, List.append_assoc]
    rw [List.drop_left' h, List.take_left' hpk]
  · simp only [Image.svn, imageOf, leAt]
    rw [vendor_part hpk (by omega)]; decide +kernel
  · simp only [Image.enrol, imageOf, leAt]
    rw [owner_part hpk (by omega)]; decide +kernel
  · have h : (ownerHead ++ pk).length = 56 := by simp only [List.length_append, length_ownerHead, hpk]
    simp only [ownerOf]
    rw [← List.append_assoc, List.append_assoc _ _ (zeros 936), List.drop_left' h, List.take_left' (by simp)]
    exact leNat_leBytes _ _ (digest_lt _)

theorem image_headers (sv so : List Byte) : (imageOf pk sv so).headersOk = true := by
  obtain ⟨ev, eo⟩ := blocks_entries hpk
  have hv : leAt (vendorOf pk) 12 4 = 0 := by rw [leAt, vendor_part hpk (by omega)]; decide +kernel
  have ho : leAt (ownerOf pk) 16 4 = 0 := by rw [leAt, owner_part hpk (by omega)]; decide +kernel
  simp only [Image.headersOk, Image.svn, imageOf, ev, eo, hv, ho]
  simp only [leAt, zeroAt, Nat.mul_zero, Nat.add_zero]
  simp only [vendor_part hpk (o := 0) (n := 4) (by omega), vendor_part hpk (o := 4) (n := 4) (by omega),
    vendor_part hpk (o := 8) (n := 4) (by omega), vendor_part hpk (o := 48) (n := 64 - 48) (by omega),
    vendor_part hpk (o := 64) (n := 1024 - 64) (by omega), owner_part hpk (o := 0) (n := 4) (by omega),
    owner_part hpk (o := 4) (n := 4) (by omega), owner_part hpk (o := 20) (n := 4) (by omega),
    owner_part hpk (o := 88) (n := 128 - 88) (by omega), owner_part hpk (o := 128) (n := 1024 - 128) (by omega)]
  simp only [List.nil_append, List.all_nil]
  decide +kernel

/-- An image is accepted if its signatures verify. -/
theorem image_accepted {sv so : List Byte} (h1 : slhVerify slh128s pk (vendorOf pk) sv = true)
    (h2 : slhVerify slh128s pk (ownerOf pk) so = true) : (fusesOf pk).verify (imageOf pk sv so) = 0 := by
  obtain ⟨a, b, c, d, e⟩ := image_fields hpk sv so
  obtain ⟨ev, eo⟩ := blocks_entries hpk
  have hs : (fusesOf pk).vendorSlot (imageOf pk sv so) = some 0 := by
    simp [Fuses.vendorSlot, keySlot, fusesOf, a, NSet.has, State.reset, SMap.get?]
  have ho : (fusesOf pk).ownerOk (imageOf pk sv so) = true := by
    simp [Fuses.ownerOk, fusesOf, State.reset, a, b]
  have hm : (fusesOf pk).svnMin = 0 := rfl
  have hc : (imageOf pk sv so).sectionsOk = true := by
    simp [Image.sectionsOk, imageOf, layoutOk, ev, eo, secApart]
  simp [Fuses.verify, image_headers hpk, hs, a, b, c, hm, e, ho, hc, show (imageOf pk sv so).vendor = vendorOf pk from rfl,
    show (imageOf pk sv so).owner = ownerOf pk from rfl, show (imageOf pk sv so).vendorSig = sv from rfl,
    show (imageOf pk sv so).ownerSig = so from rfl, h1, h2]
end

/-- A key pair, and the image that it signs. -/
def key0 : SlhKey := slhKeygen slh128s (zeros 16) (zeros 16) (zeros 16)
def sigOf (m : List Byte) : List Byte := slhSign slh128s key0 (zeros 16) m
def image0 : Image := imageOf key0.publicKey (sigOf (vendorOf key0.publicKey)) (sigOf (ownerOf key0.publicKey))
def fuses0 : Fuses := fusesOf key0.publicKey

theorem key0_length : key0.publicKey.length = 32 := by
  simp only [SlhKey.publicKey, key0, slhKeygen, List.length_append, length_xmssNode]; rfl
theorem sigOf_verifies (m : List Byte) : slhVerify slh128s key0.publicKey m (sigOf m) = true :=
  slhVerify_sign slh128s _ _ _ _ m rfl (by decide)
theorem sigOf_length (m : List Byte) : (sigOf m).length = 7856 := by
  have := sigOf_verifies m
  simp only [slhVerify, Bool.and_eq_true, decide_eq_true_eq] at this
  exact this.1
theorem image0_accepted : fuses0.verify image0 = 0 := image_accepted key0_length (sigOf_verifies _) (sigOf_verifies _)

/-- The same image stored in slot A; the flash keeps every byte inverted, so that what is erased lists nothing. -/
def inverted (bs : List Byte) : List Byte := bs.map fun b => ~~~b
def flash0 : Memory :=
  (((Memory.write ([] : Memory) 0 (inverted image0.vendor)).write 0x400 (inverted image0.vendorSig)).write 0x4000
    (inverted image0.owner)).write 0x4400 (inverted image0.ownerSig)

theorem inverted_twice (bs : List Byte) : (inverted bs).map (fun b => ~~~b) = bs := by
  simp [inverted, List.map_map, Function.comp_def]
theorem length_inverted (bs : List Byte) : (inverted bs).length = bs.length := by simp [inverted]

theorem flash0_holds_image0 : loadImage flash0 false = image0 := by
  obtain ⟨lv, lo⟩ := blocks_length key0_length
  have w0 : Memory.wf ([] : Memory) = true := rfl
  have w1 := Memory.wf_write (m := []) 0 (inverted image0.vendor) w0
  have w2 := Memory.wf_write 0x400 (inverted image0.vendorSig) w1
  have w3 := Memory.wf_write 0x4000 (inverted image0.owner) w2
  have l1 : (inverted image0.vendor).length = 1024 := by rw [length_inverted]; exact lv
  have l2 : (inverted image0.vendorSig).length = 7856 := by rw [length_inverted]; exact sigOf_length _
  have l3 : (inverted image0.owner).length = 1024 := by rw [length_inverted]; exact lo
  have l4 : (inverted image0.ownerSig).length = 7856 := by rw [length_inverted]; exact sigOf_length _
  have r1 := Memory.read_write_same (m := []) 0 (inverted image0.vendor) w0
  have r2 := Memory.read_write_same 0x400 (inverted image0.vendorSig) w1
  have r3 := Memory.read_write_same 0x4000 (inverted image0.owner) w2
  have r4 := Memory.read_write_same 0x4400 (inverted image0.ownerSig) w3
  rw [l1] at r1; rw [l2] at r2; rw [l3] at r3; rw [l4] at r4
  have v : flashBytes flash0 0 1024 = image0.vendor := by
    rw [flashBytes, flash0, Memory.read_write_apart _ _ _ _ w3 (by omega), Memory.read_write_apart _ _ _ _ w2 (by omega),
      Memory.read_write_apart _ _ _ _ w1 (by omega), r1, inverted_twice]
  have vs : flashBytes flash0 0x400 7856 = image0.vendorSig := by
    rw [flashBytes, flash0, Memory.read_write_apart _ _ _ _ w3 (by omega), Memory.read_write_apart _ _ _ _ w2 (by omega),
      r2, inverted_twice]
  have o : flashBytes flash0 0x4000 1024 = image0.owner := by
    rw [flashBytes, flash0, Memory.read_write_apart _ _ _ _ w3 (by omega), r3, inverted_twice]
  have os : flashBytes flash0 0x4400 7856 = image0.ownerSig := by
    rw [flashBytes, flash0, r4, inverted_twice]
  obtain ⟨hv, ho⟩ := blocks_entries key0_length
  have hv : vendorEntries image0.vendor = [] := hv
  have ho : ownerEntries image0.owner = [] := ho
  simp only [loadImage, slotBase, Bool.false_eq_true, if_false, Nat.zero_add, v, vs, o, os, hv, ho]
  simp only [List.nil_append, List.map_nil, ite_self]
  rfl

/-- A slot whose image is accepted is chosen, or the other is. -/
theorem chosen_of_accepted {f : Fuses} {m : Memory} (h : f.verify (loadImage m false) = 0) :
    ∃ im fb r, f.choose m = (some im, fb, r) := by
  unfold Fuses.choose
  dsimp only
  split_ifs <;> exact ⟨_, _, _, rfl⟩

/-- A device with that image in slot A and as the retained image. -/
def imaged0 : State := { host0 with fuses := fuses0, boot := { host0.boot with flash := flash0, retained := some image0 } }
theorem witness_ResetsAndBootsEnd_image :
    (∃ im fb r, imaged0.fuses.choose imaged0.boot.flash = (some im, fb, r)) ∧ imaged0.retainedOk.isSome = true := by
  refine ⟨chosen_of_accepted (by simp only [imaged0]; rw [flash0_holds_image0]; exact image0_accepted), ?_⟩
  simp [State.retainedOk, imaged0, image0_accepted]

def world0 : BootWorld := ⟨true, 0, [], [], false, 0⟩
def withBoot (b : BootState) : State := { host0 with boot := b }
def booted0 : BootState := { result := 1, step := 8 }
theorem witness_ResetsAndBootsEnd : { world0 with flashOk := false }.flashOk = false ∧ world0.flashOk = true ∧
    { world0 with ringFail := true }.ringFail = true ∧ world0.ringFail = false ∧
    State.reset.fuses.choose State.reset.boot.flash = (none, true, 2) ∧ State.reset.retainedOk = none ∧
    host0.pins.coldLow = false ∧ State.reset.pins.coldLow = true ∧
    (withBoot { booted0 with wantReset := 2 }).boot.wantReset = 2 ∧ (withBoot { booted0 with wantReset := 1 }).boot.wantReset = 1 ∧
    (withBoot booted0).pins.thermtrip = false ∧ (withBoot booted0).boot.result ≠ 0 ∧ State.reset.boot.result = 0 ∧
    { host0 with pins := { coldLow := false, thermtrip := true } }.pins.thermtrip = true ∧
    ((withBoot booted0).boot.coreReset.isNone && decide (0 < (withBoot booted0).coreCount) &&
      !((withBoot booted0).core 0).switching) = true ∧ ((withBoot booted0).core 0).switching = false ∧
    ((withBoot { booted0 with coreReset := some 0 }).boot.coreReset.isNone) = false ∧
    (withBoot { booted0 with coreReset := some 0 }).boot.coreReset = some 0 ∧ SMap.wf booted0.selftest = true := by
  decide +kernel

/-! ### Witnesses: flash, keys, power and fuses -/

/-- A command of an opcode at dispatch, with its operand bytes from byte 16; the lease is its session's or no one's. -/
def opAt (op : Nat) (rest : List Byte) : HostCmd := cmdOf ([BitVec.ofNat 8 op] ++ zeros 15 ++ rest)
def asked (c : HostCmd) (lease : Option Nat) : State := atCmd c { open1 with lease := lease }
def opcodesR : List Nat := [0x40, 0x41, 0x42, 0x43, 0x44, 0x45, 0x46, 0x47, 0x48, 0x49]

/-- Each opcode at dispatch with and without the lease, and forbidden by a dependency that failed. -/
theorem witness_FlashAndSecurity_dispatch : opcodesR.all (fun op =>
    decide ((asked (opAt op []) (some 0)).cmdAt 0 1 = some (opAt op [])) && decide ((opAt op []).phase = .atDispatch) &&
    decide ((opAt op []).opcode = op) && !(asked (opAt op []) (some 0)).forbidden (opAt op []) &&
    (asked (opAt op []) (some 0)).authority (opAt op []) && !(asked (opAt op []) none).authority (opAt op []) &&
    (withHost { open1 with sessions := [(0, { state := 1, failed := [(0, ())] })] }).forbidden
      { opAt op [] with bytes := [BitVec.ofNat 8 op, 3] ++ zeros 62 }) = true := by decide +kernel

/-- Ranges within and past the flash of 128 MiB; blank and programmed bytes; owner slots free, none free, in use; an image
that asks for enrolment; an attestation with and without a page of results. -/
def progCmd : HostCmd := { opAt 0x42 [0, 0, 0, 0] with data := [1, 2] }
def owned (n : Nat) : State := { host0 with fuses := { host0.fuses with ownerHash := (List.range n).map fun k => (k, k) } }
def enrolling : Image := { image0 with owner := (zeros 1024).set 20 1 }
theorem witness_FlashAndSecurityCommands :
    (opAt 0x40 []).flashOff + (opAt 0x40 []).len ≤ flashSize ∧
    flashSize < (opAt 0x40 [0xFF, 0xFF, 0xFF, 0xFF]).flashOff + (opAt 0x40 [0xFF, 0xFF, 0xFF, 0xFF]).len ∧
    (opAt 0x41 [0, 0, 0, 0, 1, 0]).flashOff + 65536 * leAt (opAt 0x41 [0, 0, 0, 0, 1, 0]).bytes 20 2 ≤ flashSize ∧
    flashSize < (opAt 0x41 [0, 0, 0xFF, 0xFF, 1, 0]).flashOff + 65536 * leAt (opAt 0x41 [0, 0, 0xFF, 0xFF, 1, 0]).bytes 20 2 ∧
    Memory.wf host0.boot.flash = true ∧ progCmd.flashOff + progCmd.data.length ≤ flashSize ∧
    flashSize < { progCmd with bytes := (opAt 0x42 [0xFF, 0xFF, 0xFF, 0xFF]).bytes }.flashOff + 2 ∧
    (Memory.read host0.boot.flash progCmd.flashOff progCmd.data.length).all (fun b => b == 0) = true ∧
    (Memory.read [(1, 9)] progCmd.flashOff progCmd.data.length).all (fun b => b == 0) = false ∧
    flashBytes [(1, 9)] 1 1 ≠ [0xFF] ∧ (owned 2).fuses.freeOwner = some 2 ∧ (owned 4).fuses.freeOwner = none ∧
    host0.mayEnrol = false ∧ (withBoot { retained := some enrolling }).mayEnrol = true ∧
    4 ≤ leAt (opAt 0x49 [7]).bytes 16 1 ∧ leAt (opAt 0x49 [1]).bytes 16 1 = 1 ∧
    (SMap.get? (owned 2).fuses.ownerHash 1).isSome = true ∧ SMap.get? (owned 2).fuses.ownerHash 2 = none ∧
    1 ≠ (owned 2).boot.okey ∧ (withBoot { okey := 1 }).boot.okey = 1 ∧ (opAt 0x43 []).out = [] ∧
    (opAt 0x43 (zeros 8 ++ [2])).space = 2 ∧ (opAt 0x43 []).space ≠ 2 := by decide +kernel

/-- Samplings at and below the trip; averages above and below the cap; a tenancy to lower and none; a regulator asked. -/
def sampled0 (t : Nat) : State := { host0 with power := { host0.power with sites := [(0, t)], sampled := true } }
def maxed : State := host0.setReg pwrBase (1000 + 2048 * 800)
def cutAll : State := { maxed with power := { maxed.power with cut := (List.range 4).map fun k => (k, 200) } }
theorem witness_PowerTelemetryAndSideband : (sampled0 103).mustTrip = true ∧ (sampled0 102).mustTrip = false ∧
    (host0.stackTemp (7, 100)).mustTrip = true ∧ (host0.stackTemp (7, 99)).mustTrip = false ∧
    host0.powerOver ⟨1201, 0, 0⟩ = true ∧ host0.powerOver ⟨1200, 1100, 1100⟩ = false ∧
    maxed.toLower.isSome = true ∧ cutAll.toLower = none ∧ host0.power.wanted = none ∧
    { host0.power with wanted := some 900 }.wanted = some 900 ∧ bits 10 0 (399 : Word).toNat < 400 ∧
    400 ≤ bits 10 0 (400 : Word).toNat ∧ bits 10 0 (1100 : Word).toNat ≤ 1100 ∧ 1100 < bits 10 0 (1101 : Word).toNat ∧
    0 < host0.coreCount ∧ 0 < { host0.boot with step := 1 }.step ∧ host0.boot.step = 0 ∧
    (0x4B : BitVec 7).toNat = 0x48 + { host0.power with i3cLands := 3 }.i3cLands.toNat ∧
    (0x49 : BitVec 7).toNat ≠ 0x48 + host0.power.i3cLands.toNat ∧
    { host0 with power := { host0.power with emergency := true } }.toLower = none := by decide +kernel

theorem witness_FusesOnlyBlow : ∃ t, step { asked (opAt 0x44 []) (some 0) with pending := [.svnAdvance 0 1] } = .next t ∧
    SMap.get? (owned 2).fuses.ownerHash 1 = some 1 ∧ NSet.has { host0.fuses with ownerRev := [(3, ())] }.ownerRev 3 = true :=
  ⟨_, rfl, by decide +kernel⟩

/-- A device that has stopped, clocks below their target, powers above and below the cap, and a step on an empty queue. -/
def slow0 : State := run0.modCore 0 fun k => { k with freq := 1000 }
theorem witness_InterleaveShimsAndClocks_more : State.reset.stopped = true ∧ run0.stopped = false ∧
    ((arrayed fun a => { a with horizonPassed := false }).core 0).arr.gap = true ∧
    (∀ m ∈ [800, 1600], max 800 (min m (run0.clockTarget 0)) ≤ (run0.core 0).freq) ∧
    (slow0.core 0).freq < max 800 (min 1600 (slow0.clockTarget 0)) ∧
    { slow0 with power := { slow0.power with setpoint := 700 } }.power.setpoint < vSet 1600 ∧
    vSet (max 800 (min 1600 (slow0.clockTarget 0))) ≤ slow0.power.setpoint ∧
    (run0.core 0).freq = max 800 (min 1700 (run0.clockTarget 0)) ∧ (run0.core 0).freq ≠ max 800 (min 1000 (run0.clockTarget 0)) ∧
    run0.power.wanted.isSome = false ∧ { run0.power with wanted := some 850 }.wanted.isSome = true ∧
    (run0.setReg (coreBase 0 + 0x600) 0).shimLevel 0 ≤ 256 := by decide +kernel
theorem witness_PowerTelemetryAndSideband_more : State.reset.stopped = true ∧ host0.stopped = false ∧
    host0.powerCap < (⟨1201, 1101, 0⟩ : PowerAverages).ms1 ∧ (⟨1200, 1100, 1100⟩ : PowerAverages).ms1 ≤ host0.powerCap ∧
    host0.power.recovering = false ∧ host0.power.excess < 10 ∧ { host0.power with excess := 10 }.excess = 10 := by decide +kernel
theorem witness_FusesOnlyBlow_idle : (∃ t, step (owned 2) = .next t) ∧ (owned 2).pending = [] := ⟨⟨_, rfl⟩, rfl⟩

/-- Places for a report: unmapped, walked through a stack that is held, granted, denied, and in a stack that is held. -/
def attAt (space : Byte) (addr : Nat) : HostCmd := opAt 0x43 (leBytes 8 addr ++ [space])
def attB (space : Byte) (addr : Nat) (s : State) : State := s.begin (attAt space addr)
def attAll (u : State) : Bool := (List.range 275).all fun l => u.memOk (masterSession 0) (64 * l) 64 true
theorem witness_SecAttest_place :
    (attB 0 0 (memCase (attAt 0 0))).rangeHeld (attB 0 0 (memCase (attAt 0 0))).memHeld 0 0 17600 true = false ∧
    (attB 0 0 (off1 (memCase (attAt 0 0)))).rangeHeld (attB 0 0 (off1 (memCase (attAt 0 0)))).memHeld 0 0 17600 true = true ∧
    placeOf ((attB 0 0 (memCase (attAt 0 0))).hostPlace (attAt 0 0) 17600 true) = (none, codePageFault) ∧
    placeOf ((attB 1 0 (memCase (attAt 1 0))).hostPlace (attAt 1 0) 17600 true) = (some (.lines 0 (unitsOf 64 0 17600)), 0) ∧
    placeOf ((attB 1 (2 ^ 39) (memCase (attAt 1 (2 ^ 39)))).hostPlace (attAt 1 (2 ^ 39)) 17600 true) = (none, codeAccess) ∧
    (∀ x ∈ unitsOf 64 0 17600, x < 275) ∧ attAll (attB 1 0 (memCase (attAt 1 0))) = true ∧
    (readyStacks (atCmd (attAt 1 0) managed1)).memOk (masterSession 0) 0 64 true = false ∧
    (attB 1 0 (memCase (attAt 1 0))).placeHeld (.lines 0 (unitsOf 64 0 17600)) = false ∧
    ((attB 1 0 (memCase (attAt 1 0))).modStack 0 fun k => { k with state := stTraining }).placeHeld (.lines 0 (unitsOf 64 0 17600)) = true := by decide +kernel

/-! ### Results that the manual's words give -/

def ctl (m : RMode) (ovf sat : Bool) : Ctl := ⟨false, m, ovf, sat⟩
/-- Table 2.8: a finite overflow to E4M3 saturates at 448 or is NaN by E4M3_OVF, and toward zero is 448 in both settings. -/
theorem test_e4m3_overflow : (toFloat (ctl .rne false false) .e4m3 (.fin false 125 3) false).bits = 0x7E ∧
    (toFloat (ctl .rne true false) .e4m3 (.fin true 125 3) false).bits = 0xFF ∧
    (toFloat (ctl .rtz true false) .e4m3 (.fin false 125 3) false).bits = 0x7E := by decide +kernel
/-- Table 2.8: E5M2_SAT saturates at 57,344; else nearest even gives infinity. -/
theorem test_e5m2_overflow : (toFloat (ctl .rne false true) .e5m2 (.fin false 125 10) false).bits = 0x7B ∧
    (toFloat (ctl .rne false false) .e5m2 (.fin false 125 10) false).bits = 0x7C := by decide +kernel
/-- R54: 1 + 2^-8 lies half way between two BF16 values and goes to the even one. -/
theorem test_bf16_ties_to_even : (result true .bf16 (.fin false 257 (-8)) false).bits = 0x3F80 ∧
    (result true .bf16 (.fin false 259 (-8)) false).bits = 0x3F82 := by decide +kernel
/-- Table 7.3: radius 4 corrects four symbols, radius 3 detects four and five, radius 0 corrects none. -/
def fourErrors : SymErrs := [(0, 1), (5, 2), (9, 3), (70, 4)]
theorem test_radius_4_corrects_four : decodeLine 4 false fourErrors = .corrected fourErrors := by decide +kernel
theorem test_radius_3_detects_four : decodeLine 3 false fourErrors = .bad ∧
    decodeLine 3 false ((20, 9) :: fourErrors) = .bad ∧ decodeLine 0 false [(3, 1)] = .bad := by decide +kernel
/-- R183: a blazed line reads blazed, with up to two symbol errors too. -/
theorem test_blazed_line : decodeLine 4 true [] = .marked [] ∧ decodeLine 4 true [(3, 1), (64, 7)] = .marked [(3, 1), (64, 7)] := by
  decide +kernel
/-- R433: bytes past the core store fault with TILE_BOUNDS and the address; R436: after 0x1F_FFF8 comes 0. -/
theorem test_ld_past_store : ∃ t, exec (.ld i0 1 0 false 0x1FFFF9) run0 = .next t ∧ (t.stream i0).faultCode = 2 ∧
    (t.stream i0).faddr = 0x1FFFF9 := ⟨_, rfl, by decide +kernel⟩
theorem test_pc_wraps : ∃ t, exec (.nopInstr i0) (run0.modStream i0 fun x => { x with pc := 0x1FFFF8 }) = .next t ∧
    (t.stream i0).pc = 0 := ⟨_, rfl, by decide +kernel⟩
/-- Table 3.6: `sar` shifts the sign in, `lhi` keeps the low half; R61: s0 stays zero. -/
def sregs0 : State := run0.modStream i0 fun x => { x with sregs := [(1, ⟨0x8000000000000010, false⟩)] }
theorem test_scalar_results :
    (∃ t, exec (.sar i0 2 1 0 4) sregs0 = .next t ∧ t.sval i0 2 = ⟨0xF800000000000001, false⟩) ∧
    (∃ t, exec (.lhi i0 3 1 7) sregs0 = .next t ∧ t.sval i0 3 = ⟨0x0000000700000010, false⟩) ∧
    (∃ t, exec (.add i0 0 1 1 0) sregs0 = .next t ∧ t.sval i0 0 = ⟨0, false⟩) :=
  ⟨⟨_, rfl, by decide +kernel⟩, ⟨_, rfl, by decide +kernel⟩, ⟨_, rfl, by decide +kernel⟩⟩
/-- R74: `cmp` compares signed under 0b010 and unsigned under 0b100. -/
theorem test_cmp_signs : (∃ t, exec (.cmp i0 2 4 1 0) sregs0 = .next t ∧ t.sval i0 4 = ⟨1, false⟩) ∧
    (∃ t, exec (.cmp i0 4 4 1 0) sregs0 = .next t ∧ t.sval i0 4 = ⟨0, false⟩) :=
  ⟨⟨_, rfl, by decide +kernel⟩, ⟨_, rfl, by decide +kernel⟩⟩
/-- The digest of "abc", the example of FIPS 180-4. -/
theorem test_sha256_abc : beNat (sha256 (byteList [0x61, 0x62, 0x63])) =
    0xBA7816BF8F01CFEA414140DE5DAE2223B00361A396177A9CB410FF61F20015AD := by decide +kernel
/-- Words written from Tables 3.4 to 3.6, 3.5a, 6.6 and R257: `add` s2, s1, s3 with 4, `br` under EQ, `tld` into tile 5
with NA, `gset` and `tally.clr`; a reserved bit, or a reserved opcode, spells nothing. -/
theorem test_words :
    decodeWord i0 (0x01 * 2 ^ 56 + 2 * 2 ^ 51 + 1 * 2 ^ 46 + 3 * 2 ^ 41 + 4) = some (.add i0 2 1 3 4) ∧
    decodeWord i0 (0x61 * 2 ^ 56 + 5 * 2 ^ 52 + 7 * 2 ^ 47 + 8 * 2 ^ 42 + 2 ^ 40 + 9) = some (.tld i0 ⟨5, 7, 8, false, true, 9⟩) ∧
    decodeWord i0 (0x90 * 2 ^ 56 + 1 * 2 ^ 51 + 2 * 2 ^ 46 + 3 * 2 ^ 41 + 6) = some (.gset i0 1 2 3 6) ∧
    decodeWord i0 (0x95 * 2 ^ 56 + 4 * 2 ^ 51) = some (.tallyClr i0 4) ∧
    decodeWord i0 (0x95 * 2 ^ 56 + 4 * 2 ^ 51 + 1) = none ∧ decodeWord i0 (0x97 * 2 ^ 56) = none := by decide +kernel

/-! ### Witnesses: what waits for a node that has halted, and what does not -/

/-- Nodes, by key, halted. -/
def dead0 (s : State) (ks : List Nat) : State := { s with noc := { s.noc with halted := ks.map fun k => (k, ()) } }
theorem witness_Update_blocksCut : (engine shard0).blocksCut 0 (shard0.shard 0) (shard0.gdesc 0) [0] = false ∧
    (engine tally1).blocksCut 0 (tally1.shard 0) (tally1.gdesc 0) [1] = false := by decide +kernel
theorem witness_Lines_issuerCut : run0.issuerCut (.core i0 0) 0 = false ∧ open0.issuerCut (.session 0) 0 = false := by
  decide +kernel
theorem witness_Notices_wait : noticed.noticeWaits (.stream i0) = false ∧
    noticed.noticeWaits (.accEngine 3) = false ∧ noticed.noticeWaits (.collEngine 1 1) = false := by decide +kernel
theorem witness_CoreSwitch_away :
    busy0.cut (some (entryFor (.stop configStop) 7 1 (.site (busy0.siteOf 0)))) = false := by decide +kernel
theorem witness_Run_held : (runCase fun t => t).hostHeld ((runCase fun t => t).mcast (leAt runCmd.bytes 16 2)).pa = false ∧
    (State.modStack (runCase fun t => t) 0 fun k => { k with state := stTraining }).hostHeld 64 = true := by decide +kernel
theorem witness_Sequencer_faultTens : run0.faultTens i0 5 64 = [0] ∧
    State.faultTens { run0 with fab := { run0.fab with remote := [(remoteKey 2 i0, ())] } } i0 codeAccess 0 = [0, 2] := by
  decide +kernel
theorem witness_Attest_held : (asked (opAt 0x43 []) none).admitHeld = false ∧ run0.admitHeld = true := by decide +kernel
theorem witness_Halted_node_cuts_off : State.issuerCut (dead0 run0 [0]) (.core i0 0) 0 = true ∧
    (engine (dead0 shard0 [0])).blocksCut 0 ((dead0 shard0 [0]).shard 0) ((dead0 shard0 [0]).gdesc 0) [0] = true := by
  decide +kernel

end Sys2Proof.Tests
end

section
/-! SUPPORT. The ends of a ready stream's instruction, the frames of the updates that instructions are made of, and the
two statements of chapter 3 on branches and on the rows of tiles. -/

namespace Sys2Proof.Machine

variable (s : State)

/-! ### How an instruction of a ready stream ends -/

@[simp] theorem State.core_issued (i : At) (c : Nat) : (s.issued i).core c = s.core c :=
  State.core_congr (State.issued_cores _ _) c

@[simp] theorem State.stream_issued (i j : At) : (s.issued i).stream j = s.stream j :=
  State.stream_congr (State.issued_cores _ _) j

@[simp] theorem State.core_blazeWritten (i : At) (b : Bool) (c : Nat) : (s.blazeWritten i b).core c = s.core c :=
  State.core_congr (State.blazeWritten_cores _ _ _) c

@[simp] theorem State.stream_blazeWritten (i j : At) (b : Bool) : (s.blazeWritten i b).stream j = s.stream j :=
  State.stream_congr (State.blazeWritten_cores _ _ _) j

@[simp] theorem State.res_modStream (i : At) (g : Stream → Stream) (c : Nat) :
    ((s.modStream i g).core c).res = (s.core c).res := by
  by_cases h : c = i.core
  · rw [h, State.core_modStream_same]
  · rw [State.core_modStream_other _ _ h]

@[simp] theorem State.res_takeUnit (i : At) (u : ExecUnit) : ((s.takeUnit i u).core i.core).res = (s.core i.core).res := by
  cases u <;> simp [State.takeUnit, CoreState.take]

variable {s}

/-- At the boundary after an instruction of a ready stream nothing is taken, where the instruction left the tenancy
resident and brought no fault (R432). -/
theorem State.settle_of_ready {i : At} {t : State} (h : s.ready i) (hr : (t.core i.core).res = (s.core i.core).res)
    (hf : (t.stream i).pendingFault = none) : t.settle (s.tenOf i.core) i = t := by
  apply State.settle_none
  rw [t.tenStream_resident (hr.trans (s.ready_res h)), hf]

/-- An instruction that faults at issue has no other effect (R65). -/
theorem State.finish_fault {i : At} (h : s.ready i) (code addr : Nat) :
    s.finish i (.fault code addr) = s.faultStream i code addr :=
  State.settle_of_ready h (s.res_modStream _ _ _) (by simpa [State.faultStream, Stream.stop] using h.2.2)

/-- An instruction that carries a reserved value stops its stream (R63). -/
theorem State.finish_illegal {i : At} (h : s.ready i) :
    s.finish i .illegal = s.modStream i fun x => { x with state := .illegal } :=
  State.settle_of_ready h (s.res_modStream _ _ _) (by simpa using h.2.2)

/-- An instruction that goes to an address leaves its effect with the program counter there. -/
theorem State.finish_goto {i : At} {t : State} (h : s.ready i) (hr : (t.core i.core).res = (s.core i.core).res)
    (hf : (t.stream i).pendingFault = none) (pc : BitVec 21) :
    s.finish i (.goto t pc) = (t.modStream i fun x => { x with pc := pc }).issued i :=
  State.settle_of_ready h (by simpa using hr) (by simpa using hf)

/-! ### Branches (R436) -/

/-- A branch to an instruction address goes there. -/
theorem branchTo_inside {target : Word} (h : target.toNat % 8 = 0 ∧ target.toNat < 2 ^ 21) (t : State) :
    branchTo target t = .goto t (target.setWidth 21) :=
  if_pos ⟨h.1, by omega⟩

/-- A branch to what is no instruction address faults with the target's low 48 bits. -/
theorem branchTo_outside {target : Word} (h : ¬ (target.toNat % 8 = 0 ∧ target.toNat < 2 ^ 21)) (t : State) :
    branchTo target t = .fault codeTileBounds (target.toNat % 2 ^ 48) :=
  if_neg (by omega)

/-- A branch of the scalar unit: the program counter at the target, or the fault. -/
theorem exec_goes_or_faults {i : At} {target : Word} {c : Instr} (h : s.ready i)
    (hc : exec c s = .next (s.finish i (branchTo target (s.takeUnit i .scalar)))) :
    (target.toNat % 8 = 0 ∧ target.toNat < 2 ^ 21 → exec c s =
      .next (((s.takeUnit i .scalar).modStream i fun x => { x with pc := target.setWidth 21 }).issued i)) ∧
    (¬ (target.toNat % 8 = 0 ∧ target.toNat < 2 ^ 21) →
      exec c s = .next (s.faultStream i codeTileBounds (target.toNat % 2 ^ 48))) := by
  constructor <;> intro ht
  · rw [hc, branchTo_inside ht, State.finish_goto h (s.res_takeUnit _ _) (by simpa using h.2.2)]
  · rw [hc, branchTo_outside ht, State.finish_fault h]

/-- `jr` on a free scalar unit: a marked base bites. -/
theorem exec_jr {i : At} (h : s.readyOn .scalar i) (sa : SReg) (imm : Imm) :
    exec (.jr i sa imm) s = .next (s.finish i (if (s.sval i sa).bz then .fault codeBlazeBite 0
      else branchTo ((s.sval i sa).val + 8 * imm.signExtend 64) (s.takeUnit i .scalar))) :=
  (issueOn_ready s h _).trans (by simp only [State.stream_takeUnit]; rfl)

/-- `br` on a free scalar unit under a condition that is not reserved: a marked operand that is read bites, and else the
condition decides. -/
theorem exec_br {i : At} (h : s.readyOn .scalar i) {cond : BitVec 3} {sa sb : SReg} {v : Bool} (imm : Imm)
    (hv : condScalar cond (s.sval i sa).val (s.sval i sb).val = some v) :
    exec (.br i cond sa sb imm) s = .next (s.finish i
      (if condReads cond && ((s.sval i sa).bz || (s.sval i sb).bz) then .fault codeBlazeBite 0
       else if v then branchTo ((s.stream i).pc.setWidth 64 + 8 * imm.signExtend 64) (s.takeUnit i .scalar)
       else .done (s.takeUnit i .scalar))) := by
  refine (issueOn_ready s h _).trans ?_
  simp only [State.sval] at hv
  simp only [State.stream_takeUnit, hv]
  rfl

/-- `br` on a free scalar unit under the reserved condition. -/
theorem exec_br_reserved {i : At} (h : s.readyOn .scalar i) (sa sb : SReg) (imm : Imm) :
    exec (.br i 7 sa sb imm) s = .next (s.modStream i fun x => { x with state := .illegal }) :=
  (issueOn_ready s h _).trans (congrArg _ (State.finish_illegal h.1))

/-- The conditions below "always" read their operands. -/
theorem condReads_of_lt {cond : BitVec 3} (h : cond.toNat < 6) : condReads cond = true :=
  decide_eq_true (by omega)

/-- The conditions below "always" are none of them reserved. -/
theorem condScalar_of_lt {cond : BitVec 3} (h : cond.toNat < 6) (a b : Word) : ∃ v, condScalar cond a b = some v := by
  unfold condScalar
  generalize cond.toNat = n at h
  interval_cases n <;> exact ⟨_, rfl⟩

/-- An instruction that only takes its unit retires. -/
theorem State.finish_takeUnit {i : At} (h : s.ready i) (u : ExecUnit) :
    s.finish i (.done (s.takeUnit i u)) = (s.takeUnit i u).retired i :=
  s.finish_done h (s.res_takeUnit _ _) (by simpa using h.2.2)

/-- Settles O9: each outcome of `br` and `jr` is one way through their checks, and a target is one of two. -/
theorem branchesGoOrFault : Obligations.BranchesGoOrFault := by
  intro i cond sa sb imm s h a b t1 t2 goes
  have bite := State.finish_fault h.1 codeBlazeBite 0
  have pass (hm : (a.bz || b.bz) = false) : ¬ (condReads cond && (a.bz || b.bz)) = true := by simp [hm]
  refine ⟨fun ha => ?jr, fun ha => ?jrBites, ?always, fun hc hm => ?brBites, fun hc hm hv => ?taken,
    fun hc hm hv => ?untaken, exec_br_reserved h sa sb imm⟩
  case jr => exact exec_goes_or_faults h.1 (by rw [exec_jr h, if_neg (by simpa [a] using ha)])
  case jrBites => rw [exec_jr h, if_pos ha, bite]
  case always => exact exec_goes_or_faults h.1 (by
    rw [exec_br h imm (v := true) rfl, if_neg (by simp [condReads]), if_pos rfl])
  case brBites =>
    obtain ⟨v, hv⟩ := condScalar_of_lt hc a.val b.val
    rw [exec_br h imm hv, if_pos (by rw [condReads_of_lt hc]; exact hm), bite]
  case taken => exact exec_goes_or_faults h.1 (by rw [exec_br h imm hv, if_neg (pass hm), if_pos rfl])
  case untaken =>
    rw [exec_br h imm hv, if_neg (pass hm), if_neg Bool.false_ne_true, State.finish_takeUnit h.1]

end Sys2Proof.Machine
end

section
/-! SUPPORT. What one core, and one stream, keep to themselves; and tiles under the updates that instructions are made
of. -/

namespace Sys2Proof.Machine

/-! ### Frames of one core -/

theorem OnlyCore.trans {c : Nat} {s t u : State} (h : OnlyCore c s t) (k : OnlyCore c t u) : OnlyCore c s u := by
  obtain ⟨hs, hc, hr⟩ := h
  obtain ⟨ks, kc, kr⟩ := k
  exact ⟨ks.trans (congrArg (fun v : State => { v with cores := u.cores, regs := u.regs }) hs),
    fun d hd => (kc d hd).trans (hc d hd), fun off ho => (kr off ho).trans (hr off ho)⟩

theorem onlyCore_modCore (s : State) (c : Nat) (g : CoreState → CoreState) : OnlyCore c s (s.modCore c g) :=
  ⟨rfl, fun _ hd => s.core_modCore_other g hd, fun _ _ => rfl⟩

theorem onlyCore_modStream (s : State) (i : At) (g : Stream → Stream) : OnlyCore i.core s (s.modStream i g) :=
  onlyCore_modCore s i.core fun k => { k with img := k.img.setStream i.stream (g (s.stream i)) }

theorem onlyCore_event (s : State) (c : Nat) (x : Option StreamId) (ev k : Nat) : OnlyCore c s (s.event c x ev k) :=
  ⟨(s.event_eq c x ev k).trans (by simp), fun d _ => State.core_congr (s.event_cores c x ev k) d,
    fun off ho => s.event_reg_other c x ev k off ho⟩

theorem onlyCore_blazeWritten (s : State) (i : At) (b : Bool) : OnlyCore i.core s (s.blazeWritten i b) := by
  cases b with
  | false => exact ⟨rfl, fun _ _ => rfl, fun _ _ => rfl⟩
  | true => exact onlyCore_event s _ _ _ _

theorem onlyCore_retired (s : State) (i : At) : OnlyCore i.core s (s.retired i) :=
  (onlyCore_modStream s i _).trans (onlyCore_event _ _ _ _ _)

/-! ### Frames of one stream -/

@[simp] theorem CoreImage.setStream_stream (m : CoreImage) (x : StreamId) : m.setStream x (m.stream x) = m := by
  cases x <;> rfl

theorem OnlyStream.trans {i : At} {s t u : State} (h : OnlyStream i s t) (k : OnlyStream i t u) : OnlyStream i s u := by
  obtain ⟨hs, hc⟩ := h
  obtain ⟨ks, kc⟩ := k
  refine ⟨hs.trans ks, ?_⟩
  rw [hc] at kc
  simpa using kc

theorem onlyStream_modStream (s : State) (i : At) (g : Stream → Stream) : OnlyStream i s (s.modStream i g) :=
  ⟨onlyCore_modStream s i g, by rw [State.stream_modStream_same, State.core_modStream_same]⟩

/-- What changes nothing of any core but counters changes only what it may of a stream. -/
theorem OnlyCore.onlyStream {i : At} {s t : State} (h : OnlyCore i.core s t) (hc : t.cores = s.cores) :
    OnlyStream i s t :=
  ⟨h, by rw [State.core_congr hc, State.stream_congr hc]; simp [State.stream]⟩

theorem onlyStream_retired (s : State) (i : At) : OnlyStream i s (s.retired i) :=
  (onlyStream_modStream s i _).trans ((onlyCore_event _ _ _ _ _).onlyStream (State.event_cores _ _ _ _ _))

theorem onlyStream_putV (s : State) (i : At) (r : VReg) (v : VData) (bz : Bool) : OnlyStream i s (s.putV i r v bz) :=
  (onlyStream_modStream s i _).trans ((onlyCore_blazeWritten _ i bz).onlyStream (State.blazeWritten_cores _ _ _))

/-! ### The stream after an instruction -/

@[simp] theorem State.stream_retired (s : State) (i : At) : (s.retired i).stream i = (s.stream i).next := by
  simp [State.retired, State.advance, Stream.next]

theorem State.core_retired (s : State) (i : At) : (s.retired i).core i.core =
    { s.core i.core with img := (s.core i.core).img.setStream i.stream (s.stream i).next } := by
  simp [State.retired, State.advance, State.core_modStream_same, Stream.next]

@[simp] theorem State.stream_putV (s : State) (i : At) (r : VReg) (v : VData) (bz : Bool) :
    (s.putV i r v bz).stream i = (s.stream i).setVreg r v bz := by
  simp [State.putV]

/-- A vector instruction whose effect is its result retires with it. -/
theorem givesVector_of_putV {i : At} {vd : VReg} {c : Instr} {s : State} {v : VData} {bz : Bool} (h : s.ready i)
    (hc : exec c s = .next (s.finish i (.done (s.putV i vd v bz)))) : GivesVector i vd c s v bz := by
  have hr : ((s.putV i vd v bz).core i.core).res = (s.core i.core).res := by simp [State.putV]
  have hf : ((s.putV i vd v bz).stream i).pendingFault = none := by simpa [Stream.setVreg] using h.2.2
  rw [s.finish_done h hr hf] at hc
  refine ⟨_, hc, ?_, fun r hr => ?_, ?_, (onlyStream_putV s i vd v bz).trans (onlyStream_retired _ i)⟩
  · rw [State.vval, State.stream_retired, State.stream_putV]
    exact Stream.vreg_setVreg_same _ _ _ _
  · rw [State.vval, State.stream_retired, State.stream_putV]
    exact Stream.vreg_setVreg_other _ _ _ hr
  · rw [State.stream_retired, State.stream_putV]
    rfl

/-! ### Tiles -/

@[simp] theorem Tile.row_setRow_same (x : Tile) (r : Nat) (v : RowData) (bz : Bool) : (x.setRow r v bz).row r = ⟨v, bz⟩ :=
  SMap.get_put_same _ _ _ _

theorem Tile.row_setRow_other (x : Tile) {r k : Nat} (v : RowData) (bz : Bool) (h : k ≠ r) :
    (x.setRow r v bz).row k = x.row k :=
  SMap.get_put_other _ _ _ h

@[simp] theorem CoreImage.tile_setStream (m : CoreImage) (x : StreamId) (t : Stream) (n : Nat) :
    (m.setStream x t).tile n = m.tile n := by cases x <;> rfl

/-- A tile replaced, with its latches dropped. -/
theorem State.core_setTile (s : State) (c n : Nat) (v : Tile) : (s.setTile c n v).core c =
    { s.core c with
      img := { (s.core c).img with tiles := SMap.put (s.core c).img.tiles n v }
      latches := dropLatches (s.core c).latches n } :=
  s.core_modCore_same c _

@[simp] theorem State.tile_setTile_same (s : State) (c n : Nat) (v : Tile) :
    ((s.setTile c n v).core c).img.tile n = v := by
  rw [State.core_setTile]; exact SMap.get_put_same _ _ _ _

theorem State.tile_setTile_other (s : State) (c : Nat) {n k : Nat} (v : Tile) (h : k ≠ n) :
    ((s.setTile c n v).core c).img.tile k = (s.core c).img.tile k := by
  rw [State.core_setTile]; exact SMap.get_put_other _ _ _ h

@[simp] theorem State.store_setTile (s : State) (c n : Nat) (v : Tile) :
    ((s.setTile c n v).core c).img.store = (s.core c).img.store := by rw [State.core_setTile]

@[simp] theorem State.res_setTile (s : State) (c n : Nat) (v : Tile) :
    ((s.setTile c n v).core c).res = (s.core c).res := by rw [State.core_setTile]

@[simp] theorem State.stream_setTile (s : State) (i : At) (n : Nat) (v : Tile) :
    (s.setTile i.core n v).stream i = s.stream i := by
  unfold State.stream; rw [State.core_setTile]; cases i.stream <;> rfl

@[simp] theorem State.tile_retired (s : State) (i : At) (n : Nat) :
    ((s.retired i).core i.core).img.tile n = (s.core i.core).img.tile n := by
  rw [State.core_retired]; exact CoreImage.tile_setStream _ _ _ _

@[simp] theorem State.store_retired (s : State) (i : At) :
    ((s.retired i).core i.core).img.store = (s.core i.core).img.store := by
  rw [State.core_retired]; exact CoreImage.store_setStream _ _ _

/-! ### `tvrd` and `tvwr` (R86) -/

/-- Does the tile hold the row, and the half of it? -/
def Tile.hasHalf (x : Tile) (r : Nat) (half : Bool) : Bool :=
  x.configured && decide (r < x.rows) && !(half && decide (x.len ≤ 256))

/-- The checks of a tile's bounds, one after the other. -/
theorem Tile.hasHalf_ite {α : Type} (x : Tile) (r : Nat) (half : Bool) (a b : α) :
    (if x.hasHalf r half then a else b) =
      if !x.configured then b else if x.rows ≤ r then b else if half && decide (x.len ≤ 256) then b else a := by
  unfold Tile.hasHalf
  cases x.configured with
  | false => rfl
  | true =>
    by_cases hr : x.rows ≤ r
    · simp [hr, Nat.not_lt.2 hr]
    · cases half && decide (x.len ≤ 256) <;> simp [hr, Nat.not_le.1 hr]

section
variable {s : State} {i : At} {tile : TReg} {sRow : SReg} (half write : Bool) (k : Tile → Nat → State → Eff)

/-- The checks of `tvrd` and `tvwr` in their order: the mark of the row index, the tile's bounds, the tile's other users. -/
theorem tileVec_ready (h : s.ready i) (hh : s.tileHeld i tile.toNat = false) :
    tileVec i tile sRow half write k s = .next (s.finish i
      (if (s.sval i sRow).bz then .fault codeBlazeBite 0
       else if ((s.core i.core).img.tile tile.toNat).hasHalf ((s.sval i sRow).val.toNat % 256) half then
        s.ordered i (if write then [] else [tile.toNat]) (if write then [tile.toNat] else []) []
          (k ((s.core i.core).img.tile tile.toNat) ((s.sval i sRow).val.toNat % 256))
       else .fault codeTileBounds 0)) := by
  rw [tileVec, issue_ready s h, Tile.hasHalf_ite]
  simp only [State.unheld, List.any_cons, List.any_nil, hh, Bool.or_self, Bool.false_eq_true, if_false]
  rfl

/-- A marked row index bites. -/
theorem tileVec_bites (h : s.ready i) (hh : s.tileHeld i tile.toNat = false) (hb : (s.sval i sRow).bz = true) :
    tileVec i tile sRow half write k s = .next (s.faultStream i codeBlazeBite 0) := by
  rw [tileVec_ready half write k h hh, if_pos hb, State.finish_fault h]

/-- A row or a half outside the tile faults. -/
theorem tileVec_outside (h : s.ready i) (hh : s.tileHeld i tile.toNat = false) (hb : (s.sval i sRow).bz = false)
    (hi : ((s.core i.core).img.tile tile.toNat).hasHalf ((s.sval i sRow).val.toNat % 256) half = false) :
    tileVec i tile sRow half write k s = .next (s.faultStream i codeTileBounds 0) := by
  rw [tileVec_ready half write k h hh, if_neg (by simp [hb]), if_neg (by simp [hi]), State.finish_fault h]

/-- A half of the tile that no instruction in flight uses is at hand. -/
theorem tileVec_inside (h : s.ready i) (hh : s.tileHeld i tile.toNat = false) (hb : (s.sval i sRow).bz = false)
    (hi : ((s.core i.core).img.tile tile.toNat).hasHalf ((s.sval i sRow).val.toNat % 256) half = true)
    (hu : (if write then s.tileWriteBusy i tile.toNat else s.tileReadBusy i tile.toNat) = false) :
    tileVec i tile sRow half write k s = .next (s.finish i
      (k ((s.core i.core).img.tile tile.toNat) ((s.sval i sRow).val.toNat % 256) s)) := by
  rw [tileVec_ready half write k h hh, if_neg (by simp [hb]), if_pos hi]
  cases write with
  | false =>
    have hu : s.tileReadBusy i tile.toNat = false := hu
    simp [State.ordered, hu]
  | true =>
    have hu : s.tileWriteBusy i tile.toNat = false := hu
    simp [State.ordered, hu]

end

/-- The state after an instruction that wrote one row of a tile, with the row's mark counted. -/
def State.rowWritten (s : State) (i : At) (n r : Nat) (v : RowData) (bz : Bool) : State :=
  ((s.setTile i.core n (((s.core i.core).img.tile n).setRow r v bz)).blazeWritten i bz).retired i

section
variable {s : State} {i : At} {n r : Nat} {v : RowData} {bz : Bool}

/-- An instruction whose effect is one row of a tile retires with it. -/
theorem State.finish_setRow (h : s.ready i) :
    s.finish i (.done ((s.setTile i.core n (((s.core i.core).img.tile n).setRow r v bz)).blazeWritten i bz)) =
      s.rowWritten i n r v bz :=
  s.finish_done h (by simp) (by simpa using h.2.2)

theorem onlyCore_rowWritten : OnlyCore i.core s (s.rowWritten i n r v bz) :=
  ((onlyCore_modCore s i.core _).trans (onlyCore_blazeWritten _ i bz)).trans (onlyCore_retired _ i)

theorem State.tile_rowWritten_same :
    ((s.rowWritten i n r v bz).core i.core).img.tile n = ((s.core i.core).img.tile n).setRow r v bz := by
  simp [State.rowWritten]

theorem State.tile_rowWritten_other {k : Nat} (h : k ≠ n) :
    ((s.rowWritten i n r v bz).core i.core).img.tile k = (s.core i.core).img.tile k := by
  simp [State.rowWritten, State.tile_setTile_other _ _ _ h]

theorem State.store_rowWritten : ((s.rowWritten i n r v bz).core i.core).img.store = (s.core i.core).img.store := by
  simp [State.rowWritten]

theorem State.stream_rowWritten : (s.rowWritten i n r v bz).stream i = (s.stream i).next := by
  simp [State.rowWritten]

end

theorem exec_tvrd (i : At) (tile : TReg) (v : VReg) (sRow : SReg) (half : Bool) (s : State) :
    exec (.tvrd i tile v sRow half) s = execTvrd i tile v sRow half s := rfl

theorem exec_tvwr (i : At) (tile : TReg) (v : VReg) (sRow : SReg) (half : Bool) (s : State) :
    exec (.tvwr i tile v sRow half) s = execTvwr i tile v sRow half s := rfl

/-- Settles O22: the checks decide the outcome; past them `tvrd` gives a vector register and `tvwr` one row. -/
theorem tileRowMoves : Obligations.TileRowMoves := by
  intro i tile v sRow half s h hh x r inside hp old
  refine ⟨fun hb => ?bites, fun hb hi => ?outside, fun hb hi => ⟨fun hu => ?tvrd, fun hu => ?tvwr⟩⟩
  case bites =>
    have bites write k := tileVec_bites half write k h hh hb
    exact ⟨by rw [exec_tvrd, execTvrd, bites], by rw [exec_tvwr, execTvwr, bites]⟩
  case outside =>
    have faults write k := tileVec_outside half write k h hh hb hi
    exact ⟨by rw [exec_tvrd, execTvrd, faults], by rw [exec_tvwr, execTvwr, faults]⟩
  case tvrd =>
    refine givesVector_of_putV h ?_
    rw [exec_tvrd, execTvrd, tileVec_inside half false _ h hh hb hi hu]
    rfl
  case tvwr =>
    rw [exec_tvwr, execTvwr, tileVec_inside half true _ h hh hb hi hu, State.finish_setRow h]
    refine ⟨_, rfl, onlyCore_rowWritten, ?row, fun k hk => ?rows, fun n hn => State.tile_rowWritten_other hn,
      State.store_rowWritten, State.stream_rowWritten⟩
    case row =>
      rw [State.tile_rowWritten_same, Tile.row_setRow_same]
      simp only [destMark, decide_eq_true_eq]
      rfl
    case rows => rw [State.tile_rowWritten_same, Tile.row_setRow_other _ _ _ hk]

end Sys2Proof.Machine
end
